-- ==== Sys2Proof/Word.lean ====
section
/-!
DEFINITION. The plain types of the model: bytes, words and finite maps over natural keys.

A finite map is a list of (key, value) pairs in one canonical form: keys strictly rising and no
entry equal to the default that an unlisted key reads as. So equal maps are equal data.
-/

namespace Sys2Proof

/-- One byte. -/
abbrev Byte := BitVec 8
/-- A 32-bit word: an INT32 lane, an FP32 value, a unit reference. -/
abbrev Word32 := BitVec 32
/-- A 64-bit word: a scalar register, a BAR0 register, a packet's parameter word. -/
abbrev Word64 := BitVec 64

/-- A finite map from natural keys, by its entries in rising order of key. -/
abbrev NMap (α : Type) := List (Nat × α)

/-- The value of key `k`, or the default `d` where `k` is not listed. -/
def NMap.get {α : Type} (m : NMap α) (k : Nat) (d : α) : α :=
  match m with
  | [] => d
  | (k', v) :: t => if k' = k then v else NMap.get t k d

/-- `m` without any entry of key `k`. -/
def NMap.erase {α : Type} (m : NMap α) (k : Nat) : NMap α :=
  match m with
  | [] => []
  | (k', v) :: t => if k' = k then NMap.erase t k else (k', v) :: NMap.erase t k

/-- `m` with the entry `(k, v)` put in front of the first greater key. -/
def NMap.insert {α : Type} (m : NMap α) (k : Nat) (v : α) : NMap α :=
  match m with
  | [] => [(k, v)]
  | (k', v') :: t => if k < k' then (k, v) :: (k', v') :: t else (k', v') :: NMap.insert t k v

/-- `m` with key `k` bound to `v`; binding the default `d` removes the entry. -/
def NMap.set {α : Type} [DecidableEq α] (m : NMap α) (k : Nat) (v d : α) : NMap α :=
  if v = d then NMap.erase m k else NMap.insert (NMap.erase m k) k v

/-- `m` with the value of `k` replaced by `f` of it. -/
def NMap.modify {α : Type} [DecidableEq α] (m : NMap α) (k : Nat) (d : α) (f : α → α) : NMap α :=
  NMap.set m k (f (NMap.get m k d)) d

/-- Whether the keys of `m` rise strictly from above `lo` and no entry holds the default `d`. -/
def NMap.wfFrom {α : Type} [DecidableEq α] (d : α) : Option Nat → NMap α → Bool
  | _, [] => true
  | lo, (k, v) :: t =>
    (match lo with | none => true | some l => decide (l < k)) && !decide (v = d) && NMap.wfFrom d (some k) t

/-- The canonical form of a map whose unlisted keys read as `d`. -/
def NMap.wf {α : Type} [DecidableEq α] (d : α) (m : NMap α) : Bool := NMap.wfFrom d none m

end Sys2Proof
end

