-- ==== Sys2Proof/Syntax.lean ====
section
/-!
DEFINITION. The commands of the block: one constructor for each row of spec/opcode_table.json, and
the operands that a row carries. The table gives its rows no bits, so operands are chosen from the
rule that each row names.
-/

namespace Sys2Proof

/-- A host command packet as its row carries it: the queue that accepted it, the 128-bit header of
R463 and the parameter words P0 to P5 (bytes 16 to 63 of the slot). -/
structure Cmd where
  queue : Nat
  hdr : BitVec 128
  p0 : Word64
  p1 : Word64
  p2 : Word64
  p3 : Word64
  p4 : Word64
  p5 : Word64
deriving DecidableEq, Repr

/-- A translation cache's owner (R359). -/
inductive Engine where
  /-- A core, by device-wide index. -/
  | core (c : Nat)
  /-- The DMA engine of a cluster. -/
  | dma (cl : Nat)
  /-- The embedding engine of a cluster. -/
  | emb (cl : Nat)
  /-- The placement engine of I/O die 0 (IO-A) or 1 (IO-B). -/
  | place (io : Nat)
deriving DecidableEq, Repr

/-- One lane's element that another device returned for a gather through a remote window. -/
structure LaneData where
  lane : Nat
  value : Word32
  poisoned : Bool
deriving DecidableEq, Repr

/-- A table row in its stored format, as an owner device returned it (R256). -/
structure RowData where
  bytes : List Byte
  poisoned : Bool
deriving DecidableEq, Repr

/-- A mismatch that the array's checks found in a run (R158 to R161). -/
structure CheckMismatch where
  /-- 0 row, 1 column, 2 duplicated stage. -/
  check : Nat
  row : Nat
  column : Nat
  block : Nat
deriving DecidableEq, Repr

/-- What the hardware's checks found during one run: mismatches, and an uncorrectable error inside
half 0 or half 1 (R156). With no error all are absent. -/
structure ArrayError where
  mismatches : List CheckMismatch
  half0 : Bool
  half1 : Bool
deriving DecidableEq, Repr

/-- An operation that carries a WCET: a slot of a group, a DMA descriptor, a lookup. -/
inductive OpRef where
  | slot (c g i : Nat)
  | dma (cl q i : Nat)
  | lookup (cl i : Nat)
deriving DecidableEq, Repr

/-- What a maintenance of a stack meets: whether the drift indicators require retraining, whether
the retraining succeeds, the fewest spare rows left afterwards, and the jobs held here that map the stack on another of
their devices (R343 to R346, R645). -/
structure Maintenance where
  drift : Bool
  trained : Bool
  spares : Nat
  far : List Nat
deriving DecidableEq, Repr

/-- A tick frame's message (R375). -/
structure Frame where
  timestamp : Word64
  route : Word32
  sJob : Word32
  sEpoch : Word32
  sLayer : BitVec 16
  sOperator : BitVec 16
  nodeLo : BitVec 16
  nodeLen : BitVec 16
  eJob : Word32
  eEpoch : Word32
  eLayer : BitVec 16
  eOperator : BitVec 16
  stream : BitVec 16
  ePos : Word32
  poison : BitVec 40
  protect : BitVec 40
  payload : List (BitVec 256)
deriving DecidableEq, Repr

/-- A frame as its lanes bring it (R378, R379): the message of the codeword that was sent, and what the lanes added to that
codeword's symbols, by symbol. -/
structure Wire where
  message : List Byte
  errors : NMap (BitVec 10)
deriving DecidableEq, Repr

/-- What a port meets in its bring-up steps (R389): the rates and revisions of the peer, the numbers that the peer names, and
the measurements of calibration in arithmetic cycles (R390). -/
structure BringUp where
  laneTrained : Bool
  peer64Only : Bool
  peerRev3 : Bool
  peerDevice : Nat
  peerPort : Nat
  /-- Echo round trip of the control lane in cycles. -/
  roundTrip : Nat
  /-- Phase after the receiver's own boundary at which data and control frames complete. -/
  psiData : Nat
  psiCtrl : Nat
deriving DecidableEq, Repr

/-- The end of a whole field test: whether the final signature matched, and its low 64 bits. -/
structure TestResult where
  passed : Bool
  signature : Word64
deriving DecidableEq, Repr

/-- Which part of FAB_TIMESTAMP a read names (R65). -/
inductive TimestampPart where
  | full
  | low
  | high
deriving DecidableEq, Repr

/-- An inbound RoCE v2 packet of a queue pair (R489, R495). -/
structure RocePacket where
  psn : Nat
  /-- Whether ECN marked it on its way (R490). -/
  marked : Bool
  /-- Another operation than RDMA WRITE, with or without immediate. -/
  other : Bool
  first : Bool
  last : Bool
  rkey : Word32
  /-- RETH virtual address: a byte offset in the region (first packets). -/
  offset : Nat
  /-- RETH length of the whole message (first packets). -/
  length : Nat
  payload : List Byte
deriving DecidableEq, Repr

/-- An MCTP message over I3C (R639, R548). -/
inductive MctpMessage where
  | control
  | inventory
  | records
deriving DecidableEq, Repr

/-- What a cold power-on meets: the reference valid at power-good (R597), the PUF reconstruction
(R557), the stacks that train (bit s, R646), the position straps (R638). -/
structure BootInput where
  refValid : Bool
  pufOk : Bool
  trained : BitVec 12
  straps : BitVec 4
deriving DecidableEq, Repr

/-- What resets the link (R609, R614). -/
inductive LinkReset where
  | perst
  | hotReset
  | linkLoss
deriving DecidableEq, Repr

/-- A PCI Express configuration request (R449, R622). -/
inductive ConfigRequest where
  | read
  | sriov (enable : Bool) (vfs : Nat)
  | resizeBar2 (log2GiB : Nat)
  /-- MSI-X of function `fn`: its enable and function-mask bits (R468). -/
  | msix (fn : Nat) (enable functionMask : Bool)
  /-- The mask bit of vector `v` in the MSI-X table of function `fn` (R468). -/
  | msixVector (fn v : Nat) (mask : Bool)
deriving DecidableEq, Repr

/-- A doorbell page: the queue it belongs to, and the function in whose BAR0 it is written (R451). -/
structure Doorbell where
  fn : Nat
  queue : Nat
deriving DecidableEq, Repr

/-- An I3C address assignment (R639). -/
inductive AddressAssignment where
  | setdasa (staticAddr dynAddr : BitVec 7)
  | entdaa (dynAddr : BitVec 7)
deriving DecidableEq, Repr

/-- A group that is defined in the fabric and has no entry on this device, as its home device answers for it: home,
direct members, resolved set as (device, device-wide core index), whether R45 applies, depth. -/
structure FarGroup where
  home : Nat
  members : List Word32
  cores : List (Nat × Nat)
  pfOnly : Bool
  depth : Nat
deriving DecidableEq, Repr

/-- A group command with what the other home devices answer about groups that have no entry here (R46, log entry 93). -/
structure GroupCmd where
  cmd : Cmd
  far : List (Nat × FarGroup)
deriving DecidableEq, Repr

/-- A requester's pin, which travels with each key: the version and the committed epoch (R256). -/
structure RowPin where
  version : Byte
  ce : Word32
deriving DecidableEq, Repr

/-- What a stack reports with a scrub access: the spare rows left in the sector's bank, and its on-die reports since the last
access (R340, R645). -/
structure ScrubSeen where
  spares : Nat
  reports : Nat
deriving DecidableEq, Repr

/-- What another device tells of a job's end: the schedule tick at which it stops and its status, and its cores that have failed
(R57, R71, log entry 102). -/
structure PeerEnd where
  dev : Nat
  tick : Nat
  status : Nat
  cores : List Nat
deriving DecidableEq, Repr

/-- The end of a job's work: the job's key, and what other devices of the job have told of its end. -/
structure JobEnd where
  job : Nat
  peers : List PeerEnd
deriving DecidableEq, Repr

/-- What a gather's release brings: lanes read from other devices, and which lanes' sectors arrive with it (R652). -/
structure GatherData where
  remote : List LaneData
  lanes : Word32
deriving DecidableEq, Repr

/-! ### The Ocyan image

The manual names the sections of an image and what each holds, and gives no byte layout, so
IMAGE_LOAD carries the image as this structure (log entry 10). -/

/-- One instruction stream (section 0x02). -/
structure StreamImg where
  device : Nat
  core : Nat
  half : Option Nat
  groups : List Nat
  base : Nat
  entry : Nat
  fixed : Bool
  /-- Issue-ring entries (16 bits each), used when `fixed`. -/
  ring : List (BitVec 16)
  code : List Word64
  startTick : Nat
deriving DecidableEq, Repr

/-- A live range of a cheap point: registers of one group of a core (R199). -/
structure LiveRegs where
  core : Nat
  group : Nat
  vregs : List Nat
  sregs : List Nat
  pregs : List Nat
  stack : Bool
deriving DecidableEq, Repr

/-- One cheap point (section 0x07). -/
structure CheapImg where
  index : Nat
  tick : Nat
  regs : List LiveRegs
  /-- Banks saved on every streaming core. -/
  banks : List Nat
  /-- Core-store ranges: core, offset, length. -/
  store : List (Nat × Nat × Nat)
  /-- Bytes of live ranges on this device, all cores together. -/
  bytes : Nat
deriving DecidableEq, Repr

/-- One commit point (section 0x05): its tick and whether it is a token boundary (R301). -/
structure StepImg where
  tick : Nat
  boundary : Bool
deriving DecidableEq, Repr

/-- A reserved maintenance window (section 0x08). -/
structure WindowImg where
  tick : Nat
  stack : Nat
  length : Nat
deriving DecidableEq, Repr

/-- A destination of one sector that the receiver's slot table expects (R395): written at a local
virtual address of the job's partition or through a window (R366), passed to an outgoing port and schedule tick, or brought to two
places, as the copies of a scheduled multicast are (R400); or such a source, of two the first. -/
inductive SlotDest where
  | store (core off : Nat)
  | mem (va : Nat)
  | window (w off : Nat)
  | forward (port tick : Nat)
  | also (a b : SlotDest)
deriving DecidableEq, Repr

/-- The token for which a slot table reserves a class S place (R411, R412): a Ceiling's arrival or release, a SLIP_SET, or a post to
one semaphore, which takes two places. -/
inductive SKind where
  | arrive
  | release
  | slipSet
  | post (dev cl sem : Nat)
deriving DecidableEq, Repr

/-- A class S place of a control frame that a slot table names (R411, R412). -/
structure SPlace where
  place : Nat
  kind : SKind
deriving DecidableEq, Repr

/-- One tick of a port direction in a slot table (section 0x04). -/
structure SlotImg where
  port : Nat
  receive : Bool
  /-- Schedule tick of the frame. -/
  tick : Nat
  /-- Sending: the sectors' sources; receiving: their destinations. -/
  places : List SlotDest
  /-- Class S token places reserved in that tick. -/
  tokens : List SPlace
  collective : Bool
  nodeLo : Nat
  nodeLen : Nat
  /-- The device that sends, for a refusal of a scheduled access (R367). -/
  source : Nat
deriving DecidableEq, Repr

/-- A multicast group's ports at this device (R400), and whether this device receives too. -/
structure McastImg where
  group : Nat
  ports : List Nat
  here : Bool
deriving DecidableEq, Repr

/-- A lookup template (section 0x0A): scheduled-class capacity in rows for each owner device. -/
structure TemplateImg where
  capacity : List (Nat × Nat)
deriving DecidableEq, Repr

/-- A variable-latency operation, collective or scheduled transfer as the toolchain placed it: its
issue tick and WCET tick (R73). -/
structure SpanImg where
  issue : Nat
  wcet : Nat
deriving DecidableEq, Repr

/-- An Ocyan image (the section table of chapter 02). -/
structure Image where
  /-- The digests of the image and of its signer's key (R564, R568); IMAGE_LOAD takes both from the image's bytes. -/
  digest : BitVec 512
  signer : BitVec 512
  generation : Nat
  slipInterval : Nat
  horizon : Nat
  reproducible : Bool
  devices : List Nat
  streams : List StreamImg
  steps : List StepImg
  slipPoints : List Nat
  cheaps : List CheapImg
  windows : List WindowImg
  /-- Stacks that the image's jobs map. -/
  hbmStacks : List Nat
  wcets : List Nat
  slots : List SlotImg
  mcasts : List McastImg
  templates : List TemplateImg
  spans : List SpanImg
  /-- Semaphores assigned to the job: cluster, number. -/
  sems : List (Nat × Nat)
  /-- DMA queues named by the descriptor-list section: cluster, queue. -/
  dmaQueues : List (Nat × Nat)
  /-- Replay core of each streaming core (R536). -/
  replay : List (Nat × Nat)
  /-- Core-store ranges of each snapshot: core, offset, length (R534). -/
  snapStore : List (Nat × Nat × Nat)
  /-- Replay buffers of each core in its cluster's Deck scratch: core, slice offset of buffer 0, bytes of a buffer. -/
  replayBufs : List (Nat × Nat × Nat)
  /-- Generation parameters, for a generation image (R306): T_STEP, PREFILL, slots. -/
  gen : Option (Nat × Nat × Nat)
deriving DecidableEq, Repr

/-- The tags of a counter interval (R585). -/
structure CntTags where
  opcode : BitVec 16
  seq : Word32
  job : Word32
  layer : BitVec 16
  operator : BitVec 16
deriving DecidableEq, Repr

/-- Tags of an interval that no command began (R589, Reset column). -/
def CntTags.none : CntTags := { opcode := 0xFFFF, seq := 0, job := 0, layer := 0xFFFF, operator := 0xFFFF }

/-- The content of a two-phase mode change, as the coordinator delivers it before it asks for the
change (R433, R434). -/
inductive McContent where
  /-- Kind 0x01, install: group number, home device, cores as (device, device-wide core index),
  depth, whether R45 applies, direct members. -/
  | groupInstall (group home : Nat) (cores : List (Nat × Nat)) (depth : Nat) (pfOnly : Bool) (members : List Word32)
  /-- Kind 0x01, clear. -/
  | groupClear (group : Nat)
  /-- Kinds 0x02 and 0x05: launch of a job; the image is named by its digest, `batch` says that a batcher formed it, `tags` are those of its command (R585). -/
  | launch (part : Nat) (digest : BitVec 512) (entry : Nat) (number : Word32) (unit : Word32) (batch : Bool) (tags : CntTags)
  /-- Kind 0x03. -/
  | flip (table : Nat) (version : Byte)
  /-- Kind 0x04. -/
  | patchCommit (table : Nat)
  /-- Kind 0x06: make a pre-emption pending for cheap point `n`; resume a pre-empted job, or start one that has waited. -/
  | preempt (part : Nat) (number : Word32) (n : Nat)
  | resume (part : Nat) (number : Word32)
  /-- Kind 0x07. -/
  | remap (table failed spare slot : Nat) (version : Byte) (ce : Word32)
deriving DecidableEq, Repr

/-- The commands, one constructor for each row of spec/opcode_table.json, in its order. In the
Parux rows `c` is the device-wide core index (R22), `g` the group and `w` bits [55:0] of the
instruction word (R208); the row fixes the opcode in bits [63:56]. -/
inductive Instr where
  /-- S_ADD (R218): Scalar add of two registers or a register and an immediate. -/
  | sAdd (c g : Nat) (w : BitVec 56)
  /-- S_SUB (R218): Scalar subtract. -/
  | sSub (c g : Nat) (w : BitVec 56)
  /-- S_MUL (R218): Scalar multiply keeping the low 64 bits. -/
  | sMul (c g : Nat) (w : BitVec 56)
  /-- S_AND (R218): Scalar bitwise AND. -/
  | sAnd (c g : Nat) (w : BitVec 56)
  /-- S_OR (R218): Scalar bitwise OR. -/
  | sOr (c g : Nat) (w : BitVec 56)
  /-- S_XOR (R218): Scalar bitwise XOR. -/
  | sXor (c g : Nat) (w : BitVec 56)
  /-- S_SHL (R218): Scalar shift left. -/
  | sShl (c g : Nat) (w : BitVec 56)
  /-- S_SHR (R218): Scalar logical shift right. -/
  | sShr (c g : Nat) (w : BitVec 56)
  /-- S_SRA (R218): Scalar arithmetic shift right. -/
  | sSra (c g : Nat) (w : BitVec 56)
  /-- S_MIN (R218): Scalar signed or unsigned minimum. -/
  | sMin (c g : Nat) (w : BitVec 56)
  /-- S_MAX (R218): Scalar signed or unsigned maximum. -/
  | sMax (c g : Nat) (w : BitVec 56)
  /-- S_CMP (R218): Scalar compare writing 1 or 0 by COND. -/
  | sCmp (c g : Nat) (w : BitVec 56)
  /-- S_LIH (R218): Loads IMM32 into the upper half of a scalar register. -/
  | sLih (c g : Nat) (w : BitVec 56)
  /-- S_ID (R218): Reads an identity value selected by the immediate into a scalar register. -/
  | sId (c g : Nat) (w : BitVec 56)
  /-- S_FLAGS (R218): Reads the group's status flags and clears the selected ones. -/
  | sFlags (c g : Nat) (w : BitVec 56)
  /-- S_VGET (R218): Copies one lane of a vector register into a scalar register. -/
  | sVget (c g : Nat) (w : BitVec 56)
  /-- V_ADD (R218): Per-lane INT32 add. -/
  | vAdd (c g : Nat) (w : BitVec 56)
  /-- V_SUB (R218): Per-lane INT32 subtract. -/
  | vSub (c g : Nat) (w : BitVec 56)
  /-- V_MUL (R218): Per-lane INT32 multiply, low 32 bits. -/
  | vMul (c g : Nat) (w : BitVec 56)
  /-- V_AND (R218): Per-lane bitwise AND. -/
  | vAnd (c g : Nat) (w : BitVec 56)
  /-- V_OR (R218): Per-lane bitwise OR. -/
  | vOr (c g : Nat) (w : BitVec 56)
  /-- V_XOR (R218): Per-lane bitwise XOR. -/
  | vXor (c g : Nat) (w : BitVec 56)
  /-- V_SHL (R218): Per-lane shift left. -/
  | vShl (c g : Nat) (w : BitVec 56)
  /-- V_SHR (R218): Per-lane logical shift right. -/
  | vShr (c g : Nat) (w : BitVec 56)
  /-- V_SRA (R218): Per-lane arithmetic shift right. -/
  | vSra (c g : Nat) (w : BitVec 56)
  /-- V_MIN (R218): Per-lane signed or unsigned minimum. -/
  | vMin (c g : Nat) (w : BitVec 56)
  /-- V_MAX (R218): Per-lane signed or unsigned maximum. -/
  | vMax (c g : Nat) (w : BitVec 56)
  /-- V_CMP (R218): Per-lane integer compare into a predicate, faulting on poisoned lanes. -/
  | vCmp (c g : Nat) (w : BitVec 56)
  /-- V_SEL (R218): Per-lane select between two registers by a predicate. -/
  | vSel (c g : Nat) (w : BitVec 56)
  /-- V_BCAST (R218): Broadcasts a scalar, immediate or lane number to every lane. -/
  | vBcast (c g : Nat) (w : BitVec 56)
  /-- V_PERM (R218): Per-lane permutation across the lanes of a register. -/
  | vPerm (c g : Nat) (w : BitVec 56)
  /-- V_IRED (R219): Integer sum, minimum or maximum reduction of the active lanes into a scalar. -/
  | vIred (c g : Nat) (w : BitVec 56)
  /-- F_ADD (R218): Per-lane floating-point add. -/
  | fAdd (c g : Nat) (w : BitVec 56)
  /-- F_SUB (R218): Per-lane floating-point subtract. -/
  | fSub (c g : Nat) (w : BitVec 56)
  /-- F_MUL (R218): Per-lane floating-point multiply. -/
  | fMul (c g : Nat) (w : BitVec 56)
  /-- F_FMA (R218): Per-lane fused multiply-add with one rounding. -/
  | fFma (c g : Nat) (w : BitVec 56)
  /-- F_MIN (R218): Per-lane minimumNumber. -/
  | fMin (c g : Nat) (w : BitVec 56)
  /-- F_MAX (R218): Per-lane maximumNumber. -/
  | fMax (c g : Nat) (w : BitVec 56)
  /-- F_CMP (R218): Per-lane float compare into a predicate. -/
  | fCmp (c g : Nat) (w : BitVec 56)
  /-- F_ABS (R218): Per-lane absolute value. -/
  | fAbs (c g : Nat) (w : BitVec 56)
  /-- F_NEG (R218): Per-lane negation. -/
  | fNeg (c g : Nat) (w : BitVec 56)
  /-- F_DIV (R217): Per-lane IEEE division. -/
  | fDiv (c g : Nat) (w : BitVec 56)
  /-- F_SQRT (R217): Per-lane IEEE square root. -/
  | fSqrt (c g : Nat) (w : BitVec 56)
  /-- F_EXP2 (R217): Per-lane correctly rounded 2^x. -/
  | fExp2 (c g : Nat) (w : BitVec 56)
  /-- F_LOG2 (R217): Per-lane correctly rounded log2 x. -/
  | fLog2 (c g : Nat) (w : BitVec 56)
  /-- F_FRED (R219): FP32 canonical-order reduction of the active lanes into a scalar. -/
  | fFred (c g : Nat) (w : BitVec 56)
  /-- F_ARGMAX (R219): Lowest active lane holding the greatest non-NaN value. -/
  | fArgmax (c g : Nat) (w : BitVec 56)
  /-- CV_CVT (R114): Per-lane format conversion in saturating or non-saturating mode. -/
  | cvCvt (c g : Nat) (w : BitVec 56)
  /-- CV_ENC (R220): Encodes the group's 32 lanes as one MX or P4-32 block. -/
  | cvEnc (c g : Nat) (w : BitVec 56)
  /-- CV_DEC (R221): Decodes one MX or P4-32 block into 32 lanes. -/
  | cvDec (c g : Nat) (w : BitVec 56)
  /-- LD (R222): Core-store load per lane, contiguous, indexed or uniform. -/
  | ldW (c g : Nat) (w : BitVec 56)
  /-- ST (R222): Core-store store per lane. -/
  | stW (c g : Nat) (w : BitVec 56)
  /-- LD_CQ8 (R223): Decodes CQ8 codes through a codebook copy in core store. -/
  | ldCq8 (c g : Nat) (w : BitVec 56)
  /-- GT (R224): Gather from device virtual addresses into a vector register, translated at issue. -/
  | gtW (c g : Nat) (w : BitVec 56)
  /-- SC (R224): Scatter of a vector register to device virtual addresses, translated at issue. -/
  | scW (c g : Nat) (w : BitVec 56)
  /-- DK_ZERO (R298): Zero-a-line of the Deck cache line holding an address. -/
  | dkZero (c g : Nat) (w : BitVec 56)
  /-- MX_CFG (R144): Replaces the array configuration word of the whole array or a half. -/
  | mxCfg (c g : Nat) (w : BitVec 56)
  /-- MX_RUN (R141): Queues one matrix-array run into a bank in mode NEW or ADD. -/
  | mxRun (c g : Nat) (w : BitVec 56)
  /-- MX_DRAIN (R148): Queues a drain of one bank to core store. -/
  | mxDrain (c g : Nat) (w : BitVec 56)
  /-- MX_SPLIT (R151): Requests whole or split mode and the owners of the halves. -/
  | mxSplit (c g : Nat) (w : BitVec 56)
  /-- JMP (R218): Unconditional jump. -/
  | jmp (c g : Nat) (w : BitVec 56)
  /-- BR_ANY (R218): Branch when any active lane has the predicate set. -/
  | brAny (c g : Nat) (w : BitVec 56)
  /-- BR_ALL (R218): Branch when all active lanes have the predicate set. -/
  | brAll (c g : Nat) (w : BitVec 56)
  /-- BR_NONE (R218): Branch when no active lane has the predicate set. -/
  | brNone (c g : Nat) (w : BitVec 56)
  /-- BR_Z (R218): Branch when a scalar is zero. -/
  | brZ (c g : Nat) (w : BitVec 56)
  /-- BR_NZ (R218): Branch when a scalar is not zero. -/
  | brNz (c g : Nat) (w : BitVec 56)
  /-- CALL (R218): Saves the return index and jumps. -/
  | call (c g : Nat) (w : BitVec 56)
  /-- JMP_R (R218): Jumps to the index held in a scalar register. -/
  | jmpR (c g : Nat) (w : BitVec 56)
  /-- MASK_PUSH (R174): Pushes the active mask and ANDs it with a predicate. -/
  | maskPush (c g : Nat) (w : BitVec 56)
  /-- MASK_ELSE (R174): Sets the active mask to the lanes excluded since the push. -/
  | maskElse (c g : Nat) (w : BitVec 56)
  /-- MASK_POP (R174): Restores the active mask from the stack. -/
  | maskPop (c g : Nat) (w : BitVec 56)
  /-- CHEAP_MARK (R198): Marks a cheap point, checking nothing is outstanding and stopping if pre-emption is pending. -/
  | cheapMark (c g : Nat) (w : BitVec 56)
  /-- END (R230): Ends the group's execution for the job. -/
  | endGroup (c g : Nat) (w : BitVec 56)
  /-- SEM_WAIT (R418): Waits on a semaphore count, passing or parking in its queue. -/
  | semWait (c g : Nat) (w : BitVec 56)
  /-- SEM_POST (R420): Requests a post of a count to a local or remote semaphore. -/
  | semPost (c g : Nat) (w : BitVec 56)
  /-- TICK_WAIT (R218): Parks the group until STICK reaches a target. -/
  | tickWait (c g : Nat) (w : BitVec 56)
  /-- COMMIT (R229): Marks the group's arrival at the commit point of the current step. -/
  | commit (c g : Nat) (w : BitVec 56)
  /-- DMA_ENQ (R227): Submits a DMA descriptor from core store to a queue. -/
  | dmaEnq (c g : Nat) (w : BitVec 56)
  /-- EMB_SUB (R227): Submits an embedding lookup with a template and parameter block. -/
  | embSub (c g : Nat) (w : BitVec 56)
  /-- GATHER_RELEASE (R193): A gather's data is written to its destination registers and its slot frees. -/
  | gatherRelease (c g slot : Nat) (data : GatherData)
  /-- SCATTER_VISIBLE (R225): A scatter's data becomes visible at its target and its slot frees. -/
  | scatterVisible (c g slot : Nat)
  /-- DK_ZERO_DONE (R664): The zeroed line is allocated or accepted by HBM and the slot frees. -/
  | dkZeroDone (c g slot : Nat)
  /-- TRANSLATION_WALK_DONE (R360): The sequencer or management controller installs a leaf or reports a fault for a miss. -/
  | translationWalkDone (e : Engine) (part va : Nat)
  /-- TRANSLATION_PARK_EXPIRY (R361): In fixed issue a group parked on a miss leaves the parked state 200 schedule ticks later. -/
  | translationParkExpiry (c g : Nat)
  /-- SEM_POST_EFFECT (R420): A post takes effect once earlier stores and drains are visible, and the queue is served. -/
  | semPostEffect (c g i : Nat)
  /-- ARRAY_RUN_START (R140): A queued run starts its first operand cycle once its order conditions hold. -/
  | arrayRunStart (c t : Nat)
  /-- ARRAY_RUN_END (R139): A run writes its fold result to its bank and frees its queue entry. -/
  | arrayRunEnd (c t : Nat) (err : ArrayError)
  /-- ARRAY_DRAIN_START (R165): A queued drain starts once its ordering waits are met. -/
  | arrayDrainStart (c t : Nat)
  /-- ARRAY_DRAIN_END (R149): A drain writes its last row and frees its queue entry. -/
  | arrayDrainEnd (c t : Nat)
  /-- MX_SPLIT_EFFECT (R152): A pending split takes effect after earlier array work, resetting configuration words. -/
  | mxSplitEffect (c : Nat)
  /-- BULK_STREAM_END (R147): A bulk stream ends and stalled runs and drains resume. -/
  | bulkStreamEnd (c : Nat)
  /-- DMA_ACCEPT (R363): A DMA engine translates a descriptor's ranges and accepts or refuses it. -/
  | dmaAccept (cl q i : Nat)
  /-- DMA_COMPLETE (R228): A descriptor's transfer finishes and its completion token posts. -/
  | dmaComplete (cl q i : Nat) (remote : List Byte) (poisoned : Bool)
  /-- LOOKUP_ACCEPT (R231): The embedding engine takes a waiting lookup into its queue and pins it. -/
  | lookupAccept (cl : Nat)
  /-- LOOKUP_SORT_END (R247): The sort of a lookup ends after its fixed cycle count. -/
  | lookupSortEnd (cl : Nat)
  /-- LOOKUP_ROW_ARRIVE (R248): A fetched local or remote row arrives and pooling proceeds. -/
  | lookupRowArrive (cl li table index : Nat) (remote : Option RowData)
  /-- SHARD_REQUEST (R256): An owner device receives remote keys and answers with rows under the requester's pin. -/
  | shardRequest (dev table index : Nat) (pin : RowPin) (scheduled : Bool)
  /-- LOOKUP_COMPLETE (R262): A lookup writes its output and status block and frees its queue entry. -/
  | lookupComplete (cl : Nat)
  /-- WCET_TICK (R84): At an operation's WCET tick the Fixed-release result is handed over, or a late result is poisoned and recorded. -/
  | wcetTick (op : OpRef)
  /-- COMMIT_POINT (R424): At a commit-point tick the step epoch advances, snapshots are taken and the Ceiling arrival begins. -/
  | commitPoint (j : Nat)
  /-- SLIP_POINT (R446): At a slip point the Squall slip set by SLIP_SET begins. -/
  | slipPoint (j : Nat)
  /-- SLIP_END (R75): A slip's wall-time length expires and the next slip or schedule time resumes. -/
  | slipEnd (j : Nat)
  /-- REPLAY_SLIP_END (R542): A replay slip ends and the replayed epoch takes its Ceiling. -/
  | replaySlipEnd (j : Nat)
  /-- MAINTENANCE_WINDOW (R343): At a window tick a maintenance slip begins and the stack is retrained or repaired. -/
  | maintenanceWindow (j i : Nat) (m : Maintenance)
  /-- CEILING_RELEASE_APPLY (R426): A Ceiling release is applied at its named tick, committing or suspecting the epoch. -/
  | ceilingReleaseApply (j : Nat) (epoch : Word32)
  /-- JOB_START (R71): A job starts on all its units at its launch tick. -/
  | jobStart (j : Nat)
  /-- JOB_COMPLETE (R230): A job completes once every group has ended, all work finished and the final step committed. -/
  | jobComplete (e : JobEnd)
  /-- QUANTUM_EXPIRY (R517): At the end of a quantum a pre-emption is made pending for a cheap point. -/
  | quantumExpiry (j : Nat)
  /-- SAVE_END (R518): Live ranges are saved, the job is pre-empted and waiting jobs start. -/
  | saveEnd (j : Nat)
  /-- RESTORE_END (R518): Restoring ends and the job's schedule time resumes. -/
  | restoreEnd (j : Nat)
  /-- SLICE_OVERRUN (R521): A job passes its grace or its limit and is aborted with SLICE_OVERRUN. -/
  | sliceOverrun (j : Nat)
  /-- BATCHER_DEADLINE (R322): The oldest queued request reaches DEADLINE and a batch is formed. -/
  | batcherDeadline (part : Nat)
  /-- CLUSTER_IDLE (R599): A cluster with every group parked and no engine work gates its clocks. -/
  | clusterIdle (cl : Nat)
  /-- CLUSTER_WAKE (R599): A cluster in Idle is woken ahead of a known release or on new work. -/
  | clusterWake (cl : Nat)
  /-- SENSOR_SAMPLE (R441): Every 100 ticks the temperature sensors are sampled and severities updated. -/
  | sensorSample (readings : List Int)
  /-- INPUT_POWER_WINDOW (R441): A 10 ms input-power window ends and its mean is judged. -/
  | inputPowerWindow (milliwatts : Nat)
  /-- SQUALL_REPEAT (R442): Every 2,000 ticks a notice is raised again while the severity stays at 1 or more. -/
  | squallRepeat (sensor : Nat)
  /-- SLIP_SET_SEND (R445): T_DEPTH ticks before a slip point the root sends SLIP_SET with the greatest severity. -/
  | slipSetSend (j : Nat)
  /-- SEQUENCER_MISMATCH (R20): The two halves of a cluster sequencer disagree and the device fails for its jobs. -/
  | sequencerMismatch (cl : Nat)
  /-- CLOCK_LOSS (R62): Loss of FAB_REFCLK fails the module, which sends a last FAILED frame and stops. -/
  | clockLoss (outside : Bool)
  /-- TICK_FRAME_SEND (R374): At a tick boundary each up port begins a data frame and a control frame. -/
  | tickFrameSend (port : Nat)
  /-- TICK_FRAME_RECEIVE (R391): A tick frame arrives, is decoded and authenticated, and its sectors are delivered or forwarded. -/
  | tickFrameReceive (port : Nat) (message : List Byte) (errors : NMap (BitVec 10)) (control : Option Wire)
  /-- CONTROL_FRAME_LOST (R394): A control frame is uncorrectable, fails its tag or is missing, and the jobs on the link fail. -/
  | controlFrameLost (port cause : Nat)
  /-- KEY_RENEWAL (R383): After the frame count under a key set the port renews its keys. -/
  | keyRenewal (port : Nat)
  /-- PORT_BRINGUP_DONE (R389): A port finishes or fails its bring-up steps. -/
  | portBringupDone (port : Nat) (b : BringUp)
  /-- MCAST_TIMEOUT (R401): A multicast branch lacking credit for MCAST_TIMEOUT is dropped. -/
  | mcastTimeout (port src stream : Nat)
  /-- SQUALL (R443): A SQUALL token is received and forwarded. -/
  | squall (port : Nat) (t : Word64)
  /-- FAILED (R430): A FAILED token is received, forwarded and sets the stop of the jobs concerned. -/
  | failed (port : Nat) (t : Word64)
  /-- REVOKE (R538): A REVOKE token discards held outputs of the revoked epochs. -/
  | revoke (port : Nat) (t : Word64)
  /-- MC_REQUEST (R434): The root receives a mode-change request and queues or starts it. -/
  | mcRequest (port : Nat) (t : Word64) (content : Option McContent)
  /-- MC_PREPARE (R435): A device receives a prepare, checks the change and forwards it. -/
  | mcPrepare (port : Nat) (t : Word64) (content : Option McContent)
  /-- MC_ACK (R435): A device combines acknowledgements and sends them toward the root. -/
  | mcAck (port : Nat) (t : Word64)
  /-- MC_COMMIT (R436): A device receives a commit naming the tick to apply the change. -/
  | mcCommit (port : Nat) (t : Word64)
  /-- MC_ABORT (R437): A device discards a prepared change. -/
  | mcAbort (port : Nat) (t : Word64)
  /-- MC_OUTCOME (R438): The coordinator receives the outcome and completes its command. -/
  | mcOutcome (port : Nat) (t : Word64)
  /-- MODE_CHANGE_TIMEOUT (R437): The combined acknowledgement has not arrived in time and the root aborts. -/
  | modeChangeTimeout (coord change : Nat)
  /-- MODE_CHANGE_APPLY (R436): A committed change takes effect on every unit at its named tick. -/
  | modeChangeApply (coord change : Nat)
  /-- CEIL_ARRIVE (R425): A Ceiling arrival from a child is combined and passed to the parent. -/
  | ceilArrive (port : Nat) (t : Word64)
  /-- CEIL_RELEASE (R426): A Ceiling release is received and forwarded down the tree. -/
  | ceilRelease (port : Nat) (t : Word64)
  /-- SEM_POST_TOKEN (R422): A remote semaphore post arrives and is applied, forwarded or refused. -/
  | semPostToken (port : Nat) (t0 t1 : Word64)
  /-- SLIP_SET (R446): A SLIP_SET token fixes the severity for a slip point. -/
  | slipSet (port : Nat) (t : Word64)
  /-- CREDIT (R397): Returned elastic credits are added to the sender's count. -/
  | credit (port : Nat) (t : Word64)
  /-- FRAME_LOST (R392): The sender learns of a lost frame and answers with FRAME_ACCOUNT. -/
  | frameLost (port : Nat) (t : Word64)
  /-- FRAME_ACCOUNT (R392): The receiver writes the lost elastic sectors poisoned and returns credits. -/
  | frameAccount (port : Nat) (t0 t1 : Word64)
  /-- STREAM_OPEN (R398): An elastic stream is opened toward a window. -/
  | streamOpen (port : Nat) (t0 t1 t2 : Word64)
  /-- STREAM_DROP (R401): A dropped receiver writes the undelivered sectors poisoned and posts its token. -/
  | streamDrop (port : Nat) (t : Word64)
  /-- REFUSE (R667): A refusal ends the named job's task with REMOTE_REFUSED. -/
  | refuse (port : Nat) (t : Word64)
  /-- KEY_FRAGMENT (R382): A fragment of a key-exchange or certificate message is received. -/
  | keyFragment (port : Nat) (t : Word64)
  /-- ECHO (R390): A calibration echo request or reply is received. -/
  | echo (port : Nat) (t : Word64)
  /-- SCRUB_ACCESS (R337): The scrubber reads and if needed rewrites a sector in an idle cycle. -/
  | scrubAccess (stack : Nat) (seen : ScrubSeen)
  /-- FIELD_TEST_SEGMENT (R550): A field-test segment starts on an eligible core. -/
  | fieldTestSegment (c : Nat)
  /-- FIELD_TEST_SEGMENT_END (R551): A segment's 40 µs expires, progress is kept and the core is reset or judged. -/
  | fieldTestSegmentEnd (c : Nat) (final : Option TestResult)
  /-- ERROR_RECORD_HOLD_EXPIRY (R549): A merged error record's hold ends and it is routed. -/
  | errorRecordHoldExpiry (i : Nat)
  /-- TRACE_RECORD_WRITE (R592): A trace writer writes a staged record in an idle cycle. -/
  | traceRecordWrite (die part : Nat)
  /-- SQ_TAIL (R460): A doorbell write makes submission slots available to fetch. -/
  | sqTail (b : Doorbell) (v : Word32)
  /-- CQ_HEAD (R467): A doorbell write releases completion slots. -/
  | cqHead (b : Doorbell) (v : Word32)
  /-- SLOT_FETCH (R461): A fetched slot returns and is accepted if valid. -/
  | slotFetch (q : Nat) (slot : BitVec 512)
  /-- SLOT_REFETCH (R461): A refetch timer of 1 µs expires, ending in STALE_SLOT after eight tries. -/
  | slotRefetch (q : Nat) (slot : BitVec 512)
  /-- COMPLETION_POST (R467): A completion entry is written to its ring and the vector signalled. -/
  | completionPost (q : Nat)
  /-- HIF_AQ_CTRL_ENABLE (R458): Writing ENABLE = 1 starts an admin queue. -/
  | hifAqCtrlEnable (f : Nat) (v : Word64)
  /-- HIF_AQ_CTRL_DISABLE (R458): Writing ENABLE = 0 stops fetching on an admin queue. -/
  | hifAqCtrlDisable (f : Nat) (v : Word64)
  /-- HIF_ERR_RING_WRITE (R455): Configuring the error ring resets its HEAD and TAIL. -/
  | hifErrRingWrite (v : Word64)
  /-- HIF_ERR_PTRS_READ (R454): A read returns and clears DROPPED. -/
  | hifErrPtrsRead
  /-- FAB_TIMESTAMP_READ (R65): A read of FAB_TIMESTAMP samples it and latches the upper half on a low read. -/
  | fabTimestampRead (f : Nat) (part : TimestampPart)
  /-- FAB_PORT_CONFIG_WRITE (R408): A write to a port's configuration is applied, ignored, or brings the port down or up. -/
  | fabPortConfigWrite (p : Nat) (v : Word64)
  /-- REGISTER_WRITE (R13): A write to any other register takes effect by its access codes. -/
  | registerWrite (f off : Nat) (v : Word64)
  /-- BAR2_READ (R452): A host read through the BAR2 aperture. -/
  | bar2Read (off len : Nat)
  /-- BAR2_WRITE (R453): A host write through BAR2, invalidating read-only cache lines first. -/
  | bar2Write (off : Nat) (data : List Byte)
  /-- NOP (R473): Completes with SUCCESS. -/
  | nop (k : Cmd)
  /-- RESYNC (R485): Reports a snapshot of device state as records. -/
  | resync (k : Cmd)
  /-- QUEUE_CONTROL_CREATE (R459): Creates a queue. -/
  | queueControlCreate (k : Cmd)
  /-- QUEUE_CONTROL_DESTROY (R459): Destroys a queue once its accepted commands complete. -/
  | queueControlDestroy (k : Cmd)
  /-- QUEUE_CONTROL_STOP (R459): Stops fetching on a queue. -/
  | queueControlStop (k : Cmd)
  /-- QUEUE_CONTROL_RESUME (R459): Resumes fetching at the stopped slot. -/
  | queueControlResume (k : Cmd)
  /-- SOFT_RESET (R610): Performs a device soft reset. -/
  | softReset (k : Cmd)
  /-- PARTITION_CONFIG (R506): Defines, changes or deletes a partition. -/
  | partitionConfig (k : Cmd)
  /-- PARTITION_RESET (R510): Aborts the partition's jobs and resets its cores. -/
  | partitionReset (k : Cmd)
  /-- GROUP_SET (R47): Defines a unit group. -/
  | groupSet (k : GroupCmd)
  /-- GROUP_QUERY (R473): Returns a group-table entry and member list. -/
  | groupQuery (k : Cmd)
  /-- GROUP_CLEAR (R53): Removes a unit group. -/
  | groupClear (k : GroupCmd)
  /-- MAP (R356): Installs a run of page mappings whole or not at all. -/
  | map (k : Cmd)
  /-- UNMAP (R358): Clears mappings and runs the invalidation sequence. -/
  | unmap (k : Cmd)
  /-- INVALIDATE_RANGE (R369): Invalidates translations of a range and aborts queued tasks over it. -/
  | invalidateRange (k : Cmd)
  /-- INVALIDATE_ACK (R369): An engine acknowledges once its transfers under the range end. -/
  | invalidateAck (e : Engine) (i : Nat)
  /-- TRANSLATION_TIMEOUT (R372): An engine has not acknowledged within 100 µs and the device fails. -/
  | translationTimeout (e : Engine) (i : Nat)
  /-- WINDOW_SET (R473): Opens a remote window. -/
  | windowSet (k : Cmd)
  /-- WINDOW_CLEAR (R368): Clears a window and completes when admitted accesses finish. -/
  | windowClear (k : Cmd)
  /-- MEM_COPY (R473): Copies a range through the partition's DMA engines. -/
  | memCopy (k : Cmd)
  /-- ZERO_LINES (R299): Zeroes a virtual range line by line. -/
  | zeroLines (k : Cmd)
  /-- DECK_CONFIG (R289): Writes the Deck cache configuration record of clusters. -/
  | deckConfig (k : Cmd)
  /-- DECK_QUERY (R473): Returns a cluster's Deck configuration record. -/
  | deckQuery (k : Cmd)
  /-- TABLE_CREATE (R268): Defines a table with slot 0 active. -/
  | tableCreate (k : Cmd)
  /-- TABLE_DESTROY (R474): Removes a table from the device. -/
  | tableDestroy (k : Cmd)
  /-- TABLE_QUERY (R473): Returns a table descriptor and shard map. -/
  | tableQuery (k : Cmd)
  /-- TABLE_VERSION_OPEN (R268): Opens a free version slot in the loading state. -/
  | tableVersionOpen (k : Cmd)
  /-- TABLE_WRITE_ROWS (R270): Writes rows into a loading slot. -/
  | tableWriteRows (k : Cmd)
  /-- TABLE_VERSION_SEAL (R271): Moves a loading slot to ready. -/
  | tableVersionSeal (k : Cmd)
  /-- TABLE_FLIP (R272): Makes a ready slot active at one committed tick. -/
  | tableFlip (k : Cmd)
  /-- TABLE_RETIRE (R276): Frees a draining slot once its pins drain and lines are invalidated. -/
  | tableRetire (k : Cmd)
  /-- TABLE_RETIRE_DONE (R276): The last pin drains and invalidation ends, so the slot becomes free. -/
  | tableRetireDone (table slot : Nat)
  /-- TABLE_PATCH (R280): Stages row patches in the overlay. -/
  | tablePatch (k : Cmd)
  /-- TABLE_PATCH_COMMIT (R282): Tags staged patches with a new committed epoch. -/
  | tablePatchCommit (k : Cmd)
  /-- TABLE_FOLD (R285): Builds a new slot folding patches up to an epoch. -/
  | tableFold (k : Cmd)
  /-- TABLE_FOLD_END (R285): A fold ends and its slot becomes ready. -/
  | tableFoldEnd (table : Nat)
  /-- OVERLAY_ENTRY_REMOVE (R286): Unselectable overlay entries are removed in the background. -/
  | overlayEntryRemove (table index : Nat) (tag : Word32)
  /-- TABLE_DEFAULT_SET (R475): Writes a table's default row into Deck scratch. -/
  | tableDefaultSet (k : Cmd)
  /-- OVERLAY_CONFIG (R279): Sets the overlay reservation of every slice. -/
  | overlayConfig (k : Cmd)
  /-- JOB_LAUNCH (R471): Admits and launches a job. -/
  | jobLaunch (k : Cmd)
  /-- JOB_LAUNCH_BATCH (R323): Queues a launch with BATCH set in the partition's batcher. -/
  | jobLaunchBatch (k : Cmd)
  /-- LOOKUP_SUBMIT (R472): Submits host lookups to cluster engines. -/
  | lookupSubmit (k : Cmd)
  /-- JOB_ABORT (R522): Aborts a held job. -/
  | jobAbort (k : Cmd)
  /-- IMAGE_LOAD (R77): Verifies and loads an Ocyan image. -/
  | imageLoad (k : Cmd) (img : Image)
  /-- IMAGE_UNLOAD (R476): Removes a loaded image. -/
  | imageUnload (k : Cmd)
  /-- SLICE_CONFIG (R514): Writes the partition's slice record. -/
  | sliceConfig (k : Cmd)
  /-- JOB_COUNTERS (R525): Returns a queue's job counters. -/
  | jobCounters (k : Cmd)
  /-- GEN_CONFIG (R306): Writes the generation configuration record. -/
  | genConfig (k : Cmd)
  /-- SEQ_JOIN (R303): Queues a sequence for admission. -/
  | seqJoin (k : Cmd)
  /-- SEQ_LEAVE (R305): Withdraws a queued or running sequence. -/
  | seqLeave (k : Cmd)
  /-- SEQ_QUERY (R473): Returns a sequence's slot record. -/
  | seqQuery (k : Cmd)
  /-- BATCHER_CONFIG (R473): Writes the batcher configuration. -/
  | batcherConfig (k : Cmd)
  /-- FABRIC_JOIN (R389): Joins the fabric by a description and brings up ports. -/
  | fabricJoin (k : Cmd)
  /-- FABRIC_LEAVE (R477): Leaves the fabric. -/
  | fabricLeave (k : Cmd)
  /-- FABRIC_QUERY (R478): Returns the fabric state block. -/
  | fabricQuery (k : Cmd)
  /-- JOB_REMAP (R555): Replaces a failed device in a shard map and activates the spare's slot. -/
  | jobRemap (k : Cmd)
  /-- ATTEST_REPORT (R564): Builds and signs an attestation report. -/
  | attestReport (k : Cmd)
  /-- CERT_READ (R561): Returns the module's four certificates. -/
  | certRead (k : Cmd)
  /-- SESSION_OPEN (R572): Opens a confidential session. -/
  | sessionOpen (k : Cmd)
  /-- SESSION_CLOSE (R578): Ends a session and scrubs the partition. -/
  | sessionClose (k : Cmd)
  /-- JOBKEY_SET (R576): Binds a job key to a slot. -/
  | jobkeySet (k : Cmd)
  /-- JOBKEY_CLEAR (R578): Erases a job key once its descriptors finish. -/
  | jobkeyClear (k : Cmd)
  /-- PACKAGE_LOAD (R571): Verifies and decrypts a weight package. -/
  | packageLoad (k : Cmd)
  /-- TRACE_CONFIG_CONFIGURE (R590): Configures the partition's trace region. -/
  | traceConfigConfigure (k : Cmd)
  /-- TRACE_CONFIG_START (R590): Starts trace writing at record 0. -/
  | traceConfigStart (k : Cmd)
  /-- TRACE_CONFIG_STOP (R590): Stops trace writing. -/
  | traceConfigStop (k : Cmd)
  /-- TRACE_CONFIG_STATUS (R590): Returns trace status. -/
  | traceConfigStatus (k : Cmd)
  /-- TRACE_CONFIG_REARM (R590): Clears FROZEN and restarts writing. -/
  | traceConfigRearm (k : Cmd)
  /-- TRACE_TRIGGER (R595): Triggers the trace region. -/
  | traceTrigger (k : Cmd)
  /-- COUNTER_CONFIG (R584): Selects counter events and resets counter sets. -/
  | counterConfig (k : Cmd)
  /-- COUNTER_SAMPLE (R589): Latches and returns counter sets. -/
  | counterSample (k : Cmd)
  /-- FIELD_TEST_READ (R553): Returns a core's health word. -/
  | fieldTestRead (k : Cmd)
  /-- FIELD_TEST_RUN (R553): Places a core first for a test and completes when it ends. -/
  | fieldTestRun (k : Cmd)
  /-- FIELD_TEST_RETURN (R553): Tests a removed core and returns it to service if it passes. -/
  | fieldTestReturn (k : Cmd)
  /-- DEBUG_ACCESS (R473): Reads or writes a debug space. -/
  | debugAccess (k : Cmd)
  /-- POWER_STATE (R603): Sets clusters to Run, Retain or Off. -/
  | powerState (k : Cmd)
  /-- POWER_STATE_ENTER_QUIET (R605): Puts the device into Quiet. -/
  | powerStateEnterQuiet (k : Cmd)
  /-- POWER_STATE_LEAVE_QUIET (R608): Brings the device out of Quiet. -/
  | powerStateLeaveQuiet (k : Cmd)
  /-- SETTINGS_STAGE (R617): Sets the live value of a setting. -/
  | settingsStage (k : Cmd)
  /-- ETH_PORT_STAGE (R492): Applies a staged Ethernet port configuration. -/
  | ethPortStage (k : Cmd)
  /-- ETH_REGION_STAGE (R493): Staging word 0 brings a registered region into effect. -/
  | ethRegionStage (k : Cmd)
  /-- ETH_REGION_CLEAR (R494): Staging word 0 with VALID = 0 clears a region once its work finishes. -/
  | ethRegionClear (k : Cmd)
  /-- SETTINGS_READ (R618): Returns a live or stored setting. -/
  | settingsRead (k : Cmd)
  /-- STORE_SETTINGS (R619): Writes the persistent settings to the NVM ring. -/
  | storeSettings (k : Cmd)
  /-- FIRMWARE_UPDATE (R624): Verifies and writes a firmware or scan image to flash. -/
  | firmwareUpdate (k : Cmd)
  /-- RDMA_WRITE_RECEIVE (R495): An inbound RDMA WRITE packet is placed, relayed or refused. -/
  | rdmaWriteReceive (link qp : Nat) (p : RocePacket)
  /-- CONNECTION_REQUEST (R491): A connection-management request opens or refuses a queue pair. -/
  | connectionRequest (link peerQp : Nat)
  /-- PFC_PAUSE (R490): A priority flow-control frame is received on a link. -/
  | pfcPause (link prio : Nat) (pause : Bool)
  /-- MCTP_MESSAGE (R639): An MCTP message arrives over I3C and is answered. -/
  | mctpMessage (m : MctpMessage)
  /-- COLD_POWER_ON (R597): Power-good with a valid FAB_REFCLK starts cold power-on and boot. -/
  | coldPowerOn (b : BootInput)
  /-- PERST (R614): PERST#, a hot reset or link loss resets the link, with or without warm reattach. -/
  | perst (kind : LinkReset)
  /-- SCRUB_END (R580): The host-crash scrub of a partition ends. -/
  | scrubEnd (part : Nat)
  /-- FUNCTION_LEVEL_RESET (R611): An FLR of a virtual function resets it and its partition. -/
  | functionLevelReset (v : Nat)
  /-- INPUT_UNDERVOLTAGE (R630): Input below 38 V for 100 µs shuts the module down. -/
  | inputUndervoltage (ticks : Nat)
  /-- BOOT_READY (R622): The firmware finishes start-up and sets HIF_STATUS.READY. -/
  | bootReady
  /-- TICK_WAIT_REACHED (R184): A group parked by tick.wait leaves the parked state when STICK reaches its target. -/
  | tickWaitReached (c g : Nat)
  /-- RETRAIN_WITHOUT_WINDOW (R345): When no job maps a stack, the module retrains it or repairs its listed rows without a window and without a slip. -/
  | retrainWithoutWindow (stack : Nat) (m : Maintenance)
  /-- DBG_CORE_REGISTER_READ (R565): A BAR0 read of a DBG_CORE_ register counts as a debug access and raises the partition and device debug counts before it returns. -/
  | dbgCoreRegisterRead (f reg c g : Nat)
  /-- PERST_DEASSERTION (R622): Deassertion of PERST# starts link training and ends the hold after which HIF_STATUS.READY may rise. -/
  | perstDeassertion
  /-- CONFIGURATION_REQUEST (R449): A PCI Express configuration request is answered, with Configuration Request Retry Status before READY, and a write may enable SR-IOV or resize BAR2. -/
  | configurationRequest (r : ConfigRequest)
  /-- DYNAMIC_ADDRESS_ASSIGNMENT (R639): An I3C SETDASA or ENTDAA on the management bus gives the module its dynamic address. -/
  | dynamicAddressAssignment (a : AddressAssignment)
deriving DecidableEq, Repr

end Sys2Proof
end

