-- ==== Sys2Proof/Decode.lean ====
section
/-!
DEFINITION. The reading of a table word: the opcode table gives none of its rows any bits, so no word spells a command. And the
reading of the opcode of a Parux instruction word (R208, R218), by which a reserved opcode is known.
-/

namespace Sys2Proof

/-- The command that a word of `nbits` bits spells by the table's bits: none, since no row has bits. -/
def decodeTableWord (_nbits _w : Nat) : Option Instr := none

/-- Scalar, class 0x0 (R218): the instruction of a low opcode digit. -/
def scalarOp (c g : Nat) (w : BitVec 56) : Nat → Option Instr
  | 0 => some (.sAdd c g w)
  | 1 => some (.sSub c g w)
  | 2 => some (.sMul c g w)
  | 3 => some (.sAnd c g w)
  | 4 => some (.sOr c g w)
  | 5 => some (.sXor c g w)
  | 6 => some (.sShl c g w)
  | 7 => some (.sShr c g w)
  | 8 => some (.sSra c g w)
  | 9 => some (.sMin c g w)
  | 10 => some (.sMax c g w)
  | 11 => some (.sCmp c g w)
  | 12 => some (.sLih c g w)
  | 13 => some (.sId c g w)
  | 14 => some (.sFlags c g w)
  | 15 => some (.sVget c g w)
  | _ => none

/-- Vector integer, class 0x1 (R218): the instruction of a low opcode digit. -/
def vectorOp (c g : Nat) (w : BitVec 56) : Nat → Option Instr
  | 0 => some (.vAdd c g w)
  | 1 => some (.vSub c g w)
  | 2 => some (.vMul c g w)
  | 3 => some (.vAnd c g w)
  | 4 => some (.vOr c g w)
  | 5 => some (.vXor c g w)
  | 6 => some (.vShl c g w)
  | 7 => some (.vShr c g w)
  | 8 => some (.vSra c g w)
  | 9 => some (.vMin c g w)
  | 10 => some (.vMax c g w)
  | 11 => some (.vCmp c g w)
  | 12 => some (.vSel c g w)
  | 13 => some (.vBcast c g w)
  | 14 => some (.vPerm c g w)
  | 15 => some (.vIred c g w)
  | _ => none

/-- Float, class 0x2 (R218): the instruction of a low opcode digit. -/
def floatOp (c g : Nat) (w : BitVec 56) : Nat → Option Instr
  | 0 => some (.fAdd c g w)
  | 1 => some (.fSub c g w)
  | 2 => some (.fMul c g w)
  | 3 => some (.fFma c g w)
  | 4 => some (.fMin c g w)
  | 5 => some (.fMax c g w)
  | 6 => some (.fCmp c g w)
  | 7 => some (.fAbs c g w)
  | 8 => some (.fNeg c g w)
  | 9 => some (.fDiv c g w)
  | 10 => some (.fSqrt c g w)
  | 11 => some (.fExp2 c g w)
  | 12 => some (.fLog2 c g w)
  | 13 => some (.fFred c g w)
  | 14 => some (.fArgmax c g w)
  | _ => none

/-- Conversion, class 0x3 (R218): the instruction of a low opcode digit. -/
def convertOp (c g : Nat) (w : BitVec 56) : Nat → Option Instr
  | 0 => some (.cvCvt c g w)
  | 1 => some (.cvEnc c g w)
  | 2 => some (.cvDec c g w)
  | _ => none

/-- Core store, class 0x4 (R218): the instruction of a low opcode digit. -/
def storeOp (c g : Nat) (w : BitVec 56) : Nat → Option Instr
  | 0 => some (.ldW c g w)
  | 1 => some (.stW c g w)
  | 2 => some (.ldCq8 c g w)
  | _ => none

/-- Gather and scatter, class 0x5 (R218): the instruction of a low opcode digit. -/
def gatherOp (c g : Nat) (w : BitVec 56) : Nat → Option Instr
  | 0 => some (.gtW c g w)
  | 1 => some (.scW c g w)
  | 2 => some (.dkZero c g w)
  | _ => none

/-- Matrix, class 0x6 (R218): the instruction of a low opcode digit. -/
def matrixOp (c g : Nat) (w : BitVec 56) : Nat → Option Instr
  | 0 => some (.mxCfg c g w)
  | 1 => some (.mxRun c g w)
  | 2 => some (.mxDrain c g w)
  | 3 => some (.mxSplit c g w)
  | _ => none

/-- Control, class 0x7 (R218): the instruction of a low opcode digit. -/
def controlOp (c g : Nat) (w : BitVec 56) : Nat → Option Instr
  | 0 => some (.jmp c g w)
  | 1 => some (.brAny c g w)
  | 2 => some (.brAll c g w)
  | 3 => some (.brNone c g w)
  | 4 => some (.brZ c g w)
  | 5 => some (.brNz c g w)
  | 6 => some (.call c g w)
  | 7 => some (.jmpR c g w)
  | 8 => some (.maskPush c g w)
  | 9 => some (.maskElse c g w)
  | 10 => some (.maskPop c g w)
  | 11 => some (.cheapMark c g w)
  | 12 => some (.endGroup c g w)
  | _ => none

/-- Synchronisation, class 0x8 (R218): the instruction of a low opcode digit. -/
def syncOp (c g : Nat) (w : BitVec 56) : Nat → Option Instr
  | 0 => some (.semWait c g w)
  | 1 => some (.semPost c g w)
  | 2 => some (.tickWait c g w)
  | 3 => some (.commit c g w)
  | _ => none

/-- Queue, class 0x9 (R218): the instruction of a low opcode digit. -/
def queueOp (c g : Nat) (w : BitVec 56) : Nat → Option Instr
  | 0 => some (.dmaEnq c g w)
  | 1 => some (.embSub c g w)
  | _ => none

/-- The instruction that a 64-bit word spells for group `g` of core `c`: its opcode is bits [63:56], class and digit; none for a
reserved opcode (R208, R211, R218). -/
def decodeParux (c g : Nat) (w : BitVec 64) : Option Instr :=
  let v : BitVec 56 := w.setWidth 56
  let d := w.toNat / 2 ^ 56 % 16
  match w.toNat / 2 ^ 60 with
  | 0 => scalarOp c g v d
  | 1 => vectorOp c g v d
  | 2 => floatOp c g v d
  | 3 => convertOp c g v d
  | 4 => storeOp c g v d
  | 5 => gatherOp c g v d
  | 6 => matrixOp c g v d
  | 7 => controlOp c g v d
  | 8 => syncOp c g v d
  | 9 => queueOp c g v d
  | _ => none

end Sys2Proof
end

