-- ==== Sys2Proof/Machine/Bits.lean ====
section
/-!
DEFINITION. Bit fields, byte order (R4, R5) and small list functions shared by every family.
-/

namespace Sys2Proof.Machine

open Sys2Proof

/-- Bits [hi:lo] of a word as a number (R4). -/
def bf {n : Nat} (w : BitVec n) (hi lo : Nat) : Nat := w.toNat / 2 ^ lo % 2 ^ (hi + 1 - lo)

/-- Bit `i` of a word. -/
def bit {n : Nat} (w : BitVec n) (i : Nat) : Bool := w.getLsbD i

/-- 1 for true. -/
def b2n (b : Bool) : Nat := if b then 1 else 0

/-- `w` with bits [hi:lo] replaced by the low bits of `v`. -/
def setBf {n : Nat} (w : BitVec n) (hi lo v : Nat) : BitVec n :=
  BitVec.ofNat n (w.toNat - bf w hi lo * 2 ^ lo + v % 2 ^ (hi + 1 - lo) * 2 ^ lo)

/-- The `n` low bytes of a number, least significant first (R5). -/
def leBytes : Nat → Nat → List Byte
  | 0, _ => []
  | n + 1, v => BitVec.ofNat 8 v :: leBytes n (v / 256)

/-- The number whose bytes, least significant first, are the list (R5). -/
def fromLe : List Byte → Nat
  | [] => 0
  | b :: t => b.toNat + 256 * fromLe t

/-- The `n` low bytes of a number, most significant first. -/
def beBytes (n v : Nat) : List Byte := (leBytes n v).reverse

/-- Bytes padded with zeros, or cut, to `n`. -/
def padTo (n : Nat) (b : List Byte) : List Byte := (b ++ List.replicate n 0).take n

/-- A number that saturates at all ones of `w` bits. -/
def satN (w v : Nat) : Nat := if v < 2 ^ w then v else 2 ^ w - 1

/-- Signed reading of the low `w` bits of a number. -/
def signed (w v : Nat) : Int := if v % 2 ^ w < 2 ^ (w - 1) then (v % 2 ^ w : Int) else (v % 2 ^ w : Int) - 2 ^ w

/-- The low `w` bits of an integer in two's complement. -/
def wrapNat (w : Nat) (i : Int) : Nat := (i % 2 ^ w).toNat

/-- The numbers from `lo`, `n` of them. -/
def upFrom (lo n : Nat) : List Nat := (List.range n).map (lo + ·)

/-- The sum of a list of numbers. -/
def sumN (l : List Nat) : Nat := l.foldl (· + ·) 0

/-- The first number of the list that satisfies `p`, or `d`. -/
def firstOr (d : Nat) (p : Nat → Bool) (l : List Nat) : Nat := (l.find? p).getD d

/-- `l` with the entry at index `i` replaced by `v`. -/
def listSet {α : Type} (l : List α) (i : Nat) (v : α) : List α := l.set i v

/-- `l` without the entry at index `i`. -/
def listDrop {α : Type} (l : List α) (i : Nat) : List α := l.eraseIdx i

/-- The last `n` entries of a list. -/
def lastN {α : Type} (n : Nat) (l : List α) : List α := l.drop (l.length - n)

/-- `a` put into a list before the first entry of the same or a greater key. -/
def insertBy {α : Type} (key : α → Nat) (a : α) : List α → List α
  | [] => [a]
  | b :: t => if key a ≤ key b then a :: b :: t else b :: insertBy key a t

/-- An element put behind every element of a list whose key does not exceed its own, the list in rising order of key. -/
def insertLast {α : Type} (key : α → Nat) (a : α) (l : List α) : List α :=
  l.filter (fun b => key b ≤ key a) ++ a :: l.filter (fun b => key a < key b)

/-- A list in rising order of key, entries of one key in their order. -/
def sortBy {α : Type} (key : α → Nat) (l : List α) : List α := l.foldr (insertBy key) []

/-- Whether a list holds no entry twice. -/
def noDup {α : Type} [DecidableEq α] : List α → Bool
  | [] => true
  | a :: t => !(t.contains a) && noDup t

/-- The first check of the list that fails, as its code: checks are (holds, code) in the order in which
they are made. -/
def firstFail {α : Type} : List (Bool × α) → Option α
  | [] => none
  | (ok, e) :: t => if ok then firstFail t else some e

/-- A map with every listed value replaced; values that become the default `d` are not listed. -/
def mapCanon {α : Type} [DecidableEq α] (m : NMap α) (d : α) (f : Nat → α → α) : NMap α :=
  (m.map fun x => (x.1, f x.1 x.2)).filter fun x => decide (x.2 ≠ d)

end Sys2Proof.Machine
end

