-- ==== Sys2Proof/Config.lean ====
section
/-!
DEFINITION. What the manual leaves free, and the functions of outside standards that the model does
not compute: constants without a body, so that nothing can be proved of their values.
-/

namespace Sys2Proof

/-- The `n`-th value that the manual leaves open, of `w` bits (log entry 4). -/
opaque Config.free (w n : Nat) : BitVec w

/-- SHAKE256 of a message, `n` bytes of output (R558; an outside standard, log entry 8). -/
opaque Config.shake256 (message : List Byte) (n : Nat) : List Byte

/-- Falcon-1024 verification of a signature over a message under a public key (R559, R568). -/
opaque Config.falconVerify (key message signature : List Byte) : Bool

/-- Falcon-1024: the public key, 1,793 bytes, and the signature over a message, 1,280 bytes, of the key pair that key generation gives for
a seed (R559, R564). -/
opaque Config.falconKey (seed : List Byte) : List Byte
opaque Config.falconSign (seed message : List Byte) : List Byte

/-- ML-KEM-1024: the public key, 1,568 bytes, and the 32 bytes that a ciphertext decapsulates to, of the key pair that `d ‖ z` gives
(R559, R570, R572). -/
opaque Config.kemKey (dz : List Byte) : List Byte
opaque Config.decapsulate (dz ciphertext : List Byte) : List Byte

/-- The identity secret that the SRAM PUF on IO-A gives with the helper data in NVM (R556). -/
opaque Config.pufSecret (helper : List Byte) : List Byte

/-- The signer's public key that an image carries (R568); the manual does not say at which byte. -/
opaque Config.imageKey (image : List Byte) : List Byte

/-- AES-256-GCM: the plaintext that key, nonce, additional data, ciphertext and tag open to, or none
where the tag fails (R574). -/
opaque Config.gcmOpen (key nonce aad ciphertext tag : List Byte) : Option (List Byte)

/-- AES-256-GCM: ciphertext and tag (R574). -/
opaque Config.gcmSeal (key nonce aad plaintext : List Byte) : List Byte × List Byte

/-- ML-KEM-1024 encapsulation to a public key: a secret of 32 bytes and its ciphertext of 1,568; `n` numbers the encapsulation
(R382). -/
opaque Config.encapsulate (key : List Byte) (n : Nat) : List Byte × List Byte

/-- Public key of the product authority (R559). -/
opaque Config.authorityKey : List Byte

/-- Digest of the Hokuric root key, in boot ROM (R561, R581). -/
opaque Config.rootDigest : List Byte

/-- Falcon-1024 signatures of the root key over the product authority's certificate and of the product authority (R559, R560); the SERIAL that the issuer gives a certificate of a KIND over a key. -/
opaque Config.rootSign (message : List Byte) : List Byte
opaque Config.authoritySign (message : List Byte) : List Byte
opaque Config.certSerial (kind : Nat) (key : List Byte) : Word64

/-- The signed SKU and trim records in NVM, in the order stored (R559). -/
opaque Config.trimRecords : List Byte

/-- The enterprise number held in NVM (R548). -/
opaque Config.enterprise : Word32

/-- Segments in a whole field test, from the flash content (R553, live). -/
opaque Config.testSegments (scan : List Byte) : BitVec 16

/-- Version of a firmware image (live). -/
opaque Config.firmwareVersion (firmware : List Byte) : Word32

end Sys2Proof
end

