-- ==== Sys2Proof/Machine/State.lean ====
section
/-!
DEFINITION. The state of one TVF4800 module as plain data, the outcomes' reason types, and the state
right after power-good. INVENTORY.md lists every field with the rule that names it.
-/

namespace Sys2Proof.Machine

open Sys2Proof

/-! ### Memories -/

/-- A memory held in 36-byte codewords (R330): data bytes, tag bytes and check bytes. An unlisted
data byte and an unlisted tag byte read as 0 (R189, R348). `chk` holds, for a sector, its three check
bytes XORed with those that R330 gives for its data and tag; unlisted is 0, valid check bytes. -/
structure Mem where
  cells : List Host.Cell
  tags : NMap Byte
  chk : NMap (BitVec 24)
deriving DecidableEq, Repr

/-- A memory that lists nothing. -/
def Mem.empty : Mem := { cells := [], tags := [], chk := [] }

/-- Where a translated byte lies (R354). -/
inductive Target where
  /-- Device-physical address. -/
  | hbm (a : Nat)
  /-- Deck address: 2^25 x device-wide cluster index + slice offset. -/
  | deck (a : Nat)
  /-- Host bus address. -/
  | host (a : Nat)
  /-- Another device's window. -/
  | remote (dev window off : Nat)
deriving DecidableEq, Repr

/-- A leaf of a partition's page tables in the device copy (R351, R353). -/
structure Leaf where
  part : Nat
  va : Nat
  big : Bool
  entry : Word64
deriving DecidableEq, Repr

/-- A table of the device copy (R350 to R352): its partition, its level from the root (1) to the third (3), the region that it
serves, numbered in regions of its level, and its place in the table area. -/
structure PTable where
  part : Nat
  level : Nat
  region : Nat
  place : Nat
deriving DecidableEq, Repr

/-! ### Parux cores -/

/-- A scalar register with its poison bit (R173). -/
structure SReg where
  val : Word64
  poison : Bool
deriving DecidableEq, Repr

/-- A lane of a vector register with its poison bit (R173). -/
structure VLane where
  val : Word32
  poison : Bool
deriving DecidableEq, Repr

/-- Why a group is parked (R184). -/
inductive Park where
  | gatherReg (regs : List Nat)
  | slotsFull
  | miss (part va since : Nat)
  | arrayFull
  | splitWait
  | splitPending
  | dmaFull (cl q : Nat)
  | engineFull (cl : Nat)
  | sem (n k : Nat)
  | tick (target : Word64)
deriving DecidableEq, Repr

/-- What a group does: idle (no job names it), running, parked, ended (R230), stopped at cheap point
`n` (R199), or stopped by an exception (R203). -/
inductive RunState where
  | idle
  | running
  | parked (p : Park)
  | ended
  | stopped (n : Nat)
  | excepted
deriving DecidableEq, Repr

/-- What occupies a slot (R190). -/
inductive SlotKind where
  | gather
  | scatter
  | zero
deriving DecidableEq, Repr

/-- One active lane of a gather or scatter: its virtual address, its target, its data (captured
at issue for a scatter, at arrival for a gather), and whether its page is PROTECTED. -/
structure LaneReq where
  lane : Nat
  va : Nat
  target : Target
  data : Word32
  poison : Bool
  prot : Bool
  /-- Whether a gather has read it (R652). -/
  got : Bool
deriving DecidableEq, Repr

/-- A gather, scatter or dk.zero outstanding in a slot (R190, R224, R225). -/
structure Slot where
  id : Nat
  kind : SlotKind
  reg : Nat
  width : Nat
  fixed : Bool
  lanes : List LaneReq
  due : Nat
  epoch : Word32
  arrived : Bool
deriving DecidableEq, Repr

/-- A sem.post requested and not yet in effect, with the earlier stores and drains it waits for (R420). -/
structure Post where
  dev : Nat
  cluster : Nat
  sem : Nat
  count : Nat
  waits : List Nat
deriving DecidableEq, Repr

/-- One lockstep group of a core. `unmapped` lists the pages that a walk reported as not mapped for the
instruction at which the group stands (R360). -/
structure Grp where
  job : Option Nat
  run : RunState
  pc : BitVec 14
  mask : Word32
  stack : List Word32
  flags : BitVec 5
  sregs : NMap SReg
  vregs : NMap VLane
  pregs : NMap Word32
  slots : NMap Slot
  posts : List Post
  unmapped : List Nat
  committed : Bool
  exc : Word64
  excAddr : Word64
deriving DecidableEq, Repr

/-- A group at its start values (R172), idle. -/
def Grp.reset : Grp :=
  { job := none, run := .idle, pc := 0, mask := 0xFFFFFFFF, stack := [], flags := 0, sregs := [], vregs := [],
    pregs := [], slots := [], posts := [], unmapped := [], committed := false, exc := 0, excAddr := 0 }

/-- One counter set: values by counter number, selections, SCOPE, tags, whether two jobs counted, and
the closing snapshot with its reset's timestamp (R582 to R587). -/
structure CntSet where
  vals : NMap Word64
  sel : NMap Byte
  scope : Bool
  tags : CntTags
  /-- Jobs whose groups or engines have counted in the interval, by partition and number (R589). -/
  jobs : List (Nat × Word32)
  closing : Option (NMap Word64 × CntTags × Bool × Word64)
deriving DecidableEq, Repr

def CntSet.reset : CntSet :=
  { vals := [], sel := [], scope := false, tags := CntTags.none, jobs := [], closing := Option.none }

/-- A cell's work in a run: block accumulator, chunk register, fold stack of (value, chunks) with the
top first (R133). -/
structure CellWork where
  acc : BitVec 48
  chunk : Word32
  stack : List (Word32 × Nat)
deriving DecidableEq, Repr

def CellWork.reset : CellWork := { acc := 0, chunk := 0, stack := [] }

/-- A queued run: its configuration word, bank, mode, bases (R163, R226); `mark` is how many
sectors `State.storeLog` held when it started (R651). -/
structure RunOp where
  id : Nat
  group : Nat
  job : Nat
  cfg : Word64
  bank : Nat
  add : Bool
  aBase : Nat
  aScale : Nat
  bBase : Nat
  bScale : Nat
  epoch : Word32
  mark : Nat
deriving DecidableEq, Repr

/-- A queued drain (R148). -/
structure DrainOp where
  id : Nat
  group : Nat
  job : Nat
  bank : Nat
  base : Nat
  stride : Nat
  epoch : Word32
deriving DecidableEq, Repr

/-- An entry of an array queue (R164) and how far it has come: not started, started, or (a run) past
its last operand cycle is its end. -/
inductive ArrOp where
  | run (r : RunOp) (started : Bool)
  | drain (d : DrainOp) (started : Bool)
deriving DecidableEq, Repr

/-- An mx.split issued and not yet in effect (R151, R662). -/
structure PendSplit where
  group : Nat
  split : Bool
  own0 : Nat
  own1 : Nat
deriving DecidableEq, Repr

/-- The matrix array of a core. Target 0 is the whole array, 1 half 0, 2 half 1, as TARGET encodes
them (R144). Cell (i, j) of bank b has key 1024 b + 32 i + j. -/
structure Arr where
  split : Bool
  own0 : Nat
  own1 : Nat
  cfg : NMap Word64
  work : NMap CellWork
  bank : NMap Word32
  bankPoison : NMap Bool
  queues : NMap (List ArrOp)
  pendSplit : Option PendSplit
deriving DecidableEq, Repr

/-- Reset value of an array configuration word: K_BLOCKS 1, every other field 0 (R144). -/
def Arr.cfgReset : Word64 := 0x0000080000000000

def Arr.reset : Arr :=
  { split := false, own0 := 0, own1 := 0, cfg := [], work := [], bank := [], bankPoison := [], queues := [],
    pendSplit := none }

/-- A field-test segment in progress on a core (R551), with the FIELD_TEST commands that wait for the
test's end. -/
structure TestRun where
  until_ : Nat
  active : Bool
  cmds : List Cmd
deriving DecidableEq, Repr

/-- A Parux core. -/
structure Core where
  groups : NMap Grp
  arr : Arr
  fixed : Bool
  ring : List (BitVec 16)
  bulk : Nat
  nextId : Nat
  busyUntil : Nat
  removed : Bool
  suspect : Bool
  passed : Bool
  suspects : Nat
  segment : Nat
  test : Option TestRun
  lastTest : Nat
  cnt : CntSet
deriving DecidableEq, Repr

def Core.reset : Core :=
  { groups := [], arr := Arr.reset, fixed := false, ring := [], bulk := 0, nextId := 0, busyUntil := 0,
    removed := false, suspect := false, passed := false, suspects := 0, segment := 0, test := none, lastTest := 0,
    cnt := CntSet.reset }

/-! ### Clusters -/

/-- A group waiting on a semaphore (R418). -/
structure SemWait where
  core : Nat
  group : Nat
  count : Nat
deriving DecidableEq, Repr

/-- A pin: table, version, committed epoch, slot number (R249, R274). -/
structure Pin where
  table : Nat
  version : Byte
  ce : Word32
  slot : Nat
deriving DecidableEq, Repr

/-- An entry of a lookup's list (R236). -/
structure Entry where
  weight : Word32
  bag : Nat
  table : Nat
  index : Nat
deriving DecidableEq, Repr

/-- Where a lookup came from: a group of a job with a template, or a LOOKUP_SUBMIT (R231). -/
inductive LookupSource where
  | prog (job core group template : Nat)
  | host (k : Cmd)
deriving DecidableEq, Repr

/-- How far a lookup has come. -/
inductive LookupPhase where
  | sorting
  | pooling
  | written
deriving DecidableEq, Repr

/-- A LOOKUP_SUBMIT with lookups still to hand over: how many, the lowest outcome code other than 0, the sum of
DISTINCT (R472), the lowest reference of a cluster that failed (R57), the paths written (R482), whether an invalidation aborted one of
its lookups (R371). -/
structure LookCmd where
  cmd : Cmd
  left : Nat
  code : Nat
  distinct : Nat
  unit : Word32
  paths : Nat := 0
  aborted : Bool := false
deriving DecidableEq, Repr

/-- A MEM_COPY, ZERO_LINES or TABLE_WRITE_ROWS whose work its engines have not begun (R371): its partition and virtual ranges. -/
structure HostWork where
  cmd : Cmd
  part : Nat
  ranges : List (Nat × Nat)
deriving DecidableEq, Repr

/-- What the shard exchange sends: a key with the pin of its table, in the scheduled or elastic class; a row in
stored format, in the class of its request (R256, R257). -/
inductive ShardMsg where
  | ask (dev table index : Nat) (version : Byte) (ce : Word32) (scheduled : Bool)
  | row (dev table index : Nat) (bytes : List Byte) (poisoned scheduled : Bool)
deriving DecidableEq, Repr

/-- A lookup submitted and not yet accepted by the engine (R665, R184). A request with no words keeps the place of
a group that is parked with its emb.sub. -/
structure LookReq where
  source : LookupSource
  part : Nat
  words : List Word64
  epoch : Word32
deriving DecidableEq, Repr

/-- A lookup in the engine's queue (R231), with the leaves under which its ranges were translated, or the first refused page
(R245). -/
structure Lookup where
  source : LookupSource
  part : Nat
  words : List Word64
  epoch : Word32
  id : Nat
  pins : List Pin
  leaves : List Leaf
  page : Option Nat
  startTick : Nat
  due : Nat
  time : Nat
  sortEnd : Nat
  phase : LookupPhase
  entries : List Entry
  todo : List (Nat × Nat)
  rows : List (Nat × Nat × List Word32 × List Bool)
  acc : NMap Word32
  counts : NMap Nat
  poisoned : List Nat
  distinct : Nat
  defaulted : Nat
  outOfRange : Nat
  hits : Nat
  remote : Nat
  overflow : Nat
  code : Nat
  listPoisoned : Bool
  tokenPosted : Bool
  late : Bool
deriving DecidableEq, Repr

/-- A DMA descriptor in a queue (R362): its eight words as queued, and its progress: accepted by the engine, held
for a commit (R532), moved with its data kept for the WCET tick (R81); known to have begun (R369), the leaves under which it was
translated (R363, R370); the order of acceptance (R502). -/
structure Desc where
  id : Nat
  words : List Word64
  job : Nat
  core : Nat
  group : Nat
  accepted : Bool
  due : Nat
  held : Bool
  tokenPosted : Bool
  moved : Bool
  begun : Bool
  leaves : List Leaf
  order : Nat
  data : List (BitVec 256 × Bool)
  /-- The elastic stream in which its data is leaving (R228, R398). -/
  stream : Option Nat
deriving DecidableEq, Repr

/-- A valid line of a Deck cache (R291, R292): line address, the table and version of a table line,
its dirty bit, data, per-sector tags, and how each sector's check bytes differ from valid ones (R330). -/
structure Line where
  region : Nat
  way : Nat
  addr : Nat
  table : Option (Nat × Byte)
  dirty : Bool
  data : BitVec 1024
  tags : List Byte
  chk : List (BitVec 24)
deriving DecidableEq, Repr

/-- Cluster states (R599 to R601). -/
inductive Power where
  | run
  | idle
  | retain
  | off
deriving DecidableEq, Repr

/-- Deck slice states (R601). -/
inductive DeckPower where
  | on
  | retain
  | off
deriving DecidableEq, Repr

/-- A cluster. `wakeAt` is the tick at which it has reached the power state in which it stands (R602, R603). -/
structure Cluster where
  sem : NMap Word32
  semQ : NMap (List SemWait)
  lookups : List Lookup
  lookWait : List LookReq
  sorterFree : Nat
  dma : NMap (List Desc)
  deckCfg : List Word64
  lines : List Line
  tree : NMap (BitVec 16)
  seqStopped : Bool
  pwr : Power
  deckPwr : DeckPower
  wakeAt : Nat
  engCnt : CntSet
  deckCnt : CntSet
deriving DecidableEq, Repr

/-- The Deck configuration record at reset: NEXT_LINE = 1, other fields 0 (R287). -/
def deckCfgReset : List Word64 :=
  [0x0200000000000000, 0, 0x0200000000000000, 0, 0x0200000000000000, 0, 0x0200000000000000, 0]

def Cluster.reset : Cluster :=
  { sem := [], semQ := [], lookups := [], lookWait := [], sorterFree := 0, dma := [], deckCfg := deckCfgReset,
    lines := [], tree := [], seqStopped := false, pwr := .run, deckPwr := .on, wakeAt := 0, engCnt := CntSet.reset,
    deckCnt := CntSet.reset }

/-! ### Tables -/

/-- States of a version slot (R267). -/
inductive SlotState where
  | free
  | loading
  | ready
  | flipCommitted
  | active
  | draining
deriving DecidableEq, Repr

/-- A version slot (R267). -/
structure VSlot where
  st : SlotState
  version : Byte
  foldEpoch : Word32
  pins : Nat
  base : Nat
  /-- Whether a JOB_REMAP gave this slot's version number to another slot: no pin names it any more (R283, R555). -/
  dead : Bool
deriving DecidableEq, Repr

def VSlot.reset : VSlot := { st := .free, version := 0, foldEpoch := 0, pins := 0, base := 0, dead := false }

/-- A table of the device (R237, R267). -/
structure Table where
  w0 : Word64
  w1 : Word64
  w2 : Word64
  shards : List Nat
  ce : Word32
  active : Byte
  flipTick : Nat
  slots : NMap VSlot
  lastVersion : Byte
  patchBase : Nat
  patchRows : Nat
  /-- The default row's bytes (R238, R475). -/
  dflt : List Byte
deriving DecidableEq, Repr

/-- An overlay entry: table, index, tag (none while staged), payload place in the patch area (R280). -/
structure Overlay where
  table : Nat
  index : Nat
  tag : Option Word32
  place : Nat
deriving DecidableEq, Repr

/-- A TABLE_FOLD in progress (R285): its table, target slot, and the pin it took. -/
structure Fold where
  table : Nat
  slot : Nat
  epoch : Word32
  pin : Pin
  cmd : Cmd
deriving DecidableEq, Repr

/-- A TABLE_RETIRE that waits (R276). -/
structure Retire where
  table : Nat
  slot : Nat
  cmd : Cmd
deriving DecidableEq, Repr

/-! ### HBM -/

/-- A stack's registers and maintenance state (chapter 10). -/
structure Stack where
  lost : Bool
  inWindow : Bool
  lostPc : Nat
  lateFlag : Bool
  passes : Nat
  corrected : Nat
  uncorrectable : Nat
  ondie : Nat
  spares : Nat
  corrQ : List Nat
  scrubAt : Nat
  passStart : Nat
  rowHits : NMap Nat
  repairs : List Nat
  selfRefresh : Bool
deriving DecidableEq, Repr

def Stack.reset : Stack :=
  { lost := false, inWindow := false, lostPc := 0, lateFlag := false, passes := 0, corrected := 0, uncorrectable := 0,
    ondie := 0, spares := 0, corrQ := [], scrubAt := 0, passStart := 0, rowHits := [], repairs := [],
    selfRefresh := false }

/-! ### Translation -/

/-- A cached leaf (R359). -/
structure TlbEntry where
  leaf : Leaf
deriving DecidableEq, Repr

/-- A window entry (R365) with the accesses it has admitted and not finished (R368). -/
structure Window where
  w0 : Word64
  w1 : Word64
  open_ : Nat
deriving DecidableEq, Repr

def Window.reset : Window := { w0 := 0, w1 := 0, open_ := 0 }

/-- An invalidation in progress (R369): partition, range, engines still to acknowledge, aborted tasks,
start tick, whether the notice has reached the engines, command (UNMAP or INVALIDATE_RANGE; none for the host leaves
of a warm reattach). -/
structure Inval where
  part : Nat
  va : Nat
  length : Nat
  waiting : List Engine
  noticed : Bool
  aborted : Nat
  start : Nat
  cmd : Option Cmd
deriving DecidableEq, Repr

/-! ### Fabric -/

/-- STATE of FAB_PORT_STATE. -/
inductive PortSt where
  | down
  | training
  | keying
  | identity
  | calibrating
  | up
  | failed
deriving DecidableEq, Repr

/-- A post on its way between sync units, or between one and the ports' control logic, and the tick at which it arrives (R414): the
device, cluster and semaphore that it names, its count and job number, the device that posted. -/
structure PostDue where
  due : Nat
  dev : Nat
  cluster : Nat
  sem : Nat
  count : Nat
  number : Word32
  src : Nat
  /-- The posting core, where it is one of this device. -/
  core : Option Nat
deriving DecidableEq, Repr

/-- An elastic stream that this device sends or forwards on a port (R398, R399). `src` is not known of a forwarded stream
before its first segment; `pool` is the partition whose credits it spends (none for a forwarded stream, R509), `via` the
port that brought its sectors and gets their credits back; `sectors` wait with their offsets, `next` counts those sent. -/
structure TxStream where
  src : Option Nat
  stream : Nat
  dst : Nat
  mcast : Bool
  job : Word32
  epoch : Word32
  layer : BitVec 16
  operator : BitVec 16
  prov : Bool
  length : Nat
  next : Nat
  sectors : List (Nat × BitVec 256 × Byte)
  pool : Option Nat
  via : Option Nat
deriving DecidableEq, Repr

/-- An elastic stream opened toward a window of this device (R398); STREAM_OPEN does not name the source, the first segment
does. `seen` counts the sectors delivered, `last` says whether the segment that carries E_LAST has come;
`admitted` is the translation under which the window admitted it: partition, address of its offset 0, leaves. -/
structure RxStream where
  src : Option Nat
  stream : Nat
  port : Nat
  window : Nat
  base : Nat
  length : Nat
  job : Word32
  rel : Bool
  seen : Nat
  admitted : Option (Nat × Nat × List Leaf)
  refused : Bool
  last : Bool
  /-- The epoch that its segments name, once one has come (R538). -/
  epoch : Option Word32 := none
  /-- Whether a relayed message is written whole and its post waits for those before it (R497). -/
  waits : Bool := false
deriving DecidableEq, Repr

/-- A relayed message that waits until an earlier one to its target has left (R498): queue pair, sequence number of its last packet,
target, window, offset, sectors. -/
structure RelayWait where
  link : Nat
  qp : Nat
  psn : Nat
  dev : Nat
  window : Nat
  base : Nat
  sectors : List (BitVec 256 × Byte)
deriving DecidableEq, Repr

/-- An elastic segment that arrived in Quiet and waits in the receiving buffer (R606): port, source, stream, offset, the
frame that brought it (none for an account of a lost one), its sectors. -/
structure WaitSeg where
  port : Nat
  src : Nat
  stream : Nat
  offset : Nat
  frame : Option Frame
  sectors : List (BitVec 256 × Byte)
deriving DecidableEq, Repr

/-- An elastic segment sent in a data frame, by the number of its key set and its frame counter (R392). -/
structure SentSeg where
  keys : Nat
  counter : Nat
  src : Nat
  stream : Nat
  offset : Nat
  count : Nat
deriving DecidableEq, Repr

/-- The keys and salts of one direction of a link (R380, R382). -/
structure KeySet where
  dataKey : List Byte
  ctrlKey : List Byte
  dataSalt : List Byte
  ctrlSalt : List Byte
deriving DecidableEq, Repr

/-- This end's part of a key exchange (R382, R383): the secret that it encapsulated, the ciphertext that it sent, and the
switch value that it announced. -/
structure KeyShare where
  secret : List Byte
  cipher : List Byte
  switch : Option Nat
deriving DecidableEq, Repr

/-- A fabric port. `spent` lists the elastic sectors sent whose credits have not returned, with the pool that paid and the number of the job, oldest
first; `passOn` the scheduled sectors that a slot table passes out through the port, with their schedule tick; `outFrame` and
`outTokens` the data frame and the tokens of the control frame last sent, `outWire` and `outCtrl` the symbols of their
codewords, `inTokens` the tokens of the control frame last received. `tx`, `txNext` are the keys in use and agreed for
sending, `rxKeys0`, `rxKeys1` those of each KEY_PHASE for receiving; `lost` counts the frames whose account has not come. -/
structure Port where
  st : PortSt
  rate64 : Bool
  rev : Nat
  keyPhase : Bool
  rxPhase : Bool
  dData : Nat
  dCtrl : Nat
  peerDev : Nat
  peerPort : Nat
  padData : Nat
  padCtrl : Nat
  failStep : Nat
  corrected : Nat
  uncorrectable : Nat
  authFail : Nat
  ctrlLost : Nat
  cfg : Word64
  tx : Option KeySet
  txNext : Option KeySet
  rxKeys0 : Option KeySet
  rxKeys1 : Option KeySet
  txCount : Nat
  txCtrl : Nat
  rxCount : Nat
  rxCtrl : Nat
  rxCtrlPhase : Bool
  rxSwitch : Option Nat
  keysUsed : Nat
  switchAt : Option Nat
  share : Option KeyShare
  peerKem : List Byte
  renewals : Nat
  fragments : List Byte
  credits : Nat
  rxHeld : Nat
  txStreams : List TxStream
  rrLast : Nat × Nat
  mcastSince : Nat
  tokU : List Word64
  tokM : List Word64
  tokS : List Word64
  tokE : List Word64
  sent : List SentSeg
  /-- SQUALLs sent in the last 200 ticks: severity and tick (R443). -/
  sqSent : List (Nat × Nat)
  peerClock : Bool
  echoes : List Word64
  spent : List (Option (Nat × Word32) × Nat)
  passOn : List (Nat × BitVec 256 × Byte)
  lost : Nat
  lastSent : Option Nat
  outFrame : Option Frame
  outTokens : List Word64
  outWire : List (BitVec 10)
  outCtrl : List (BitVec 10)
  inTokens : List Word64
deriving DecidableEq, Repr

/-- FAB_PORT_CONFIG at reset: MCAST_TIMEOUT 0xC8, ELASTIC_MIN 4, KEY_RENEW 4, ENABLE 1. -/
def portCfgReset : Word64 := 0x0000000000C81041

def Port.reset : Port :=
  { st := .down, rate64 := false, rev := 0, keyPhase := false, rxPhase := false, dData := 0, dCtrl := 0, peerDev := 0,
    peerPort := 0, padData := 0, padCtrl := 0, failStep := 0, corrected := 0, uncorrectable := 0, authFail := 0,
    ctrlLost := 0, cfg := portCfgReset, tx := none, txNext := none, rxKeys0 := none, rxKeys1 := none, txCount := 0, txCtrl := 0,
    rxCount := 0, rxCtrl := 0, rxCtrlPhase := false, rxSwitch := none, keysUsed := 0, switchAt := none, share := none,
    peerKem := [], renewals := 0, fragments := [], credits := 0, rxHeld := 0, txStreams := [], rrLast := (1024, 0), mcastSince := 0, tokU := [],
    tokM := [], tokS := [], tokE := [], sent := [], sqSent := [], peerClock := false, echoes := [], spent := [],
    passOn := [], lost := 0, lastSent := none, outFrame := none, outTokens := [], outWire := [], outCtrl := [], inTokens := [] }

/-- A device entry and a link entry of the fabric description (R388). -/
structure FabDevice where
  id : BitVec 512
  number : Nat
deriving DecidableEq, Repr

structure FabLink where
  devA : Nat
  portA : Nat
  devB : Nat
  portB : Nat
  rate : Nat
  revMax : Nat
  dDataAB : Nat
  dCtrlAB : Nat
  dDataBA : Nat
  dCtrlBA : Nat
deriving DecidableEq, Repr

/-- The fabric description last accepted (R388, R478). -/
structure Fabric where
  topology : Nat
  x : Nat
  y : Nat
  z : Nat
  digest : BitVec 512
  devices : List FabDevice
  links : List FabLink
deriving DecidableEq, Repr

def Fabric.reset : Fabric := { topology := 0, x := 0, y := 0, z := 0, digest := 0, devices := [], links := [] }

/-- FAB_CEILING (R423). -/
structure CeilTree where
  root : Nat
  parent : Nat
  children : BitVec 16
  depth : Nat
  diam : Nat
deriving DecidableEq, Repr

def CeilTree.reset : CeilTree := { root := 0, parent := 0x1F, children := 0, depth := 0, diam := 0 }

/-- One Ceiling of a job (R424 to R426): the tick of the commit point, the tick at which this device arrives, own arrival, ports whose child arrived, ports counted as
arrived for a failure, whether sent on, the release with its tick, and whether it has been applied. -/
structure Ceil where
  point : Nat
  due : Option Nat
  own : Bool
  arrived : List Nat
  suspect : Bool
  fail : Bool
  sent : Bool
  release : Option (Nat × Bool × Bool)
  applied : Bool
deriving DecidableEq, Repr

def Ceil.reset : Ceil := { point := 0, due := none, own := false, arrived := [], suspect := false, fail := false, sent := false, release := none, applied := false }

/-- A mode change prepared on this device, or committed for a tick (R435, R436). `reserved` says that the prepare holds the
entry of the group that it installs or clears in the resolving state (R51). -/
structure McPrep where
  coord : Nat
  change : Nat
  kind : Nat
  content : Option McContent
  acks : List Nat
  own : Bool
  refuse : Option (Nat × Nat)
  commit : Option Nat
  sentAck : Bool
  reserved : Bool
deriving DecidableEq, Repr

/-- A mode change that this device coordinates (R434, R438), with the commands that it completes: one, or every launch of a
batch (R324). -/
structure McCoord where
  change : Nat
  kind : Nat
  content : McContent
  cmds : List Cmd
deriving DecidableEq, Repr

/-- The content of a change as this device sends it, in the elastic class, to an involved device before it asks for the change
(R434, R666). -/
structure McDelivery where
  dev : Nat
  change : Nat
  kind : Nat
  content : McContent
deriving DecidableEq, Repr

/-- A change in the root's queue (R434); the head runs, `start` is when its prepare departed. -/
structure McRoot where
  coord : Nat
  change : Nat
  kind : Nat
  content : Option McContent
  start : Option Nat
deriving DecidableEq, Repr

/-- A temperature sensor: reading in 1/8 degree, severity, and the last notice (severity, tick). -/
structure Sensor where
  reading : Int
  sev : Nat
  noticed : List (Nat × Nat)
deriving DecidableEq, Repr

def Sensor.reset : Sensor := { reading := 0, sev := 0, noticed := [] }

/-! ### Host interface -/

/-- A completion entry's fields (chapter 14) and whether it signals its vector. -/
structure Completion where
  opcode : BitVec 16
  seq : Word32
  status : BitVec 16
  result : Word64
  count : Word32
  unit : Word32
  jobNumber : Word32
  job : BitVec 4
  recType : BitVec 4
  more : Bool
  paths : BitVec 5
  payload : Option (BitVec 128)
  noint : Bool
deriving DecidableEq, Repr

/-- STATE of HIF_QUEUE_STATE. -/
inductive QueueSt where
  | absent
  | running
  | stopped
deriving DecidableEq, Repr

/-- A queue (R456 to R467) with the counters of R524: `accepted` are commands accepted and not started, `running` those
started and not completed, `orphans` those that ran on when a reset ended their queue, with whether their completions are
held (R486). -/
structure HQueue where
  st : QueueSt
  fn : Nat
  part : Nat
  cause : Nat
  head : Nat
  expect : Word32
  sq : Word64
  cq : Word64
  vector : Nat
  tail : Nat
  cqTail : Nat
  cqHead : Nat
  phase : Bool
  refetch : Nat
  /-- Tick at which the last fetch of a slot that was not valid was issued (R461). -/
  fetchTick : Nat
  /-- Acceptance ticks of the commands accepted and not completed (R462). -/
  took : List (Cmd × Nat)
  accepted : List Cmd
  running : List Cmd
  orphans : List (Cmd × Bool)
  done : List Completion
  destroying : Option Cmd
  /-- Tick at which the counters below were last reset, and what they held (R588). -/
  before : Option (Nat × List Nat)
  submitted : Nat
  started : Nat
  completed : Nat
  aborted : Nat
  preempted : Nat
deriving DecidableEq, Repr

def HQueue.reset : HQueue :=
  { st := .absent, fn := 0, part := 0, cause := 0, head := 0, expect := 0, sq := 0, cq := 0, vector := 0, tail := 0,
    cqTail := 0, cqHead := 0, phase := true, refetch := 0, fetchTick := 0, took := [], accepted := [], running := [],
    orphans := [], done := [], destroying := none, before := none, submitted := 0, started := 0, completed := 0, aborted := 0, preempted := 0 }

/-- Admin-queue registers of a function. -/
structure AdminRegs where
  sq : Word64
  cq : Word64
  ctrl : Word64
deriving DecidableEq, Repr

def AdminRegs.reset : AdminRegs := { sq := 0, cq := 0, ctrl := 0 }

/-- MSI-X of a function as PCI Express defines it (R468; PRESUMED, log entry 129): the enable and function-mask bits, the vectors whose
mask bit is 0, the pending bits. -/
structure Msix where
  enable : Bool
  functionMask : Bool
  unmasked : List Nat
  waiting : List Nat
deriving DecidableEq, Repr

/-- MSI-X at reset: disabled, every vector masked. -/
def Msix.reset : Msix := { enable := false, functionMask := false, unmasked := [], waiting := [] }

/-- What a host access was answered with: bytes, the poisoned (EP) bit (R452), Completer Abort (R607), Configuration Request
Retry Status (R622). -/
structure ReadReply where
  bytes : List Byte
  ep : Bool
  abort : Bool
  retry : Bool
deriving DecidableEq, Repr

/-! ### Ethernet -/

/-- A region entry in effect (R493), with the stagings that clear it (R494). -/
structure Region where
  w0 : Word64
  w1 : Word64
  w2 : Word64
  w3 : Word64
  clearing : List Cmd
deriving DecidableEq, Repr

/-- A queue pair (R491): peer, expected packet number, and the message in progress: its R_Key, its offset and length, the
bytes taken, and what a relay has collected of it. -/
structure QPair where
  peer : Nat
  expectPsn : Nat
  rkey : Word32
  offset : Nat
  length : Nat
  taken : Nat
  buffer : List Byte
deriving DecidableEq, Repr

/-- What the module sends on Ethernet. -/
inductive EthMessage where
  | write (link qp : Nat) (rkey : Word32) (addr : Word64) (bytes : List Byte) (imm : Option Word32)
  | ack (link qp psn : Nat)
  | nakAccess (link qp psn : Nat)
  | nakInvalid (link qp psn : Nat)
  | accept (link qp : Nat)
  | reject (link : Nat)
  | congestion (link qp : Nat)
deriving DecidableEq, Repr

/-! ### Partitions and jobs -/

/-- A generation slot's record (R308), with the boundaries at which it was held in all (R304), and
the fork and the parent entries that a hold put off (R314). -/
structure SeqSlot where
  seed : Word64
  handle : Word32
  tokens : Nat
  prefillLeft : Nat
  held : Nat
  heldAll : Nat
  fork : Bool
  moves : List (Nat × Nat)
  beams : Nat
  st : Nat
  maxNew : Nat
  promptLen : Nat
  cmd : Cmd
deriving DecidableEq, Repr

/-- A SEQ_JOIN in the join queue (R304), with its acceptance tick (R302). -/
structure Join where
  cmd : Cmd
  at_ : Nat
  handle : Word32
  beams : Nat
  promptLen : Nat
  maxNew : Nat
  seed : Word64
deriving DecidableEq, Repr

/-- A launch queued in the batcher (R323) with its acceptance tick. -/
structure BatchReq where
  cmd : Cmd
  accepted : Nat
deriving DecidableEq, Repr

/-- Trace state of a partition (R590 to R595). -/
structure Trace where
  baseVa : Nat
  p1 : Word64
  p2 : Word64
  configured : Bool
  running : Bool
  frozen : Bool
  wrapped : Bool
  next : Nat
  count : Nat
  post : Option Nat
  staged : NMap (List (BitVec 256))
  virga : NMap (Nat × Nat × Nat)
deriving DecidableEq, Repr

def Trace.reset : Trace :=
  { baseVa := 0, p1 := 0xF4000000, p2 := 0, configured := false, running := false, frozen := false, wrapped := false, next := 0,
    count := 0, post := none, staged := [], virga := [] }

/-- Inbound or outbound counters of a key (R575): highest accepted counter plus one, accepted counters
of the window, next outbound counter. -/
structure KeyUse where
  key : List Byte
  salt : List Byte
  next : Nat
  seen : List Nat
deriving DecidableEq, Repr

/-- A confidential session (R572). -/
structure Session where
  inbound : KeyUse
  outbound : KeyUse
  digest : BitVec 512
  fn : Nat
deriving DecidableEq, Repr

/-- A bound job key (R576). -/
structure JobKey where
  part : Nat
  fn : Nat
  inVa : Nat
  inLen : Nat
  outVa : Nat
  outLen : Nat
  inbound : KeyUse
  outbound : KeyUse
  digest : BitVec 512
  clearing : List Cmd
deriving DecidableEq, Repr

/-- A partition. `resets` are the resets of its cores that wait for the end of its jobs (R510, R611), with the PARTITION_RESET
that each completes. -/
structure Part where
  recWords : List Word64
  gen : List Word64
  seqs : NMap SeqSlot
  blocks : NMap Nat
  joins : List Join
  leaves : List (Word32 × Cmd × Nat)
  batcher : Word64
  batchQ : List BatchReq
  slice : List Word64
  lastSlot : Nat
  credUsed : NMap Nat
  scrub : Bool
  dbg : Nat
  nonce : Option (BitVec 512)
  session : Option Session
  closing : List Cmd
  resets : List (Option Cmd)
  trace : Trace
deriving DecidableEq, Repr

/-- The generation record at reset: JOIN_MAX_M1 0x1F, PREFILL_M1 0x07 (R306). -/
def genReset : List Word64 := [0, 0, 0, 0x000000000007C038]
/-- The batcher word at reset: FILL 0x20, DEADLINE 0x64. -/
def batcherReset : Word64 := 0x0000000400640000
/-- The slice record at reset: QUANTUM 0xC350, LIMIT 0x989680, GRACE 0x7D0 (R514). -/
def sliceReset : List Word64 := [0x0000C35000989680, 0, 0x00000000000007D0]

def Part.reset : Part :=
  { recWords := [0, 0, 0, 0, 0, 0, 0, 0, 0, 0], gen := genReset, seqs := [], blocks := [], joins := [], leaves := [],
    batcher := batcherReset, batchQ := [], slice := sliceReset, lastSlot := 0, credUsed := [], scrub := false, dbg := 0,
    nonce := none, session := none, closing := [], resets := [], trace := Trace.reset }

/-- A job's phase. -/
inductive JobPhase where
  | waiting
  | starting
  | running
  | saving (n : Nat)
  | preempted
  | restoring
  /-- Waiting, its footprint held for a start that a mode change prepares (R71). -/
  | reserved
deriving DecidableEq, Repr

/-- A slip in force or due (R75): replay of an epoch, maintenance of a stack, Squall; ticks left. -/
inductive SlipKind where
  | replay (epoch : Word32)
  | maintenance (stack : Nat)
  | squall
deriving DecidableEq, Repr

structure Slip where
  kind : SlipKind
  left : Nat
deriving DecidableEq, Repr

/-- A core that made a step suspect (R528), with the class that did (R547). 384 stands for no core: poison that a port
delivered. -/
structure Suspect where
  epoch : Word32
  core : Nat
  cause : Nat
deriving DecidableEq, Repr

/-- What a job holds back until the epoch commits (R532, R655, R501). -/
inductive Held where
  | hostWrite (epoch : Word32) (addr : Nat) (bytes : List Byte)
  /-- A descriptor of cluster `cl` whose destination is a host page; the EGRESS region that admitted it, with the offset in it. -/
  | hostCopy (cl : Nat) (d : Desc) (region : Option (Nat × Nat))
  | ethSend (epoch : Word32) (region off : Nat) (bytes : List Byte) (order : Nat)
deriving DecidableEq, Repr

/-- A snapshot of a core at a commit point (R534): groups, array, core-store ranges. -/
structure Snap where
  core : Nat
  epoch : Word32
  groups : NMap Grp
  arr : Arr
  store : List (Nat × List Byte × List Byte)
deriving DecidableEq, Repr

/-- The end of a job's task set for one schedule tick on every unit (R71, R204, R522): the tick, the status and unit of the
completion, the first step that does not commit; the exceptions of this cycle whose record is not yet written, as (core, group,
step epoch) (R205); the commands that complete with the job. -/
structure Ending where
  tick : Nat
  status : Nat
  unit : Word32
  epoch : Word32
  raised : List (Nat × Nat × Word32)
  cmds : List Cmd
  /-- Failing cores that other devices of the job have named, as (device, core) (R57). -/
  far : List (Nat × Nat)
deriving DecidableEq, Repr

/-- What this device tells another of a job's end (R57, R71, R522): job, schedule tick, status, cores that failed. The manual gives no token for it (log
entry 102). -/
structure StopNotice where
  dev : Nat
  number : Word32
  tick : Nat
  status : Nat
  cores : List Nat
deriving DecidableEq, Repr

/-- A job held by a partition (R511). `replaying` lists the cores whose streams their replay cores run (R539), `rerun`
each epoch that a replay ran again with the first epoch of that replay (R543). Its key in `State.jobs` is 8 x partition + slot. -/
structure Job where
  number : Word32
  unit : Word32
  image : Nat
  entry : Nat
  phase : JobPhase
  launchTick : Nat
  stick : Nat
  epoch : Word32
  replayTick : Option Nat
  slips : List Slip
  slipIdx : Nat
  slipSets : NMap Nat
  sevSince : Nat
  sliceStart : Nat
  pendCheap : Option Nat
  stopAt : Option (Nat × Nat)
  ending : Option Ending
  wcet : Nat
  fixedOverride : Bool
  origins : List Cmd
  batch : Bool
  pins : List Pin
  suspects : List Suspect
  reported : List Word32
  nextCommit : Word32
  ceils : NMap Ceil
  outs : List Held
  semSnaps : NMap (List (Nat × Word32))
  snaps : List Snap
  saved : List Snap
  replaying : List Nat
  rerun : List (Word32 × Word32)
  result : Nat
  ended : Nat
  /-- Whether this device has declared itself failed for the job (R431, R432). -/
  failed : Bool := false
  /-- Runs of wall ticks in which schedule time stood still, latest first: the first tick and how many (R430). -/
  stood : List (Nat × Nat) := []
  /-- The paths that the job's work has written, as its completions name them (R482, R501). -/
  paths : Nat := 0
  /-- Credits that the job's elastic streams had spent at each port, by replay buffer (R534). -/
  credSnaps : NMap (List (Nat × Nat)) := []
  /-- Sources of scheduled transfers to other devices that missed their WCET tick in a step (R84): epoch, core (none: an address of the
  partition), first byte, length. -/
  lateSrc : List (Word32 × Option Nat × Nat × Nat) := []
  /-- The tags of the launch that the job starts with (R585). -/
  tags : CntTags := CntTags.none
deriving DecidableEq, Repr

/-- A loaded image (R476): partition and contents. -/
structure Loaded where
  part : Nat
  img : Image
deriving DecidableEq, Repr

/-- A PACKAGE entry of reports (R564, R571). -/
structure Package where
  part : Nat
  va : Nat
  length : Nat
  digest : BitVec 512
  signer : BitVec 512
deriving DecidableEq, Repr

/-! ### Errors -/

/-- An error record (R546). -/
structure ErrRec where
  timestamp : Word64
  unit : Word32
  cls : Byte
  code : Byte
  opcode : BitVec 16
  layer : BitVec 16
  operator : BitVec 16
  job : Word32
  epoch : Word32
  temp : BitVec 12
  volt : BitVec 16
  part : BitVec 4
  syndrome : BitVec 128
  repeat_ : Nat
  number : Word32
  address : BitVec 52
deriving DecidableEq, Repr

/-- What the module sends over I3C (R548, R639): an in-band interrupt that signals a record routed to the management path; the
vendor-defined message of type 0x7F, which carries the enterprise number and the record; answers. -/
inductive MctpOut where
  | interrupt
  | record (enterprise : Word32) (r : ErrRec)
  | controlReply
  | inventory (slot : BitVec 4) (deviceId : BitVec 512)
deriving DecidableEq, Repr

/-! ### Groups of units -/

/-- STATE of a group-table entry (R51). -/
inductive GroupSt where
  | free
  | defined
  | resolving
deriving DecidableEq, Repr

/-- A group-table entry (chapter 01): on the home device `members` is the direct member list; `cores`
is the resolved set as (device, device-wide core index). -/
structure GroupEntry where
  st : GroupSt
  home : Nat
  members : List Word32
  cores : List (Nat × Nat)
  pfOnly : Bool
  depth : Nat
  part : Nat
deriving DecidableEq, Repr

def GroupEntry.reset : GroupEntry :=
  { st := .free, home := 0, members := [], cores := [], pfOnly := false, depth := 0, part := 0 }

/-! ### NVM and flash -/

/-- NVM (R616 to R621): stored settings (number, value) of the newest valid page, its sequence number,
writes made to each ring page, BOOTS, whether the newest page is valid, cores removed. -/
structure Nvm where
  stored : NMap Word64
  valid : Bool
  seq : Nat
  pageWrites : NMap Nat
  boots : Nat
  removed : List Nat
  /-- Writes made to the core removal ring (R621). -/
  removals : Nat
  /-- Helper data of the SRAM PUF (R556). -/
  helper : List Byte := []
deriving DecidableEq, Repr

def Nvm.reset : Nvm := { stored := [], valid := false, seq := 0, pageWrites := [], boots := 0, removed := [], removals := 0 }

/-- Serial flash (R640): whether the firmware region and the scan content verify. -/
structure Flash where
  firmwareOk : Bool
  scanOk : Bool
  firmware : List Byte
  scan : List Byte
deriving DecidableEq, Repr

/-! ### The module -/

/-- The state of the module. `crossErr` holds, for the sectors that next cross a die-to-die link, the difference between the check
bytes received and those that R330 gives (R29); with none listed they arrive unchanged. -/
structure State where
  pending : List Instr
  fresh : Nat
  tick : Nat
  tsLatch : NMap (Option Word32)
  slipCount : Nat
  slipTicks : Nat
  assigned : Bool
  device : Nat
  failedAll : Bool
  framesStopped : Bool
  clocksStopped : Bool
  refLost : Bool
  groups : NMap GroupEntry
  cores : NMap Core
  clusters : NMap Cluster
  store : Mem
  deck : Mem
  hbm : Mem
  imem : List Host.Cell
  host : List Host.Cell
  tlbs : NMap (List TlbEntry)
  leaves : List Leaf
  ptables : List PTable
  windows : NMap Window
  invals : List Inval
  winClears : List (Nat × Cmd)
  tables : NMap (Option Table)
  overlay : List Overlay
  overlayMib : Nat
  folds : List Fold
  retires : List Retire
  lockedTables : List Nat
  lockedGroups : List Nat
  hbmStacks : NMap Stack
  hbmCtl : Word64
  ports : NMap Port
  fabricOn : Bool
  fabric : Fabric
  joining : Option (Cmd × List Nat)
  ceil : CeilTree
  rxStreams : List RxStream
  relayQ : List RelayWait
  waitSegs : List WaitSeg
  mcPrep : List McPrep
  mcRoot : List McRoot
  mcCoord : List McCoord
  mcNext : Nat
  mcOut : List McDelivery
  failedDevs : List Nat
  /-- The FAILED tokens seen: device, cause and origin tick (R429). -/
  failedSeen : List (Nat × Nat × Nat)
  sensors : NMap Sensor
  powerWindows : Nat
  notices : Nat
  ready : Bool
  warmFlag : Bool
  bar2Base : BitVec 10
  bar2Log2 : Nat
  errRoute : Word64
  errRing : Word64
  errDropped : Nat
  errTail : Nat
  errHead : Nat
  queues : NMap HQueue
  admin : NMap AdminRegs
  msixOut : List (Nat × Nat)
  msix : NMap Msix
  sriov : Bool
  vfs : Nat
  linkUp : Bool
  /-- LINK_GEN and LINK_WIDTH, as the last training of the link left them (R448). -/
  linkGen : Nat
  linkWidth : Nat
  perst : Bool
  heldOut : List (Nat × Completion)
  readOut : Option ReadReply
  ethPort : NMap Word64
  ethAddr : NMap Word64
  ethWords : NMap Word64
  regions : NMap (Option Region)
  qps : NMap (Option QPair)
  pfc : NMap Bool
  ethOut : List EthMessage
  /-- Messages of a link that its peer has paused, in order (R490). -/
  ethWait : List EthMessage
  parts : NMap Part
  jobs : NMap (Option Job)
  images : NMap (Option Loaded)
  errNumber : Word32
  errLog : List ErrRec
  errHold : List (Nat × ErrRec)
  mctpOut : List MctpOut
  lookCmds : List LookCmd
  /-- Host commands accepted whose work is queued (R371). -/
  hostWork : List HostWork
  stopsOut : List StopNotice
  postsDue : List PostDue
  /-- Versions of core-store sectors that a write has replaced while a run of the array was in progress, oldest first: sector,
  bytes, poison (R651). -/
  storeLog : List (Nat × List Byte × Bool)
  shardOut : List ShardMsg
  ftCtl : Word64
  idOk : Bool
  jobKeys : NMap (Option JobKey)
  packages : List Package
  dbgCount : Nat
  quiet : Bool
  quietBefore : NMap Power
  quietTicks : Nat
  pllOff : NMap Bool
  powerCmds : List (Nat × Cmd)
  hostUnmap : Bool
  trainWait : Option (BitVec 12)
  warmSetting : Word64
  nvm : Nvm
  flash : Flash
  fwImage : List Byte
  recovery : Bool
  powered : Bool
  crossErr : List (BitVec 24)
  /-- Sectors that a receiving die has corrected (R29, R332). -/
  crossFixed : Nat
  refOk : Bool
  straps : BitVec 4
  i3cAddr : Option (BitVec 7)
deriving DecidableEq, Repr

/-- DBG_HBM_CONTROL at reset: CE_REPORT 0x0400, SCRUB_HOURS 0x18. -/
def hbmCtlReset : Word64 := 0x0000000004001800
/-- HIF_ERR_ROUTE at reset: HOST and MGMT 1. -/
def errRouteReset : Word64 := 3
/-- FT_CONTROL at reset: PERIOD 0x18, ENABLE 1. -/
def ftCtlReset : Word64 := 0x0000000000001801

/-- The module right after power-good with a valid reference: every register at its reset value, every
memory listing nothing, no command waiting; the firmware not yet ready (R622). -/
def State.reset : State :=
  { pending := [], fresh := 0, tick := 0, tsLatch := [], slipCount := 0, slipTicks := 0, assigned := false, device := 0,
    failedAll := false, framesStopped := false, clocksStopped := false, refLost := false, groups := [], cores := [], clusters := [],
    store := Mem.empty, deck := Mem.empty, hbm := Mem.empty, imem := [], host := [], tlbs := [], leaves := [], ptables := [],
    windows := [], invals := [], winClears := [], tables := [], overlay := [], overlayMib := 0, folds := [],
    retires := [], lockedTables := [], lockedGroups := [], hbmStacks := [], hbmCtl := hbmCtlReset, ports := [],
    fabricOn := false, fabric := Fabric.reset, joining := none, ceil := CeilTree.reset, rxStreams := [], relayQ := [], waitSegs := [], mcPrep := [],
    mcRoot := [], mcCoord := [], mcNext := 0, mcOut := [], failedDevs := [], failedSeen := [], sensors := [], powerWindows := 0, notices := 0,
    ready := false, warmFlag := false, bar2Base := 0, bar2Log2 := 0, errRoute := errRouteReset, errRing := 0,
    errDropped := 0, errTail := 0, errHead := 0, queues := [], admin := [], msixOut := [], msix := [], sriov := false, vfs := 0,
    linkUp := false, linkGen := 5, linkWidth := 1, perst := false, heldOut := [], readOut := none, ethPort := [], ethAddr := [], ethWords := [],
    regions := [], qps := [], pfc := [], ethOut := [], ethWait := [], parts := [], jobs := [], images := [], errNumber := 0,
    errLog := [], errHold := [], mctpOut := [], lookCmds := [], hostWork := [], stopsOut := [], postsDue := [], storeLog := [], shardOut := [], ftCtl := ftCtlReset, idOk := true, jobKeys := [], packages := [],
    dbgCount := 0, quiet := false, quietBefore := [], quietTicks := 0, pllOff := [], powerCmds := [], hostUnmap := false,
    trainWait := none, warmSetting := 0, nvm := Nvm.reset,
    flash := { firmwareOk := true, scanOk := true, firmware := [], scan := [] }, fwImage := [], recovery := false, powered := true, crossErr := [], crossFixed := 0,
    refOk := true, straps := 0, i3cAddr := none }

/-! ### Reasons to stop -/

/-- Why a command stops the model. The module's own errors are states (exceptions, status codes, error records). -/
inductive Fault where
  /-- Raised by BAR2_READ and BAR2_WRITE for an offset outside the aperture, where no address exists (R452). Safe. -/
  | noMemory
deriving DecidableEq, Repr

/-- Why the model gives a command no meaning. -/
inductive Refusal where
  /-- Raised by an arm of exec that has no meaning yet. Safe. -/
  | notModelled (mnemonic : String)
  /-- Raised by a command whose operand names a unit that the module does not have (a core from 384,
  a group from 16, a port from 16, ...): such a command cannot arise. Safe. -/
  | noSuchUnit
deriving DecidableEq, Repr

end Sys2Proof.Machine
end

