-- ==== Sys2Proof/Machine/Access.lean ====
section
/-!
DEFINITION. Reading and replacing one unit of the state: the one way every meaning reaches a core, a
group, a cluster, a queue, a job. And unit references, timestamps and free values.
-/

namespace Sys2Proof.Machine

open Sys2Proof

/-! ### Unit references (R21, R22, R30) -/

/-- Reference of device `d`. -/
def devRef (d : Nat) : Word32 := BitVec.ofNat 32 (2 * 2 ^ 30 + d * 2 ^ 20)
/-- Reference of device-wide cluster `i` of device `d`. -/
def clusterRef (d i : Nat) : Word32 :=
  BitVec.ofNat 32 (2 ^ 30 + d * 2 ^ 20 + i / 12 * 2 ^ 18 + i % 12 * 2 ^ 14)
/-- Reference of device-wide core `c` of device `d`. -/
def coreRef (d c : Nat) : Word32 :=
  BitVec.ofNat 32 (d * 2 ^ 20 + c / 96 * 2 ^ 18 + c / 8 % 12 * 2 ^ 14 + c % 8 * 2 ^ 11)
/-- Reference of group number `n`. -/
def groupRef (n : Nat) : Word32 := BitVec.ofNat 32 (3 * 2 ^ 30 + n)

/-- What a unit reference names. -/
inductive UnitName where
  | core (dev c : Nat)
  | cluster (dev cl : Nat)
  | device (dev : Nat)
  | group (n : Nat)
  | reserved
deriving DecidableEq, Repr

/-- The unit that a reference names, or `reserved` when a reserved field is set (R30 to R32). -/
def unitOf (r : Word32) : UnitName :=
  let dev := bf r 29 20
  let cl := 12 * bf r 19 18 + bf r 17 14
  match bf r 31 30 with
  | 0 => if bf r 10 0 = 0 ∧ bf r 17 14 < 12 then .core dev (8 * cl + bf r 13 11) else .reserved
  | 1 => if bf r 13 0 = 0 ∧ bf r 17 14 < 12 then .cluster dev cl else .reserved
  | 2 => if bf r 19 0 = 0 then .device dev else .reserved
  | _ => if bf r 29 16 = 0 ∧ bf r 15 0 ≠ 0xFFFF then .group (bf r 15 0) else .reserved

/-! ### Units of the state -/

def State.core (s : State) (c : Nat) : Core := NMap.get s.cores c Core.reset
def State.setCore (s : State) (c : Nat) (v : Core) : State := { s with cores := NMap.set s.cores c v Core.reset }
def State.modCore (s : State) (c : Nat) (f : Core → Core) : State := s.setCore c (f (s.core c))

def Core.grp (k : Core) (g : Nat) : Grp := NMap.get k.groups g Grp.reset
def Core.setGrp (k : Core) (g : Nat) (v : Grp) : Core := { k with groups := NMap.set k.groups g v Grp.reset }

def State.grp (s : State) (c g : Nat) : Grp := (s.core c).grp g
def State.setGrp (s : State) (c g : Nat) (v : Grp) : State := s.setCore c ((s.core c).setGrp g v)
def State.modGrp (s : State) (c g : Nat) (f : Grp → Grp) : State := s.setGrp c g (f (s.grp c g))

def State.modArr (s : State) (c : Nat) (f : Arr → Arr) : State := s.modCore c fun k => { k with arr := f k.arr }

def State.cluster (s : State) (cl : Nat) : Cluster := NMap.get s.clusters cl Cluster.reset
def State.setCluster (s : State) (cl : Nat) (v : Cluster) : State :=
  { s with clusters := NMap.set s.clusters cl v Cluster.reset }
def State.modCluster (s : State) (cl : Nat) (f : Cluster → Cluster) : State := s.setCluster cl (f (s.cluster cl))

def State.stack (s : State) (i : Nat) : Stack := NMap.get s.hbmStacks i Stack.reset
def State.modStack (s : State) (i : Nat) (f : Stack → Stack) : State :=
  { s with hbmStacks := NMap.set s.hbmStacks i (f (s.stack i)) Stack.reset }

def State.port (s : State) (p : Nat) : Port := NMap.get s.ports p Port.reset
def State.modPort (s : State) (p : Nat) (f : Port → Port) : State :=
  { s with ports := NMap.set s.ports p (f (s.port p)) Port.reset }

def State.queue (s : State) (q : Nat) : HQueue := NMap.get s.queues q HQueue.reset
def State.modQueue (s : State) (q : Nat) (f : HQueue → HQueue) : State :=
  { s with queues := NMap.set s.queues q (f (s.queue q)) HQueue.reset }

def State.part (s : State) (p : Nat) : Part := NMap.get s.parts p Part.reset
def State.modPart (s : State) (p : Nat) (f : Part → Part) : State :=
  { s with parts := NMap.set s.parts p (f (s.part p)) Part.reset }

/-- The job held in slot `j % 8` of partition `j / 8` (R511). -/
def State.job (s : State) (j : Nat) : Option Job := NMap.get s.jobs j none
def State.setJob (s : State) (j : Nat) (v : Option Job) : State := { s with jobs := NMap.set s.jobs j v none }
def State.modJob (s : State) (j : Nat) (f : Job → Job) : State :=
  match s.job j with
  | none => s
  | some b => s.setJob j (some (f b))

/-- Paths that a job's work wrote, for its completions (R482, R501; log entry 117). -/
def State.markPath (s : State) (j p : Nat) : State := s.modJob j fun b => { b with paths := b.paths ||| p }

def State.table (s : State) (t : Nat) : Option Table := NMap.get s.tables t none
def State.setTable (s : State) (t : Nat) (v : Option Table) : State := { s with tables := NMap.set s.tables t v none }
def State.modTable (s : State) (t : Nat) (f : Table → Table) : State :=
  match s.table t with
  | none => s
  | some v => s.setTable t (some (f v))
def Table.slot (t : Table) (i : Nat) : VSlot := NMap.get t.slots i VSlot.reset
def Table.modSlot (t : Table) (i : Nat) (f : VSlot → VSlot) : Table :=
  { t with slots := NMap.set t.slots i (f (t.slot i)) VSlot.reset }

def State.window (s : State) (w : Nat) : Window := NMap.get s.windows w Window.reset
def State.setWindow (s : State) (w : Nat) (v : Window) : State :=
  { s with windows := NMap.set s.windows w v Window.reset }

def State.groupE (s : State) (n : Nat) : GroupEntry := NMap.get s.groups n GroupEntry.reset
def State.setGroupE (s : State) (n : Nat) (v : GroupEntry) : State :=
  { s with groups := NMap.set s.groups n v GroupEntry.reset }

def State.image (s : State) (h : Nat) : Option Loaded := NMap.get s.images h none

/-- Image of job `b`. -/
def State.jobImage (s : State) (b : Job) : Option Image := (s.image b.image).map (·.img)

/-! ### Free values and time -/

/-- `s` after `n` free values were read (log entry 4). -/
def State.used (s : State) (n : Nat) : State := { s with fresh := s.fresh + n }

/-- The free value of `w` bits that is read `i` values after the state. -/
def State.freeAt (s : State) (w i : Nat) : BitVec w := Config.free w (s.fresh + i)

/-- Whether the arithmetic clock is stopped: by a critical temperature, or with the PLLs of every compute die (R64, R447, R598,
R605). -/
def State.clockOff (s : State) : Bool := s.clocksStopped || (List.range 4).all fun d => NMap.get s.pllOff d false

/-- A timestamp of this tick (R63): its CYCLE, 0 to 32, is a free value; 0 while the arithmetic clock is stopped (R64). -/
def State.stamp (s : State) : Word64 :=
  BitVec.ofNat 64 (s.tick * 64 + (if s.clockOff then 0 else (s.freeAt 6 0).toNat % 33))

/-- STICK of a job: its schedule-time counter, or the replay counter in a replay slip (R70, R540). -/
def Job.now (b : Job) : Nat := b.replayTick.getD b.stick

/-- Partition of job key `j`. -/
def partOf (j : Nat) : Nat := j / 8

/-- The keys of every held job. -/
def State.heldJobs (s : State) : List Nat := s.jobs.filterMap fun (j, b) => if b.isSome then some j else none

/-- Keys of the jobs that partition `p` holds. -/
def State.partJobs (s : State) (p : Nat) : List Nat := s.heldJobs.filter fun j => partOf j = p

/-- The clusters of a partition (R505). -/
def State.partClusters (s : State) (p : Nat) : List Nat :=
  (List.range 48).filter fun i => bit ((s.part p).recWords.getD 0 0) i

/-- The partition that owns a cluster (R503). -/
def State.clusterPart (s : State) (cl : Nat) : Option Nat :=
  (List.range 16).find? fun p => bit ((s.part p).recWords.getD 0 0) cl

/-- The key of the held job whose number is `n`. -/
def State.jobNumbered (s : State) (n : Word32) : Option Nat :=
  s.heldJobs.find? fun j => match s.job j with | some b => b.number = n | none => false

/-! ### Images and footprints -/

/-- The instruction streams of an image for this device. -/
def State.streams (s : State) (img : Image) : List StreamImg := img.streams.filter fun t => t.device = s.device

/-- The replay core of core `c` in an image (R536). -/
def replayOf (img : Image) (c : Nat) : Option Nat := (img.replay.find? fun x => x.1 = c).map (·.2)

/-- Cores with their halves (none for a whole core) of an image's footprint here (chapter 16). -/
def State.footprint (s : State) (img : Image) : List (Nat × Option Nat) :=
  (s.streams img).map (fun t => (t.core, t.half)) ++
    (s.streams img).filterMap fun t => (replayOf img t.core).map fun r => (r, none)

/-- Whether two footprints share a core or the same half of one (R512). -/
def overlaps (a b : List (Nat × Option Nat)) : Bool :=
  a.any fun x => b.any fun y => x.1 = y.1 && (x.2 = none || y.2 = none || x.2 = y.2)

/-- The footprint of job `j`. -/
def State.jobFootprint (s : State) (j : Nat) : List (Nat × Option Nat) :=
  match s.job j with
  | none => []
  | some b => match s.jobImage b with
    | none => []
    | some img => s.footprint img

/-- Whether a core lies in the footprint of a held job. -/
def State.coreHeld (s : State) (c : Nat) : Bool := s.heldJobs.any fun j => (s.jobFootprint j).any (·.1 = c)

/-- The stream of job `j`'s image that group `g` of core `c` runs. -/
def State.streamOf (s : State) (j c g : Nat) : Option StreamImg :=
  match s.job j with
  | none => none
  | some b => match s.jobImage b with
    | none => none
    | some img => (s.streams img).find? fun t => t.core = c && t.groups.contains g

end Sys2Proof.Machine
end

