-- ==== Sys2Proof/Machine/Record.lean ====
section
/-!
DEFINITION. What the module writes about itself: trace records (chapter 19), error records (chapter 17)
with their two paths, MSI-X vectors and completions (chapter 14), control tokens (chapter 13).
-/

namespace Sys2Proof

open Sys2Proof.Machine

/-! ### The fields of a command packet's header, with the default tags of older generations (R463, R465) -/

def Cmd.opcode (k : Cmd) : BitVec 16 := BitVec.ofNat 16 (bf k.hdr 127 112)
def Cmd.gen (k : Cmd) : Nat := bf k.hdr 111 110
def Cmd.len (k : Cmd) : Nat := bf k.hdr 109 107
def Cmd.seq (k : Cmd) : Word32 := BitVec.ofNat 32 (bf k.hdr 95 64)
def Cmd.noint (k : Cmd) : Bool := k.gen ≠ 1 && bit k.hdr 98
def Cmd.fence (k : Cmd) : Bool := k.gen ≠ 1 && bit k.hdr 97
def Cmd.layer (k : Cmd) : BitVec 16 := if k.gen = 3 then BitVec.ofNat 16 (bf k.hdr 63 48) else 0xFFFF
def Cmd.operator (k : Cmd) : BitVec 16 := if k.gen = 3 then BitVec.ofNat 16 (bf k.hdr 47 32) else 0xFFFF

/-- Job slot that a packet names; 0xF is none (R465). -/
def Cmd.job (k : Cmd) : Nat := if k.gen = 1 then 0xF else bf k.hdr 102 99

end Sys2Proof

namespace Sys2Proof.Machine

open Sys2Proof

/-! ### Host memory and vectors -/

/-- Host memory with `bytes` written at `addr` (log entry 5). -/
def State.hostWrite (s : State) (addr : Nat) (bytes : List Byte) : State :=
  { s with host := bytes.zipIdx.foldl (fun m x => NMap.set m (addr + x.2) x.1 0) s.host }

/-- `n` bytes of host memory from `addr`. -/
def State.hostRead (s : State) (addr n : Nat) : List Byte := (upFrom addr n).map fun a => NMap.get s.host a 0

/-- The 64-bit words of host memory from `addr`, `n` of them. -/
def State.hostWords (s : State) (addr n : Nat) : List Word64 :=
  (List.range n).map fun i => BitVec.ofNat 64 (fromLe (s.hostRead (addr + 8 * i) 8))

/-- Bytes of a list of words. -/
def wordBytes (l : List Word64) : List Byte := l.flatMap fun w => leBytes 8 w.toNat

/-- MSI-X of function `f`. -/
def State.msixOf (s : State) (f : Nat) : Msix := NMap.get s.msix f Msix.reset
def State.setMsix (s : State) (f : Nat) (m : Msix) : State := { s with msix := NMap.set s.msix f m Msix.reset }

/-- MSI-X vectors of function `f` (R468). -/
def msixVectors (f : Nat) : Nat := if f = 0 then 2048 else 64

/-- MSI-X vector `v` of function `f` signalled (R468): a masked vector becomes pending. -/
def State.signal (s : State) (f v : Nat) : State :=
  let m := s.msixOf f
  if msixVectors f ≤ v || !m.enable then s
  else if m.functionMask || !m.unmasked.contains v then
    if m.waiting.contains v then s else s.setMsix f { m with waiting := m.waiting ++ [v] }
  else { s with msixOut := s.msixOut ++ [(f, v)] }

/-- The MSI-X registers of function `f` as a write leaves them: a pending vector that is masked no more is sent (R468). -/
def State.writeMsix (s : State) (f : Nat) (m : Msix) : State :=
  let due := if m.enable && !m.functionMask then m.waiting.filter m.unmasked.contains else []
  { s.setMsix f { m with waiting := if m.enable then m.waiting.filter fun v => !due.contains v else [] } with
      msixOut := s.msixOut ++ due.map fun v => (f, v) }

/-! ### Trace staging (R591 to R595) -/

/-- A trace record (R591). -/
def traceRec (stamp : Word64) (unit : Word32) (type cls op layer job epoch payload : Nat) : BitVec 256 :=
  BitVec.ofNat 256 (stamp.toNat +
    2 ^ 64 * (unit.toNat * 2 ^ 32 + type * 2 ^ 24 + cls * 2 ^ 22 + op) +
    2 ^ 128 * (layer * 2 ^ 48 + job % 2 ^ 16 * 2 ^ 32 + epoch) + 2 ^ 192 * payload)

/-- Size of a partition's trace region in records (R590: SIZE_M1 in 64 KiB units). -/
def Trace.records (t : Trace) : Nat := (bf t.p1 19 0 + 1) * 2048

/-- Records staged over all writers of the partition. -/
def Trace.stagedCount (t : Trace) : Nat := sumN (t.staged.map fun x => x.2.length)

/-- Whether the writer of die `d` accepts a record of threshold class `c` (R593). -/
def Trace.accepts (t : Trace) (d c : Nat) : Bool :=
  (NMap.get t.staged d []).length < 4096 - 512 * (3 - c) &&
    (!bit t.p1 23 || 16 + t.records / 64 * (3 - c) ≤ t.records - (t.next + t.stagedCount))

/-- The VIRGA record that stands for the drops of class `c` at the writer of die `d` (R594). -/
def virgaRec (stamp : Word64) (unit : Word32) (c : Nat) (v : Nat × Nat × Nat) : BitVec 256 :=
  traceRec stamp unit 0x0C 3 0xFFFF 0xFFFF 0 0 (c * 2 ^ 62 + satN 30 v.1 * 2 ^ 32 + satN 32 (v.2.2 - v.2.1))

/-- Stages one record at the writer of die `d`, and counts it against the post-trigger quota. -/
def Trace.stage (t : Trace) (d : Nat) (r : BitVec 256) : Trace :=
  { t with staged := NMap.set t.staged d (NMap.get t.staged d [] ++ [r]) [], post := t.post.map (· - 1) }

/-- Offers a record of class `c` to the writer of die `d`: staged, with the class's pending VIRGA record
before it, or dropped and counted (R593, R594). After the post-trigger quota no record is accepted. -/
def Trace.offer (t : Trace) (d c tick : Nat) (stamp : Word64) (unit : Word32) (r : BitVec 256) : Trace :=
  if !t.running || t.frozen || !bit t.p1 (28 + c) || t.post = some 0 then t
  else
    let v := NMap.get t.virga (4 * d + c) (0, 0, 0)
    let u := if v.1 = 0 then t
      else { (t.stage d (virgaRec stamp unit c v)) with virga := NMap.set t.virga (4 * d + c) (0, 0, 0) (0, 0, 0), post := t.post }
    if t.accepts d c && u.accepts d c then u.stage d r
    else { t with virga := NMap.set t.virga (4 * d + c) (v.1 + 1, if v.1 = 0 then tick else v.2.1, tick) (0, 0, 0) }

/-- A trigger with cause `k` (R595): the TRIGGER record, then the quota of further records. -/
def Trace.trigger (t : Trace) (d : Nat) (stamp : Word64) (unit : Word32) (k : Nat) : Trace :=
  if !t.running || t.frozen || t.post.isSome then t
  else
    { (t.stage d (traceRec stamp unit 0x0B 3 0xFFFF 0xFFFF 0 0 k)) with post := some (t.records * bf t.p1 27 24 / 16) }

/-- Die whose writer stages a record of a unit: the compute die, or I/O die A (4) for the device. -/
def dieOf (u : Word32) : Nat := if bf u 31 30 < 2 then bf u 19 18 else 4

/-- What a trace record says beside its time. -/
structure TraceArgs where
  part : Nat
  unit : Word32
  type : Nat
  cls : Nat
  op : Nat := 0xFFFF
  layer : Nat := 0xFFFF
  job : Nat := 0
  epoch : Nat := 0
  payload : Nat := 0
  errClass : Nat := 0
  die : Option Nat := none
  stamp : Option Word64 := none

/-- A trace event of a partition: its record is offered, and triggers the region when it is the first that
matches TRIG_CLASS or TRIG_TYPE and the unit filter (R590, R595). -/
def State.trace (s : State) (a : TraceArgs) : State :=
  let t := (s.part a.part).trace
  if !t.running then s
  else
    let d := a.die.getD (dieOf a.unit)
    let st := a.stamp.getD s.stamp
    let r := traceRec st a.unit a.type a.cls a.op a.layer a.job a.epoch a.payload
    let t1 := t.offer d a.cls s.tick st a.unit r
    let unitOk := !bit t.p2 47 || a.unit.toNat = bf t.p2 31 0
    let t2 :=
      if unitOk && bf t.p2 63 56 ≠ 0 && bf t.p2 63 56 = a.errClass then t1.trigger d st a.unit 2
      else if unitOk && bf t.p2 55 48 ≠ 0 && bf t.p2 55 48 = a.type then t1.trigger d st a.unit 3
      else t1
    (s.modPart a.part fun p => { p with trace := t2 }).used 1

/-! ### Error records (R546 to R549) -/

/-- Error classes of R547. -/
def errorClasses : List Nat := upFrom 1 10 ++ upFrom 0x10 3 ++ upFrom 0x18 5 ++ [0x20] ++ upFrom 0x28 4 ++ upFrom 0x30 3 ++ [0x38]

/-- A free value among the values that a field may take (R16), read `i` values after the state. -/
def State.freeOf (s : State) (l : List Nat) (i : Nat) : Nat := l.getD ((s.freeAt 32 i).toNat % l.length) 0

/-- What an error record says, beside what the module fills in. -/
structure ErrArgs where
  unit : Word32
  cls : Nat
  code : Nat := 0
  opcode : BitVec 16 := 0xFFFF
  layer : BitVec 16 := 0xFFFF
  operator : BitVec 16 := 0xFFFF
  job : Word32 := 0
  epoch : Word32 := 0
  part : Nat := 0
  syndrome : Nat := 0
  address : Nat := 0
  sensor : Option Nat := none

/-- Sensor nearest a unit: the die's (12 to 15) for a core or cluster, else that of die 0. -/
def sensorOf (u : Word32) : Nat := if bf u 31 30 < 2 then 12 + bf u 19 18 else 12

/-- The 64 bytes of an error record (R546). -/
def ErrRec.bytes (r : ErrRec) : List Byte :=
  leBytes 8 r.timestamp.toNat ++ leBytes 2 r.opcode.toNat ++ [r.code, r.cls] ++ leBytes 4 r.unit.toNat ++
    leBytes 4 r.job.toNat ++ leBytes 2 r.operator.toNat ++ leBytes 2 r.layer.toNat ++
    leBytes 8 (r.epoch.toNat * 2 ^ 32 + r.temp.toNat * 2 ^ 20 + r.volt.toNat * 2 ^ 4 + r.part.toNat) ++
    leBytes 16 r.syndrome.toNat ++ leBytes 4 r.number.toNat ++ leBytes 4 (satN 32 r.repeat_) ++
    leBytes 8 r.address.toNat

/-- Slots of a ring word (R457). -/
def ringSlots (w : Word64) : Nat := if bf w 4 0 = 0 then 0 else 2 ^ bf w 4 0
/-- Base address of a ring word (R457). -/
def ringBase (w : Word64) : Nat := bf w 63 12 * 4096

/-- A record's way to the host error ring (R454, R455). -/
def State.ringRecord (s : State) (r : ErrRec) : State :=
  let n := ringSlots s.errRing
  if n = 0 || (s.errTail + 1) % n = s.errHead % n then { s with errDropped := satN 16 (s.errDropped + 1) }
  else
    let s := s.hostWrite (ringBase s.errRing + 64 * s.errTail) r.bytes
    { s with errTail := (s.errTail + 1) % n }.signal 0 (bf s.errRoute 20 10)

/-- A record routed (R548): numbered, written to the host error ring when HOST is 1, sent over MCTP when
MGMT is 1, kept among the latest 1,024, and traced. -/
def State.routeRecord (s : State) (r : ErrRec) : State :=
  let r := { r with number := s.errNumber }
  let s := { s with errNumber := s.errNumber + 1, errLog := lastN 1024 (s.errLog ++ [r]) }
  let s := if bit s.errRoute 1 then s.ringRecord r else s
  let s := if bit s.errRoute 0 then { s with mctpOut := s.mctpOut ++ [.interrupt, .record Config.enterprise r] } else s
  s.trace { part := r.part.toNat, unit := r.unit, type := 0x0A, cls := 3, op := r.operator.toNat, layer := r.layer.toNat,
            job := r.job.toNat, epoch := r.epoch.toNat, payload := r.cls.toNat * 2 ^ 56 + r.number.toNat,
            errClass := r.cls.toNat }

/-- Classes that are held for 10,000 ticks and merged (R549). -/
def heldClass (c : Nat) : Bool := c = 0x10 || c = 0x19 || c = 0x20

/-- An error record raised: merged into a held record of the same class, unit and syndrome, held, or
routed at once (R549). TEMP is the sensor's reading and VOLTAGE a live value. -/
def State.raise (s : State) (a : ErrArgs) : State :=
  let reading := (NMap.get s.sensors (a.sensor.getD (sensorOf a.unit)) Sensor.reset).reading
  let r : ErrRec :=
    { timestamp := s.stamp, unit := a.unit, cls := BitVec.ofNat 8 a.cls, code := BitVec.ofNat 8 a.code, opcode := a.opcode,
      layer := a.layer, operator := a.operator, job := a.job, epoch := a.epoch, temp := BitVec.ofInt 12 reading,
      volt := s.freeAt 16 1, part := BitVec.ofNat 4 a.part, syndrome := BitVec.ofNat 128 a.syndrome, repeat_ := 1,
      number := 0, address := BitVec.ofNat 52 a.address }
  let s := s.used 2
  if heldClass a.cls then
    match s.errHold.findIdx? fun x => x.2.cls = r.cls && x.2.unit = r.unit && x.2.syndrome = r.syndrome with
    | some i =>
      { s with errHold := s.errHold.modify i fun x => (x.1, { x.2 with repeat_ := satN 32 (x.2.repeat_ + 1) }) }
    | none => { s with errHold := s.errHold ++ [(s.tick, r)] }
  else s.routeRecord r

/-! ### Control tokens (R409 to R411) -/

/-- Class of a token: U, M, S or E. -/
inductive TokClass where
  | u
  | m
  | sl
  | e
deriving DecidableEq, Repr

/-- Tokens waiting at port `p` for places of their class, in order. -/
def State.sendTokens (s : State) (p : Nat) (c : TokClass) (ts : List Word64) : State :=
  if (s.port p).st ≠ .up then s
  else s.modPort p fun k =>
    match c with
    | .u => { k with tokU := k.tokU ++ ts }
    | .m => { k with tokM := k.tokM ++ ts }
    | .sl => { k with tokS := k.tokS ++ ts }
    | .e => { k with tokE := k.tokE ++ ts }

/-- Ports that are up. -/
def State.upPorts (s : State) : List Nat := (List.range 16).filter fun p => (s.port p).st = .up

/-- Tokens sent on every port of a list. -/
def State.sendAll (s : State) (ps : List Nat) (c : TokClass) (ts : List Word64) : State :=
  ps.foldl (fun s p => s.sendTokens p c ts) s

/-- A token of type `ty` with fields `v` (bits [55:0]). -/
def token (ty v : Nat) : Word64 := BitVec.ofNat 64 (ty * 2 ^ 56 + v)

/-- FAILED for device `d` with CAUSE and AGE (R416). -/
def failedToken (d cause age : Nat) : Word64 := token 0x02 (d * 2 ^ 46 + cause * 2 ^ 38 + satN 16 age * 2 ^ 22)

/-! ### Completions (R463 to R468) -/

/-- Partition that a packet names: its own, or its queue's in generation 1 (R465). -/
def State.cmdPart (s : State) (k : Cmd) : Nat := if k.gen = 1 then (s.queue k.queue).part else bf k.hdr 106 103
/-- A completion's content beside what its command fixes. -/
structure Answer where
  status : Nat
  result : Nat := 0
  count : Nat := 0
  unit : Word32 := 0
  jobNumber : Word32 := 0
  job : Nat := 0xF
  paths : Nat := 0
deriving DecidableEq, Repr

/-- Status codes (R469). -/
def Status.success : Nat := 0x0000
def Status.invalidParameter : Nat := 0x0001
def Status.invalidOpcode : Nat := 0x0002
def Status.notPermitted : Nat := 0x0003
def Status.staleSlot : Nat := 0x0004
def Status.queueState : Nat := 0x0005
def Status.unitUnavailable : Nat := 0x0006
def Status.notHome : Nat := 0x0007
def Status.deviceFailed : Nat := 0x0008
def Status.partitionBusy : Nat := 0x0009
def Status.fabricBusy : Nat := 0x000A
def Status.groupExists : Nat := 0x0010
def Status.groupUndefined : Nat := 0x0011
def Status.groupTableFull : Nat := 0x0012
def Status.groupBusy : Nat := 0x0013
def Status.groupInUse : Nat := 0x0014
def Status.mapExists : Nat := 0x0100
def Status.mapTableFull : Nat := 0x0101
def Status.translationFault : Nat := 0x0102
def Status.mappingWithdrawn : Nat := 0x0103
def Status.remoteRefused : Nat := 0x0104
def Status.tableVersionsFull : Nat := 0x0200
def Status.versionState : Nat := 0x0201
def Status.overlayFull : Nat := 0x0202
def Status.epochRange : Nat := 0x0203
def Status.admissionRefused : Nat := 0x0300
def Status.coreException : Nat := 0x0301
def Status.semaphoreOverflow : Nat := 0x0302
def Status.sliceOverrun : Nat := 0x0303
def Status.jobAborted : Nat := 0x0304
def Status.batchFull : Nat := 0x0305
def Status.lookupFailed : Nat := 0x0306
def Status.imageRefused : Nat := 0x0307
def Status.handleInUse : Nat := 0x0310
def Status.joinQueueFull : Nat := 0x0311
def Status.seqCancelled : Nat := 0x0312
def Status.seqUnknown : Nat := 0x0313
def Status.seqFault : Nat := 0x0314
def Status.fabricMismatch : Nat := 0x0400
def Status.linkDown : Nat := 0x0401
def Status.signatureInvalid : Nat := 0x0500
def Status.notInSet : Nat := 0x0501
def Status.keySlotFull : Nat := 0x0502

/-- A completion entry put at the tail of the completions that its queue holds. -/
def State.pushDone (s : State) (q : Nat) (e : Completion) : State :=
  s.modQueue q fun h => { h with done := h.done ++ [e] }

/-- The completion entry of a command with an answer. -/
def completionOf (k : Cmd) (a : Answer) : Completion :=
  { opcode := k.opcode, seq := k.seq, status := BitVec.ofNat 16 a.status, result := BitVec.ofNat 64 a.result,
    count := BitVec.ofNat 32 a.count, unit := a.unit, jobNumber := a.jobNumber, job := BitVec.ofNat 4 a.job,
    recType := 0, more := false, paths := BitVec.ofNat 5 a.paths, payload := none, noint := k.noint }

/-- A completion of a command whose queue a reset ended: kept for RESYNC, up to 4,096 (R486). -/
def State.holdDone (s : State) (q : Nat) (e : Completion) : State :=
  { s with heldOut := if s.heldOut.length < 4096 then s.heldOut ++ [(q, e)] else s.heldOut }

/-- A command that ends is no longer among those that its queue runs. -/
def HQueue.settle (h : HQueue) (k : Cmd) : HQueue := { h with running := h.running.erase k, took := h.took.filter fun x => x.1 ≠ k }

/-- A command completed (R467): its entry joins the completions of its queue. When a reset has ended its queue, the entry is
held or dropped as that reset does; one of no queue goes nowhere. Traced as COMMAND_END. -/
def State.complete (s : State) (k : Cmd) (a : Answer) : State :=
  let e := completionOf k a
  let s := s.trace { part := s.cmdPart k, unit := devRef s.device, type := 0x02, cls := 2, op := k.operator.toNat,
                     layer := k.layer.toNat, job := a.jobNumber.toNat,
                     payload := k.opcode.toNat * 2 ^ 48 + a.status * 2 ^ 32 + k.seq.toNat }
  let h := s.queue k.queue
  match h.orphans.find? fun x => x.1 = k with
  | some o =>
    let s := s.modQueue k.queue fun h => { h.settle k with orphans := h.orphans.erase o }
    if o.2 then s.holdDone k.queue e else s
  | none =>
    if h.st = .absent then s
    else (s.modQueue k.queue fun h => h.settle k).pushDone k.queue e

end Sys2Proof.Machine
end

