-- ==== Sys2Proof/Machine/Failure.lean ====
section
/-!
DEFINITION. Failure of this device for jobs (R429 to R431) and the loss of an HBM stack (R346, R347).
-/

namespace Sys2Proof.Machine

open Sys2Proof

/-! ### Failure of this device (R429 to R431) -/

/-- The stop of a job at the first commit point at or after a schedule tick, with its status; the earliest
stop stands. -/
def Job.stopFrom (b : Job) (tick status : Nat) : Job :=
  { b with stopAt := match b.stopAt with
      | some (t, st) => if t ≤ tick then some (t, st) else some (tick, status)
      | none => some (tick, status) }

/-- Job `j`'s stop set for a failure whose origin lies at its counter's value `now` (R430). -/
def State.setStop (s : State) (j : Nat) (now : Nat) : State :=
  s.modJob j fun b => b.stopFrom (now + 1024 + s.ceil.diam) Status.deviceFailed

/-- A job's schedule-time counter at an earlier wall tick (R430): the ticks since in which it did not stand still are taken off. -/
def Job.stickAt (b : Job) (origin now : Nat) : Nat :=
  b.stick - (now - origin - sumN (b.stood.map fun x => min (x.1 + x.2) (now + 1) - max x.1 (origin + 1)))

/-- Held jobs of other devices too, of which a device is a member. -/
def State.jobsWith (s : State) (d : Nat) : List Nat :=
  s.heldJobs.filter fun j => match (s.job j).bind s.jobImage with
    | some img => img.devices.contains d && img.devices.any (· ≠ s.device)
    | none => false

/-- The held job of a partition with some number. -/
def State.partJob (s : State) (p : Nat) (n : Word32) : Option (Nat × Job) :=
  (s.partJobs p).findSome? fun j => match s.job j with
    | some b => if b.number = n then some (j, b) else none
    | none => none

/-- What a prepare held given back: a group that was to be installed here is free, one that was to be cleared is defined again (R51),
a job that was to start waits again. -/
def State.giveBack (s : State) (p : McPrep) : State :=
  if !p.reserved then s
  else match p.content with
    | some (.groupInstall n home _ _ _ _) => if home = s.device then s else s.setGroupE n GroupEntry.reset
    | some (.groupClear n) => s.setGroupE n { s.groupE n with st := .defined }
    | some (.resume p n) => match s.partJob p n with
      | some (j, b) => if b.phase = .reserved then s.setJob j (some { b with phase := .waiting }) else s
      | none => s
    | _ => s

/-- Prepared changes that satisfy `q` discarded, none of them applied (R437, R440). -/
def State.discardPreps (s : State) (q : McPrep → Bool) : State :=
  let s := (s.mcPrep.filter q).foldl State.giveBack s
  { s with mcPrep := s.mcPrep.filter fun x => !q x }

/-- Prepared changes of a coordinator discarded (R440). -/
def State.dropChanges (s : State) (coord : Nat) : State := s.discardPreps fun x => x.coord = coord && x.commit.isNone

/-- The module declares itself failed for the listed jobs with a cause: FAILED with AGE 0 on every port, and
the jobs' stops (R429, R430). FAILED names no job, so the other devices stop every job of which this one is a member; it stops with
them (R71, log entry 115), and discards as they do the prepared changes that it coordinates (R440). -/
def State.failFor (s : State) (js : List Nat) (cause : Nat) : State :=
  let s := (s.sendAll s.upPorts .u [failedToken s.device cause 0]).dropChanges s.device
  let s := { s with failedDevs := if s.failedDevs.contains s.device then s.failedDevs else s.failedDevs ++ [s.device] }
  let s := js.foldl (fun (s : State) j => s.modJob j fun b => { b with failed := true }) s
  (js ++ (s.jobsWith s.device).filter fun j => !js.contains j).foldl
    (fun s j => s.setStop j (match s.job j with | some b => b.stick | none => 0)) s

/-- The module declares itself failed for jobs for a reason to which no error class is given: CAUSE is free among the
error classes (R16, R547). -/
def State.failOpen (s : State) (js : List Nat) : State := (s.used 1).failFor js (s.freeOf errorClasses 0)

/-- The module declares itself failed for every job (R62, R372, R447). -/
def State.failAll (s : State) (cause : Nat) : State := { s.failFor s.heldJobs cause with failedAll := true }

/-! ### Loss of a stack (R346, R347) -/

/-- Whether a partition maps a page of stack `n`. -/
def State.mapsStack (s : State) (p n : Nat) : Bool :=
  s.leaves.any fun l => l.part = p && bf l.entry 60 59 = 0 && bf l.entry 51 36 = n

/-- Held jobs that map a page of stack `n`. -/
def State.jobsOnStack (s : State) (n : Nat) : List Nat := s.heldJobs.filter fun j => s.mapsStack (partOf j) n

/-- Stack `n` taken out of service: the record with the pseudo-channel and CAUSE, and the failure of the jobs that map
it. -/
def State.loseStack (s : State) (n pc cause : Nat) : State :=
  if (s.stack n).lost then s
  else
    let js := s.jobsOnStack n
    let s := s.modStack n fun k => { k with lost := true, lostPc := pc }
    let s := s.raise { unit := devRef s.device, cls := 0x12, syndrome := n + pc * 2 ^ 8 + cause * 2 ^ 16, sensor := some n }
    if js.isEmpty then s else s.failFor js 0x12

/-- A row of stack `n` listed for repair, once (R345). Without a spare row in its bank the stack is lost (R346); `spares`
is the bank's count where it is known, else it may be 0 only when the stack's fewest count is, a free choice. -/
def State.listRow (s : State) (n pc row : Nat) (spares : Option Nat) : State :=
  if (s.stack n).repairs.contains row then s
  else
    let s := s.modStack n fun k => { k with repairs := k.repairs ++ [row] }
    match spares with
    | some c => if c = 0 then s.loseStack n pc 1 else s
    | none =>
      if (s.stack n).spares ≠ 0 then s
      else if s.freeAt 1 0 = 1 then (s.used 1).loseStack n pc 1 else s.used 1

end Sys2Proof.Machine
end

