-- ==== Sys2Proof/Machine/Mem.lean ====
section
/-!
DEFINITION. The data-path code and the three coded memories: core store, Deck, HBM (chapter 10), with
what a read corrects, counts and records.
-/

namespace Sys2Proof.Machine

open Sys2Proof

/-! ### GF(2^8) with polynomial 0x11D (R330) -/

/-- Multiplication by α = 0x02. -/
def gfX (a : Byte) : Byte := if bit a 7 then (a <<< 1) ^^^ 0x1D else a <<< 1

/-- Product, by the bits of `b` from the top: `n` bits are left. -/
def gfMulFrom : Nat → Byte → Byte → Byte → Byte
  | 0, _, _, acc => acc
  | n + 1, a, b, acc => gfMulFrom n a b ((gfX acc) ^^^ (if bit b n then a else 0))

/-- Product in GF(2^8). -/
def gfMul (a b : Byte) : Byte := gfMulFrom 8 a b 0

/-- α^k. -/
def gfPow : Nat → Byte
  | 0 => 1
  | k + 1 => gfX (gfPow k)

/-- Remainder of the 33 message symbols times x^3 by g(x) = x^3 + 0x07 x^2 + 0x0E x + 0x08 (R330): the check
bytes c_33, c_34, c_35. -/
def checkBytes (msg : List Byte) : Byte × Byte × Byte :=
  msg.foldl (fun (r : Byte × Byte × Byte) c =>
    let f := r.1 ^^^ c
    (r.2.1 ^^^ gfMul f 0x07, r.2.2 ^^^ gfMul f 0x0E, gfMul f 0x08)) (0, 0, 0)

/-- Syndromes S_0, S_1, S_2 of a sector whose check bytes differ by `d` from valid ones (R332): the
difference polynomial d_33 x^2 + d_34 x + d_35 at 1, α, α^2. -/
def syndromes (d : BitVec 24) : Byte × Byte × Byte :=
  let d0 : Byte := BitVec.ofNat 8 (bf d 23 16)
  let d1 : Byte := BitVec.ofNat 8 (bf d 15 8)
  let d2 : Byte := BitVec.ofNat 8 (bf d 7 0)
  (d0 ^^^ d1 ^^^ d2, gfMul d0 4 ^^^ gfMul d1 2 ^^^ d2, gfMul d0 16 ^^^ gfMul d1 4 ^^^ d2)

/-- What R332 does with a sector. -/
inductive CodeCheck where
  | accept
  /-- Add `v` to byte `i` of the 36. -/
  | correct (i : Nat) (v : Byte)
  | bad
deriving DecidableEq, Repr

/-- The decision of R332 on the syndromes. -/
def codeCheck (d : BitVec 24) : CodeCheck :=
  let (s0, s1, s2) := syndromes d
  if s0 = 0 ∧ s1 = 0 ∧ s2 = 0 then .accept
  else if s0 ≠ 0 ∧ gfMul s1 s1 = gfMul s0 s2 then
    match (List.range 36).find? fun k => gfMul s0 (gfPow k) = s1 with
    | some k => .correct (35 - k) s0
    | none => .bad
  else .bad

/-! ### One memory -/

/-- The three memories that hold codewords. -/
inductive Space where
  | store
  | deck
  | hbm
deriving DecidableEq, Repr

def State.mem (s : State) : Space → Mem
  | .store => s.store
  | .deck => s.deck
  | .hbm => s.hbm

def State.setMem (s : State) (sp : Space) (m : Mem) : State :=
  match sp with
  | .store => { s with store := m }
  | .deck => { s with deck := m }
  | .hbm => { s with hbm := m }

/-- A sector as a unit receives it: its 32 data bytes, its tag byte, whether a byte was corrected, whether
it was uncorrectable. -/
structure Sector where
  data : List Byte
  tag : Byte
  corrected : Bool := false
  bad : Bool := false
deriving DecidableEq, Repr

/-- POISON of a sector received: its tag's, or set for an uncorrectable sector (R333). -/
def Sector.poison (x : Sector) : Bool := bit x.tag 7 || x.bad

/-- The bytes of sector `i` as stored. -/
def Mem.bytesAt (m : Mem) (i : Nat) : List Byte := (upFrom (32 * i) 32).map fun a => NMap.get m.cells a 0

/-- A stored sector as a unit receives it: checked and corrected by R332. -/
def checkSector (data : List Byte) (tag : Byte) (d : BitVec 24) : Sector :=
  match codeCheck d with
  | .accept => { data := data, tag := tag }
  | .bad => { data := data, tag := tag, bad := true }
  | .correct k v =>
    if k < 32 then { data := data.modify k (· ^^^ v), tag := tag, corrected := true }
    else if k = 32 then { data := data, tag := tag ^^^ v, corrected := true }
    else { data := data, tag := tag, corrected := true }

/-- Sector `i` as read. -/
def Mem.sector (m : Mem) (i : Nat) : Sector := checkSector (m.bytesAt i) (NMap.get m.tags i 0) (NMap.get m.chk i 0)

/-- Memory cells with `bytes` stored from address `a`. -/
def putBytes (m : List Host.Cell) (a : Nat) : List Byte → List Host.Cell
  | [] => m
  | b :: t => putBytes (NMap.set m a b 0) (a + 1) t

/-- Sector `i` written as a valid codeword. -/
def Mem.putSector (m : Mem) (i : Nat) (data : List Byte) (tag : Byte) : Mem :=
  { cells := putBytes m.cells (32 * i) data, tags := NMap.set m.tags i tag 0, chk := NMap.set m.chk i 0 0 }

/-- A tag byte (R331). -/
def tagByte (poison prot : Bool) : Byte := BitVec.ofNat 8 (b2n poison * 128 + b2n prot * 64)

/-! ### Reads with their counts and records -/

/-- Stack of a device-physical address (R326). -/
def stackOf (a : Nat) : Nat := a / 2 ^ 36
/-- Pseudo-channel of a device-physical address (R328). -/
def pcOf (a : Nat) : Nat := a % 2 ^ 36 / 512 % 64
/-- Address within the pseudo-channel (R328). -/
def pcAddr (a : Nat) : Nat := a % 2 ^ 36 / 2 ^ 15 * 512 + a % 512
/-- The row of an address: pseudo-channel and 1 KiB of it (log entry 16: the manual gives no row size). -/
def rowOf (a : Nat) : Nat := pcOf a * 2 ^ 20 + pcAddr a / 1024

/-- Counts on a corrected sector of HBM (R332, R336, R345, R349). -/
def State.hbmCorrected (s : State) (a : Nat) (demand : Bool) (spares : Option Nat) : State :=
  let n := stackOf a
  let k := s.stack n
  let hits := NMap.get k.rowHits (rowOf a) 0 + 1
  let cnt := satN 32 (k.corrected + 1)
  let s := s.modStack n fun k =>
    { k with corrected := cnt, rowHits := NMap.set k.rowHits (rowOf a) hits 0,
             corrQ := if demand && k.corrQ.length < 64 then k.corrQ ++ [a / 32] else k.corrQ }
  let s := if hits ≥ 3 then s.listRow n (pcOf a) (rowOf a) spares else s
  let every := bf s.hbmCtl 31 16
  if every ≠ 0 ∧ cnt % every = 0 ∧ k.corrected ≠ cnt then
    s.raise { unit := devRef s.device, cls := 0x10, syndrome := n + cnt * 2 ^ 64, sensor := some n }
  else s

/-- Counts and record of an uncorrectable sector of HBM (R345, R349). -/
def State.hbmBad (s : State) (a : Nat) (spares : Option Nat) : State :=
  let n := stackOf a
  let s := (s.modStack n fun k => { k with uncorrectable := satN 16 (k.uncorrectable + 1) }).raise
    { unit := devRef s.device, cls := 0x11, syndrome := n + pcOf a * 2 ^ 8, address := a / 32 * 32, sensor := some n }
  s.listRow n (pcOf a) (rowOf a) spares

/-- Counter `i` of a set raised by `n`, saturating (R582). -/
def CntSet.add (c : CntSet) (i n : Nat) : CntSet :=
  if n = 0 then c
  else { c with vals := NMap.set c.vals i (BitVec.ofNat 64 (satN 64 ((NMap.get c.vals i 0).toNat + n))) 0 }

/-- Core event `code` counted `n` times, on every counter that selects it (R582). -/
def CntSet.event (c : CntSet) (code n : Nat) : CntSet :=
  (c.sel.filter fun x => x.2.toNat = code).foldl (fun c x => c.add x.1 n) c

/-- Core event counted on core `c`. -/
def State.event (s : State) (c code n : Nat) : State := s.modCore c fun k => { k with cnt := k.cnt.event code n }

/-- Counter numbers of the fixed counters of a core (after C0 to C15). -/
def cntCycles : Nat := 16
def cntSlipCycles : Nat := 17
def cntIssued : Nat := 18
def cntArrayBusy : Nat := 19

/-- The side effects of reading sector `i` of a space (R188, R332, R336, R349). -/
def State.noteRead (s : State) (sp : Space) (i : Nat) (x : Sector) : State :=
  match sp with
  | .store => if x.corrected then (s.setMem .store (s.store.putSector i x.data x.tag)).event (i / 2 ^ 14) 0x0F 1 else s
  | .deck =>
    if x.corrected then s.modCluster (i / 2 ^ 20) fun k => { k with deckCnt := k.deckCnt.add 7 1 } else s
  | .hbm => if x.corrected then s.hbmCorrected (32 * i) true none else if x.bad then s.hbmBad (32 * i) none else s

/-- Whether sector `i` of HBM lies in a lost stack (R347). -/
def State.lostSector (s : State) (sp : Space) (i : Nat) : Bool := sp = .hbm && (s.stack (stackOf (32 * i))).lost

/-- A sector as delivered: the bytes of a poisoned one are undefined (R333, log entry 13). -/
def State.handSector (s : State) (x : Sector) : Sector × State :=
  if x.poison then ({ x with data := leBytes 32 (s.freeAt 256 0).toNat }, s.used 1) else (x, s)

/-- Sector `i` of a space read and delivered. -/
def State.readSector (s : State) (sp : Space) (i : Nat) : Sector × State :=
  if s.lostSector sp i then
    ({ data := leBytes 32 (s.freeAt 256 0).toNat, tag := 0x80 }, s.used 1)
  else
    let x := (s.mem sp).sector i
    (s.noteRead sp i x).handSector x

/-- Dies by number: the compute dies, then IO-A and IO-B (R24). -/
def ioA : Nat := 4
def ioDie (p : Nat) : Nat := ioA + p / 8

/-- A sector crosses from one die to another: whether its code fails at the receiving die, where R332 checks it and counts one that
it corrects (R29). -/
def State.cross (s : State) (a b : Nat) : Bool × State :=
  if a = b then (false, s)
  else match s.crossErr with
  | [] => (false, s)
  | d :: t =>
    let s := { s with crossErr := t }
    match codeCheck d with
    | .accept => (false, s)
    | .bad => (true, s)
    | .correct _ _ => (false, { s with crossFixed := s.crossFixed + 1 })

/-- A sector brought from one die to another as it is delivered there: poisoned when its code fails (R29, R333). -/
def State.carry (s : State) (a b : Nat) (x : Sector) : Sector × State :=
  let (bad, s) := s.cross a b
  if bad then ({ data := leBytes 32 (s.freeAt 256 0).toNat, tag := x.tag ||| 0x80, bad := true }, s.used 1) else (x, s)

/-- What a read answers, carried from die `a` to die `b`. -/
def carried (x : Sector × State) (a b : Nat) : Sector × State := x.2.carry a b x.1

/-- Consecutive sectors, `n` of them from `i`. -/
def State.readSectors (s : State) (sp : Space) : Nat → Nat → List Sector × State
  | _, 0 => ([], s)
  | i, n + 1 =>
    let (x, s) := s.readSector sp i
    let (t, s) := State.readSectors s sp (i + 1) n
    (x :: t, s)

/-- Bytes `a` to `a + n - 1` of a space, and whether a sector of them was poisoned. -/
def State.readBytes (s : State) (sp : Space) (a n : Nat) : List Byte × Bool × State :=
  let k := (a % 32 + n + 31) / 32
  let (xs, s) := s.readSectors sp (a / 32) k
  (((xs.flatMap (·.data)).drop (a % 32)).take n, xs.any (·.poison), s)

/-- Whether a run of an array is in progress. -/
def Arr.reading (a : Arr) : Bool := a.queues.any fun q => q.2.any fun o => match o with
  | .run _ b => b
  | .drain _ _ => false

/-- The version of core-store sector `i` that a write is about to replace, kept while a run of its core is in progress (R651). -/
def State.keepOld (s : State) (sp : Space) (i : Nat) : State :=
  if sp = .store && (s.core (i / 2 ^ 14)).arr.reading then
    let x := s.store.sector i
    { s with storeLog := s.storeLog ++ [(i, x.data, x.poison)] }
  else s

/-- Kept versions forgotten once no run is in progress. -/
def State.trimLog (s : State) : State := if s.cores.any fun k => k.2.arr.reading then s else { s with storeLog := [] }

/-- Sector `i` written whole (R333): the tag is poison's and the page's protected bit. -/
def State.putSector (s : State) (sp : Space) (i : Nat) (data : List Byte) (poison prot : Bool) : State :=
  if s.lostSector sp i then s else (s.keepOld sp i).setMem sp ((s.mem sp).putSector i data (tagByte poison prot))

/-- Bytes stored within one sector from offset `o`: the whole sector, or a merge with the stored sector
after its check (R334); a merge with a poisoned or uncorrectable sector is poisoned (R333, R335). -/
def State.mergeSector (s : State) (sp : Space) (i o : Nat) (bytes : List Byte) (poison prot : Bool) : State :=
  if bytes.length = 32 then s.putSector sp i bytes poison prot
  else if s.lostSector sp i then s
  else
    let x := (s.mem sp).sector i
    let s := s.noteRead sp i x
    s.putSector sp i (x.data.take o ++ bytes ++ x.data.drop (o + bytes.length)) (poison || x.poison) prot

/-- Bytes of one sector stored together, each with its offset: a write of the whole sector when they cover it,
else a merge (R333 to R335). -/
def State.maskSector (s : State) (sp : Space) (i : Nat) (m : NMap Byte) (poison prot : Bool) : State :=
  if m.length = 32 then s.putSector sp i (m.map (·.2)) poison prot
  else if s.lostSector sp i then s
  else
    let x := (s.mem sp).sector i
    let s := s.noteRead sp i x
    s.putSector sp i (m.foldl (fun d b => d.set b.1 b.2) x.data) (poison || x.poison) prot

/-- The sectors of a list, each read once. -/
def State.readEach (s : State) (sp : Space) : List Nat → NMap Sector × State
  | [] => ([], s)
  | i :: t =>
    let (x, s) := s.readSector sp i
    let (m, s) := State.readEach s sp t
    ((i, x) :: m, s)

/-- Bytes stored from address `a`, sector by sector; `n` bounds the sectors. -/
def State.writeFrom (s : State) (sp : Space) (poison prot : Bool) : Nat → Nat → List Byte → State
  | 0, _, _ => s
  | n + 1, a, bytes =>
    match bytes with
    | [] => s
    | _ =>
      let k := 32 - a % 32
      State.writeFrom (s.mergeSector sp (a / 32) (a % 32) (bytes.take k) poison prot) sp poison prot n (a + (bytes.take k).length)
        (bytes.drop k)

/-- Bytes stored from address `a` of a space. -/
def State.writeBytes (s : State) (sp : Space) (a : Nat) (bytes : List Byte) (poison prot : Bool) : State :=
  s.writeFrom sp poison prot (bytes.length / 32 + 2) a bytes

/-- Flat address of offset `o` of core `c`'s store. -/
def storeAddr (c o : Nat) : Nat := c * 2 ^ 19 + o
/-- Deck address of offset `o` of a cluster's slice (R354). -/
def deckAddr (cl o : Nat) : Nat := cl * 2 ^ 25 + o

/-- Core store or Deck bytes `[lo, hi)` cleared: sectors read as zero with valid check bytes (R189). -/
def Mem.clear (m : Mem) (lo hi : Nat) : Mem :=
  { cells := m.cells.filter fun x => decide (x.1 < lo) || decide (hi ≤ x.1),
    tags := m.tags.filter fun x => decide (x.1 < lo / 32) || decide (hi / 32 ≤ x.1),
    chk := m.chk.filter fun x => decide (x.1 < lo / 32) || decide (hi / 32 ≤ x.1) }

/-- A memory's canonical form. -/
def Mem.wf (m : Mem) : Bool := NMap.wf 0 m.cells && NMap.wf 0 m.tags && NMap.wf 0 m.chk

end Sys2Proof.Machine
end

