-- ==== Sys2Proof/Machine/Deck.lean ====
section
/-!
DEFINITION. The Deck cache of a cluster (R287 to R298): regions, sets, tree replacement, next-line fetch,
write-back, and how a cluster's access to HBM goes through it.
-/

namespace Sys2Proof.Machine

open Sys2Proof

/-! ### Regions -/

/-- Word `i` of a cluster's Deck configuration record. -/
def Cluster.deckWord (k : Cluster) (i : Nat) : Word64 := k.deckCfg.getD i 0

/-- Fields of region `r` of a record (R287). -/
def regOn (cfg : List Word64) (r : Nat) : Bool := bit (cfg.getD (2 * r) 0) 63
def regMib (cfg : List Word64) (r : Nat) : Nat := 2 ^ bf (cfg.getD (2 * r) 0) 62 60
def regWays (cfg : List Word64) (r : Nat) : Nat := 2 ^ (bf (cfg.getD (2 * r) 0) 59 58 + 1)
def regNext (cfg : List Word64) (r : Nat) : Bool := bit (cfg.getD (2 * r) 0) 57
def regPrivate (cfg : List Word64) (r : Nat) : Bool := bit (cfg.getD (2 * r) 0) 56
def regBase (cfg : List Word64) (r : Nat) : Nat := bf (cfg.getD (2 * r + 1) 0) 47 24
def regLimit (cfg : List Word64) (r : Nat) : Nat := bf (cfg.getD (2 * r + 1) 0) 23 0
/-- Sets of region `r` (R291). -/
def regSets (cfg : List Word64) (r : Nat) : Nat := regMib cfg r * 8192 / regWays cfg r

/-- MiB of cache regions of a record. -/
def cacheMib (cfg : List Word64) : Nat := sumN ((List.range 4).map fun r => if regOn cfg r then regMib cfg r else 0)

/-- First slice offset that is not scratch: below lie scratch, above cache regions and overlay index. -/
def State.scratchEnd (s : State) (cl : Nat) : Nat := 2 ^ 25 - (s.overlayMib + cacheMib (s.cluster cl).deckCfg) * 2 ^ 20

/-- The region that caches a device-physical address (R290). -/
def regionOf (cfg : List Word64) (a : Nat) : Option Nat :=
  (List.range 4).find? fun r => regOn cfg r && decide (regBase cfg r ≤ a / 65536) && decide (a / 65536 < regLimit cfg r)

/-! ### Lines -/

/-- Sector `k` of a line as read from the slice (R332). -/
def Line.sector (l : Line) (k : Nat) : Sector :=
  checkSector (leBytes 32 (bf l.data (256 * k + 255) (256 * k))) (l.tags.getD k 0) (l.chk.getD k 0)

/-- A line with sector `k` replaced by a valid codeword. -/
def Line.setSector (l : Line) (k : Nat) (data : List Byte) (tag : Byte) : Line :=
  { l with data := setBf l.data (256 * k + 255) (256 * k) (fromLe data), tags := listSet l.tags k tag, chk := listSet l.chk k 0 }

/-- Key of a set's tree bits. -/
def treeKey (r set : Nat) : Nat := r * 2 ^ 20 + set

/-- Lines of a set of a region. -/
def Cluster.setLines (k : Cluster) (r set : Nat) : List Line :=
  k.lines.filter fun l => l.region = r && l.addr % regSets k.deckCfg r = set

/-- The way that the tree bits name (R295), at most `n` levels from `node`. -/
def treeVictim (bits : BitVec 16) (ways : Nat) : Nat → Nat → Nat
  | 0, node => node - ways
  | n + 1, node => if node < ways then treeVictim bits ways n (2 * node + b2n (bit bits node)) else node - ways

/-- The way that a fill uses (R295): the lowest invalid way, else the tree's. -/
def Cluster.victim (k : Cluster) (r set : Nat) : Nat :=
  let ls := k.setLines r set
  let ways := regWays k.deckCfg r
  match (List.range ways).find? fun w => !(ls.any (·.way = w)) with
  | some w => w
  | none => treeVictim (NMap.get k.tree (treeKey r set) 0) ways 5 1

/-- Tree bits after a touch of leaf `node` (R295). -/
def treeTouch (bits : BitVec 16) : Nat → Nat → BitVec 16
  | 0, _ => bits
  | n + 1, node =>
    if node > 1 then treeTouch (setBf bits (node / 2) (node / 2) (b2n (node % 2 = 0))) n (node / 2) else bits

/-- A way touched by a demand access (R295). -/
def Cluster.touch (k : Cluster) (r set way : Nat) : Cluster :=
  let bits := treeTouch (NMap.get k.tree (treeKey r set) 0) 5 (way + regWays k.deckCfg r)
  { k with tree := NMap.set k.tree (treeKey r set) bits 0 }

/-- The line of an address with a tag (R292), in region `r`. -/
def Cluster.findLine (k : Cluster) (r la : Nat) (tag : Option (Nat × Byte)) : Option Line :=
  k.lines.find? fun l => l.region = r && l.addr = la && l.table = tag

/-- Counters of a Deck slice, by number. -/
def dcHits : Nat := 0
def dcMisses : Nat := 1
def dcNext : Nat := 2
def dcWriteBacks : Nat := 3
def dcEvictions : Nat := 4
def dcZero : Nat := 5
def dcScratch : Nat := 6

/-- A slice counter raised. -/
def State.deckCount (s : State) (cl i n : Nat) : State := s.modCluster cl fun k => { k with deckCnt := k.deckCnt.add i n }

/-- What reading a line's sector from a slice counts (R332): a corrected one. -/
def State.noteLine (s : State) (cl : Nat) (x : Sector) : State := if x.corrected then s.deckCount cl 7 1 else s

/-- A line's sector read and delivered. -/
def State.lineSector (s : State) (cl : Nat) (l : Line) (k : Nat) : Sector × State := (s.noteLine cl (l.sector k)).handSector (l.sector k)

/-- A dirty line's sectors written to HBM (R29, R294). -/
def State.writeBack (s : State) (cl : Nat) (l : Line) : State :=
  if !l.dirty then s
  else
    let s := (List.range 4).foldl (fun s k =>
      let x := l.sector k
      let (bad, s) := (s.noteLine cl x).cross (cl / 12) (stackOf (128 * l.addr) / 3)
      s.putSector .hbm (4 * l.addr + k) x.data (x.poison || bad) (bit x.tag 6)) s
    s.deckCount cl dcWriteBacks 1

/-- Lines that satisfy `p` removed from a cluster's cache, dirty ones written back first; a set whose lines
go keeps its other ways. -/
def State.dropLines (s : State) (cl : Nat) (p : Line → Bool) : State :=
  let s := ((s.cluster cl).lines.filter p).foldl (fun s l => s.writeBack cl l) s
  s.modCluster cl fun k => { k with lines := k.lines.filter fun l => !p l }

/-- Lines that satisfy `p` written back and kept clean (R294). -/
def State.cleanLines (s : State) (cl : Nat) (p : Line → Bool) : State :=
  let s := ((s.cluster cl).lines.filter p).foldl (fun s l => s.writeBack cl l) s
  s.modCluster cl fun k => { k with lines := k.lines.map fun l => if p l then { l with dirty := false } else l }

/-- A line put into its set, its victim evicted. -/
def State.insertLine (s : State) (cl : Nat) (l : Line) : State :=
  let k := s.cluster cl
  let set := l.addr % regSets k.deckCfg l.region
  let w := k.victim l.region set
  let old (x : Line) : Bool := x.region = l.region && x.addr % regSets k.deckCfg l.region = set && x.way = w
  let s := if k.lines.any old then (s.dropLines cl old).deckCount cl dcEvictions 1 else s
  s.modCluster cl fun k => { k with lines := k.lines ++ [{ l with way := w }] }

/-- Sectors of HBM brought to a cluster's die, `n` of them from `i` (R29). -/
def State.bringSectors (s : State) (cl : Nat) : Nat → Nat → List Sector × State
  | _, 0 => ([], s)
  | i, n + 1 =>
    let (x, s) := carried (s.readSector .hbm i) (stackOf (32 * i) / 3) (cl / 12)
    let (t, s) := State.bringSectors s cl (i + 1) n
    (x :: t, s)

/-- A line fetched from HBM by a cluster, and whether a sector of it arrived uncorrectable. -/
def State.fetchLine (s : State) (cl r la : Nat) (tag : Option (Nat × Byte)) : Line × Bool × State :=
  let (xs, s) := s.bringSectors cl (4 * la) 4
  ({ region := r, way := 0, addr := la, table := tag, dirty := false,
     data := BitVec.ofNat 1024 (fromLe (xs.flatMap (·.data))), tags := xs.map fun x => tagByte x.poison (bit x.tag 6),
     chk := List.replicate 4 0 },
   xs.any (·.bad), s)

/-- The following line fetched on a demand miss (R296). -/
def State.nextLine (s : State) (cl r la : Nat) (tag : Option (Nat × Byte)) : State :=
  let k := s.cluster cl
  if !regNext k.deckCfg r || (la + 1) / 512 ≠ la / 512 || regionOf k.deckCfg (128 * (la + 1)) ≠ some r ||
      (k.findLine r (la + 1) tag).isSome then s
  else
    let (l, bad, s) := s.fetchLine cl r (la + 1) tag
    if bad then s else (s.insertLine cl l).deckCount cl dcNext 1

/-- A demand access to a line of region `r`: found, or fetched with the next line; touched; counted. -/
def State.demandLine (s : State) (cl r la : Nat) (tag : Option (Nat × Byte)) : Line × State :=
  let k := s.cluster cl
  match k.findLine r la tag with
  | some l => (l, (s.modCluster cl fun k => k.touch r (la % regSets k.deckCfg r) l.way).deckCount cl dcHits 1)
  | none =>
    let (l, _, s) := (s.deckCount cl dcMisses 1).fetchLine cl r la tag
    let w := (s.cluster cl).victim r (la % regSets k.deckCfg r)
    let s := s.insertLine cl l
    let s := s.modCluster cl fun k => k.touch r (la % regSets k.deckCfg r) w
    ({ l with way := w }, s.nextLine cl r la tag)

/-- The region through which a cluster reaches an HBM address; none for a lost stack, whose sectors are poison (R290, R347). -/
def State.regionAt (s : State) (cl a : Nat) : Option Nat :=
  if s.lostSector .hbm (a / 32) then none else regionOf (s.cluster cl).deckCfg a

/-- A cluster's read of HBM sector `i` (R290, R292), tagged for a table row or plain. -/
def State.clRead (s : State) (cl : Nat) (tag : Option (Nat × Byte)) (i : Nat) : Sector × State :=
  match s.regionAt cl (32 * i) with
  | none => carried (s.readSector .hbm i) (stackOf (32 * i) / 3) (cl / 12)
  | some r =>
    let (l, s) := s.demandLine cl r (i / 4) tag
    s.lineSector cl l (i % 4)

/-- A cached line changed in place. -/
def State.modLine (s : State) (cl : Nat) (l : Line) (f : Line → Line) : State :=
  s.modCluster cl fun k =>
    { k with lines := k.lines.map fun x => if x.region = l.region && x.addr = l.addr && x.table = l.table then f x else x }

/-- A cluster's store of bytes, each with its offset, to HBM sector `i` (R29, R293, R294). -/
def State.clMask (s : State) (cl i : Nat) (m : NMap Byte) (poison prot : Bool) : State :=
  let send (s : State) : State :=
    let (bad, s) := s.cross (cl / 12) (stackOf (32 * i) / 3)
    s.maskSector .hbm i m (poison || bad) prot
  match s.regionAt cl (32 * i) with
  | none => send s
  | some r =>
    if regPrivate (s.cluster cl).deckCfg r then
      let (l, s) := s.demandLine cl r (i / 4) none
      let x := l.sector (i % 4)
      let data := m.foldl (fun d b => d.set b.1 b.2) x.data
      (s.noteLine cl x).modLine cl l fun y =>
        { y.setSector (i % 4) data (tagByte (poison || (decide (m.length < 32) && x.poison)) prot) with dirty := true }
    else
      (send s).modCluster cl fun k => { k with lines := k.lines.filter fun l => !(l.addr = i / 4) }

/-- Bytes placed one after another from offset `o` of a sector. -/
def placed (o : Nat) (bytes : List Byte) : NMap Byte := bytes.zipIdx.map fun b => (o + b.2, b.1)

/-- A cluster's store of consecutive bytes from offset `o` of HBM sector `i`. -/
def State.clWrite (s : State) (cl i o : Nat) (bytes : List Byte) (poison prot : Bool) : State :=
  s.clMask cl i (placed o bytes) poison prot

/-- Zero-a-line on HBM line `la` by a cluster (R298). -/
def State.zeroLine (s : State) (cl la : Nat) (prot : Bool) : State :=
  let s := s.deckCount cl dcZero 1
  let zeros := List.replicate 32 (0 : Byte)
  let put (s : State) : State := (List.range 4).foldl (fun s k => s.putSector .hbm (4 * la + k) zeros false prot) s
  match s.regionAt cl (128 * la) with
  | none => put s
  | some r =>
    if regPrivate (s.cluster cl).deckCfg r then
      let z : Line := { region := r, way := 0, addr := la, table := none, dirty := true, data := 0,
                        tags := List.replicate 4 (tagByte false prot), chk := List.replicate 4 0 }
      match (s.cluster cl).findLine r la none with
      | some l =>
        let s := s.modLine cl l fun y => { z with way := y.way }
        s.modCluster cl fun k => k.touch r (la % regSets k.deckCfg r) l.way
      | none =>
        let w := (s.cluster cl).victim r (la % regSets (s.cluster cl).deckCfg r)
        let s := s.insertLine cl z
        s.modCluster cl fun k => k.touch r (la % regSets k.deckCfg r) w
    else
      (put s).modCluster cl fun k => { k with lines := k.lines.filter fun l => !(l.addr = la) }

/-- Lines of read-only regions that hold an HBM sector invalidated in every cluster (R453). -/
def State.dropReadOnly (s : State) (i : Nat) : State :=
  (List.range 48).foldl (fun s cl =>
    s.modCluster cl fun k =>
      { k with lines := k.lines.filter fun l => !(l.addr = i / 4 && !regPrivate k.deckCfg l.region) }) s

end Sys2Proof.Machine
end

