-- ==== Sys2Proof/Machine/Translate.lean ====
section
/-!
DEFINITION. Address translation (chapter 11): leaves, targets, translation caches, whole ranges, and
reads and writes through a translated target.
-/

namespace Sys2Proof.Machine

open Sys2Proof

/-! ### Leaves and targets -/

/-- Bytes of a leaf's page (R351). -/
def Leaf.size (l : Leaf) : Nat := if l.big then 2 ^ 28 else 2 ^ 16
/-- Whether a leaf maps a virtual address. -/
def Leaf.covers (l : Leaf) (va : Nat) : Bool := decide (l.va ≤ va) && decide (va < l.va + l.size)
/-- WRITE, PROTECTED and KIND of a leaf's entry (R353). -/
def Leaf.writable (l : Leaf) : Bool := bit l.entry 62
def Leaf.prot (l : Leaf) : Bool := bit l.entry 61
def Leaf.kind (l : Leaf) : Nat := bf l.entry 60 59
/-- PART of a leaf's entry. -/
def Leaf.owner (l : Leaf) : Nat := bf l.entry 57 54

/-- Target of a virtual address under a leaf (R354). -/
def Leaf.target (l : Leaf) (va : Nat) : Target :=
  let a := bf l.entry 51 16 * 2 ^ 16 + (va - l.va)
  match l.kind with
  | 0 => .hbm a
  | 1 => .deck a
  | 2 => .host a
  | _ => .remote (a / 2 ^ 42) (a / 2 ^ 34 % 2 ^ 8) (a % 2 ^ 34)

/-- Whether a leaf overlaps a virtual range. -/
def Leaf.meets (l : Leaf) (va len : Nat) : Bool := decide (l.va < va + len) && decide (va < l.va + l.size)

/-- The valid leaf of a partition that maps a virtual address in the device copy (R350, R351). -/
def State.leafAt (s : State) (part va : Nat) : Option Leaf := s.leaves.find? fun l => l.part = part && l.covers va

/-! ### Translation caches (R359) -/

/-- Key of an engine's cache. -/
def Engine.key : Engine → Nat
  | .core c => c
  | .dma cl => 1000 + cl
  | .emb cl => 2000 + cl
  | .place io => 3000 + io

/-- A cached leaf for an address. -/
def State.tlbFind (s : State) (key part va : Nat) : Option Leaf :=
  ((NMap.get s.tlbs key []).find? fun e => e.leaf.part = part && e.leaf.covers va).map (·.leaf)

/-- A leaf made the most recently used of a cache of 256 entries: the least recently used one goes. -/
def State.tlbUse (s : State) (key : Nat) (l : Leaf) : State :=
  { s with tlbs := NMap.modify s.tlbs key [] fun es => ({ leaf := l } :: es.filter fun e => e.leaf ≠ l).take 256 }

/-- Leaves that overlap a range of a partition dropped from a cache (R369). -/
def State.tlbDrop (s : State) (key part va len : Nat) : State :=
  { s with tlbs := NMap.modify s.tlbs key [] fun es =>
      es.filter fun e => !(e.leaf.part = part && decide (e.leaf.va < va + len) && decide (va < e.leaf.va + e.leaf.size)) }

/-! ### Whole ranges (R363, R364, R245) -/

/-- Why a page is refused: CAUSE of a TRANSLATION record (R547). -/
inductive Refuse where
  | unmapped
  | otherPart
  | notWritable
deriving DecidableEq, Repr

def Refuse.cause : Refuse → Nat
  | .unmapped => 1
  | .otherPart => 2
  | .notWritable => 3

/-- The leaves of a range in ascending order, or the first refused page; `n` bounds the pages. -/
def State.rangeFrom (s : State) (part : Nat) (write : Bool) : Nat → Nat → Nat → Except (Refuse × Nat) (List Leaf)
  | 0, _, _ => .ok []
  | n + 1, va, last =>
    if last ≤ va then .ok []
    else if 2 ^ 52 ≤ va then .error (.unmapped, va / 2 ^ 16 * 2 ^ 16)
    else match s.leafAt part va with
    | none => .error (.unmapped, va / 2 ^ 16 * 2 ^ 16)
    | some l =>
      if l.owner ≠ part then .error (.otherPart, l.va)
      else if write && !l.writable then .error (.notWritable, l.va)
      else match State.rangeFrom s part write n (l.va + l.size) last with
      | .ok t => .ok (l :: t)
      | .error e => .error e

/-- The leaves that translate `len` bytes from `va`. -/
def State.translate (s : State) (part va len : Nat) (write : Bool) : Except (Refuse × Nat) (List Leaf) :=
  s.rangeFrom part write (len / 2 ^ 16 + 2) va (va + len)

/-- The state as an access sees it that translates under some leaves first: those that its engine's cache holds, or those under which
a transfer began (R359, R370). -/
def State.under (s : State) (ls : List Leaf) : State := { s with leaves := ls ++ s.leaves }

/-- The leaves of an engine's cache. -/
def State.cached (s : State) (e : Engine) : List Leaf := (NMap.get s.tlbs (Engine.key e) []).map (·.leaf)

/-- A range translated by an engine: by its cache, and by walks of the device copy for what the cache does not hold (R359, R360). -/
def State.translateBy (s : State) (e : Engine) (part va len : Nat) (write : Bool) : Except (Refuse × Nat) (List Leaf) :=
  (s.under (s.cached e)).translate part va len write

/-- The leaves of an engine's translations made the most recently used of its cache. -/
def State.keepLeaves (s : State) (e : Engine) (ls : List Leaf) : State := ls.foldl (fun s l => s.tlbUse (Engine.key e) l) s

/-- Whether an engine's cache alone translates a range: no walk is needed. -/
def State.allCached (s : State) (e : Engine) (part va len : Nat) : Bool :=
  (State.translate { s with leaves := s.cached e } part va len false).toOption.isSome

/-- Whether an engine runs on its cluster's clocks. -/
def Engine.inCluster : Engine → Bool
  | .place _ => false
  | _ => true

/-- Whether the cluster sequencer that serves an engine's misses has stopped (R20). -/
def State.walkStopped (s : State) : Engine → Bool
  | .core c => (s.cluster (c / 8)).seqStopped
  | .dma cl => (s.cluster cl).seqStopped
  | .emb cl => (s.cluster cl).seqStopped
  | .place _ => false

/-- Engine reference of a TRANSLATION record (R644). -/
def engineRef (unit : Word32) (kind extra : Nat) : Nat := unit.toNat + kind * 2 ^ 32 + extra

/-- The TRANSLATION record of a refused range: engine, cause, side (0 source, 1 destination) (R547). -/
def State.raiseTranslation (s : State) (a : ErrArgs) (engine : Nat) (e : Refuse × Nat) (side : Nat) : State :=
  s.raise { a with cls := 0x07, syndrome := engine + e.1.cause * 2 ^ 64 + side * 2 ^ 68, address := e.2 }

/-! ### Reads and writes through a target -/

/-- Cluster of a Deck address. -/
def deckCluster (a : Nat) : Nat := a / 2 ^ 25

/-- The die that holds a target's memory: a compute die, or IO-A (4), through which the module reaches the host. -/
def Target.die : Target → Nat
  | .hbm a => stackOf a / 3
  | .deck a => deckCluster a / 12
  | _ => 4

/-- The die of a cluster; what is no cluster's access comes through IO-A. -/
def dieOfCluster (cl : Option Nat) : Nat := match cl with
  | some cl => cl / 12
  | none => ioA

/-- One sector read at a local target by a cluster, through its cache for HBM (none: not a cluster's access);
host memory is never poisoned; a remote target gives nothing here. -/
def State.readAt (s : State) (cl : Option Nat) (t : Target) : Sector × State :=
  match t with
  | .hbm a => match cl with
    | some cl => s.clRead cl none (a / 32)
    | none => carried (s.readSector .hbm (a / 32)) t.die ioA
  | .deck a => carried ((s.readSector .deck (a / 32)).map id fun s => s.deckCount (deckCluster a) dcScratch 1) t.die (dieOfCluster cl)
  | .host a => carried ({ data := s.hostRead (a / 32 * 32) 32, tag := 0 }, s) ioA (dieOfCluster cl)
  | .remote _ _ _ => ({ data := List.replicate 32 0, tag := 0x80 }, s)

/-- Bytes within one sector stored at a local target by a cluster. -/
def State.writeAt (s : State) (cl : Option Nat) (t : Target) (bytes : List Byte) (poison prot : Bool) : State :=
  let far (s : State) : Bool × State := s.cross (dieOfCluster cl) t.die
  match t with
  | .hbm a => match cl with
    | some cl => s.clWrite cl (a / 32) (a % 32) bytes poison prot
    | none => (far s).2.mergeSector .hbm (a / 32) (a % 32) bytes (poison || (far s).1) prot
  | .deck a => ((far s).2.mergeSector .deck (a / 32) (a % 32) bytes (poison || (far s).1) prot).deckCount (deckCluster a) dcScratch 1
  | .host a => (far s).2.hostWrite a bytes
  | .remote _ _ _ => s

/-- The sector that holds a target's byte, and the byte's offset in it. -/
def Target.sector : Target → Target
  | .hbm a => .hbm (a / 32 * 32)
  | .deck a => .deck (a / 32 * 32)
  | .host a => .host (a / 32 * 32)
  | .remote d w o => .remote d w (o / 32 * 32)
def Target.inSector : Target → Nat
  | .hbm a => a % 32
  | .deck a => a % 32
  | .host a => a % 32
  | .remote _ _ o => o % 32
def Target.isHost : Target → Bool
  | .host _ => true
  | _ => false
def Target.isRemote : Target → Bool
  | .remote _ _ _ => true
  | _ => false

/-- Bytes, each with its offset, stored in the sector at a local target by a cluster. -/
def State.maskAt (s : State) (cl : Nat) (t : Target) (m : NMap Byte) (poison prot : Bool) : State :=
  let far (s : State) : Bool × State := s.cross (cl / 12) t.die
  match t with
  | .hbm a => s.clMask cl (a / 32) m poison prot
  | .deck a => ((far s).2.maskSector .deck (a / 32) m (poison || (far s).1) prot).deckCount (deckCluster a) dcScratch 1
  | .host a => m.foldl (fun s b => s.hostWrite (a / 32 * 32 + b.1) [b.2]) (far s).2
  | .remote _ _ _ => s

/-- Sectors of a virtual range of a partition, 32-byte aligned, `n` of them. -/
def State.readVa (s : State) (cl : Option Nat) (part : Nat) : Nat → Nat → List Sector × State
  | _, 0 => ([], s)
  | va, n + 1 =>
    let (x, s) := match s.leafAt part va with
      | some l => s.readAt cl (l.target va)
      | none => ({ data := List.replicate 32 0, tag := 0x80 }, s)
    let (t, s) := State.readVa s cl part (va + 32) n
    (x :: t, s)

/-- Sectors stored from a virtual address of a partition, each with its poison. -/
def State.writeVa (s : State) (cl : Option Nat) (part : Nat) : Nat → List (List Byte × Bool) → State
  | _, [] => s
  | va, (b, p) :: t =>
    let s := match s.leafAt part va with
      | some l => s.writeAt cl (l.target va) b p l.prot
      | none => s
    State.writeVa s cl part (va + 32) t

/-- Bytes of sectors. -/
def sectorBytes (xs : List Sector) : List Byte := xs.flatMap (·.data)

/-- Bytes cut into sectors of 32. -/
def toSectors : Nat → List Byte → List (List Byte)
  | 0, _ => []
  | n + 1, l => l.take 32 :: toSectors n (l.drop 32)

end Sys2Proof.Machine
end

