-- ==== Sys2Proof/Machine/Ops.lean ====
section
/-!
DEFINITION. Shared operations on jobs: semaphores and their queues, pins, the end of a task, suspect steps,
device failure, and THE EXCEPTION OF A GROUP (R203, R204) as one operation.
-/

namespace Sys2Proof.Machine

open Sys2Proof

/-! ### Semaphores (R417, R418) -/

/-- Group `g` of core `c` left by its park: it runs on, past the instruction when `past` is set. -/
def Grp.wake (k : Grp) (past : Bool) : Grp := { k with run := .running, pc := if past then k.pc + 1 else k.pc }

/-- Whether a group is parked for a reason that satisfies `p`. -/
def Grp.parkedFor (k : Grp) (p : Park → Bool) : Bool :=
  match k.run with
  | .parked r => p r
  | _ => false

/-- Semaphore `n`'s queue served from its head while the head's count fits (R418); `m` bounds the waits. -/
def State.serveSemN (s : State) (cl n : Nat) : Nat → State
  | 0 => s
  | m + 1 =>
    let k := s.cluster cl
    match NMap.get k.semQ n [] with
    | [] => s
    | w :: t =>
      let cnt := (NMap.get k.sem n 0).toNat
      if cnt < w.count then s
      else
        let s := s.setCluster cl { k with sem := NMap.set k.sem n (BitVec.ofNat 32 (cnt - w.count)) 0, semQ := NMap.set k.semQ n t [] }
        (s.modGrp w.core w.group fun x => x.wake true).serveSemN cl n m

/-- A semaphore's queue served (R418). -/
def State.serveSem (s : State) (cl n : Nat) : State := s.serveSemN cl n (NMap.get (s.cluster cl).semQ n []).length

/-- A semaphore's count replaced, and its queue served. -/
def State.setSem (s : State) (cl n : Nat) (v : Word32) : State :=
  (s.modCluster cl fun k => { k with sem := NMap.set k.sem n v 0 }).serveSem cl n

/-- Wait entries of groups that satisfy `p` removed from every queue, each changed queue served again (R654). -/
def State.dropWaits (s : State) (p : Nat → Nat → Bool) : State :=
  (s.clusters.map (·.1)).foldl (fun s cl =>
    ((s.cluster cl).semQ.map (·.1)).foldl (fun s n =>
      let q := NMap.get (s.cluster cl).semQ n []
      let q' := q.filter fun w => !p w.core w.group
      if q' = q then s
      else (s.modCluster cl fun k => { k with semQ := NMap.set k.semQ n q' [] }).serveSem cl n) s) s

/-! ### Pins (R274) -/

/-- Pins added (`up`) or taken away on the slots that a pin list names (R274). -/
def State.pinSlots (s : State) (up : Bool) (ps : List Pin) : State :=
  ps.foldl (fun s p => s.modTable p.table fun t =>
    t.modSlot p.slot fun v => { v with pins := if up then v.pins + 1 else v.pins - 1 }) s

/-! ### Groups of a job -/

/-- The (core, group) pairs bound to job `j`. -/
def State.jobGroups (s : State) (j : Nat) : List (Nat × Nat) :=
  s.cores.flatMap fun k => (k.2.groups.filter fun x => x.2.job = some j).map fun x => (k.1, x.1)

/-- Whether a run or drain belongs to a job. -/
def ArrOp.job : ArrOp → Nat
  | .run r _ => r.job
  | .drain d _ => d.job
def ArrOp.group : ArrOp → Nat
  | .run r _ => r.group
  | .drain d _ => d.group
def ArrOp.id : ArrOp → Nat
  | .run r _ => r.id
  | .drain d _ => d.id

/-- Whether a source is a program's lookup of job `j`. -/
def LookupSource.ofJob (j : Nat) : LookupSource → Bool
  | .prog k _ _ _ => k = j
  | .host _ => false

/-- Every group of a core replaced. -/
def Core.mapGroups (k : Core) (f : Nat → Grp → Grp) : Core := { k with groups := mapCanon k.groups Grp.reset f }

/-- Every core replaced. -/
def State.mapCores (s : State) (f : Nat → Core → Core) : State := { s with cores := mapCanon s.cores Core.reset f }

/-- Every cluster replaced. -/
def State.mapClusters (s : State) (f : Nat → Cluster → Cluster) : State :=
  { s with clusters := mapCanon s.clusters Cluster.reset f }

/-- Every port replaced. -/
def State.mapPorts (s : State) (f : Nat → Port → Port) : State := { s with ports := mapCanon s.ports Port.reset f }

/-- Every group parked for a reason that satisfies `p`, on a core that satisfies `on`, ready again (R184). -/
def State.unpark (s : State) (on : Nat → Bool) (p : Park → Bool) : State :=
  s.mapCores fun c k => if on c then k.mapGroups fun _ x => if x.parkedFor p then x.wake false else x else k

/-- Reasons that a freed entry ends. -/
def Park.isArray : Park → Bool
  | .arrayFull => true
  | _ => false
def Park.isDma (cl q : Nat) : Park → Bool
  | .dmaFull c p => c = cl && p = q
  | _ => false
def Park.isEngine (cl : Nat) : Park → Bool
  | .engineFull c => c = cl
  | _ => false

/-- Whether what a park waits for has come about on core `c` since state `old`: a queue has lost an entry, or a pending mx.split is
gone (R164, R184, R227, R662). -/
def State.freedSince (s old : State) (c : Nat) : Park → Bool
  | .arrayFull => (old.core c).arr.queues.any fun q => decide ((NMap.get (s.core c).arr.queues q.1 []).length < q.2.length)
  | .splitPending => (old.core c).arr.pendSplit.isSome && (s.core c).arr.pendSplit.isNone
  | .dmaFull cl q => decide ((NMap.get (s.cluster cl).dma q []).length < (NMap.get (old.cluster cl).dma q []).length)
  | .engineFull cl =>
    decide ((s.cluster cl).lookups.length + (s.cluster cl).lookWait.length < (old.cluster cl).lookups.length + (old.cluster cl).lookWait.length)
  | _ => false

/-- Groups parked for what has come about since state `old`, ready again. -/
def State.unparkFreed (s old : State) : State :=
  s.mapCores fun c k => k.mapGroups fun _ x => if x.parkedFor (s.freedSince old c) then x.wake false else x

/-- A group after its job's end: bound to no job, nothing outstanding; its registers and its exception stay. -/
def Grp.release (k : Grp) : Grp := { k with job := none, run := .idle, slots := [], posts := [], unmapped := [], committed := false }

/-- Array work of job `j` discarded on a core, and a split that one of its groups has pending (R522). -/
def Arr.discard (a : Arr) (j : Nat) (groups : List Nat) : Arr :=
  { a with queues := mapCanon a.queues [] fun _ q => q.filter fun o => o.job ≠ j,
           pendSplit := match a.pendSplit with
             | some p => if groups.contains p.group then none else some p
             | none => none }

/-- Lookups and descriptors of job `j` discarded in a cluster (R522). -/
def Cluster.discard (k : Cluster) (j : Nat) : Cluster :=
  { k with lookups := k.lookups.filter fun l => !l.source.ofJob j,
           lookWait := k.lookWait.filter fun l => !l.source.ofJob j,
           dma := mapCanon k.dma [] fun _ ds => ds.filter fun d => d.job ≠ j }

/-- Groups and array work of job `j` released on a core. -/
def Core.discard (k : Core) (j : Nat) (groups : List Nat) : Core :=
  { k with arr := k.arr.discard j groups }.mapGroups fun _ x => if x.job = some j then x.release else x

/-- The units of job `j` stopped here: its groups released, its queued array work, descriptors and lookups
discarded, its wait entries removed (R522 steps 1 and 2, R654). Groups that wait for what this frees are ready. -/
def State.stopUnits (s : State) (j : Nat) : State :=
  let gs := s.jobGroups j
  let pins := s.clusters.flatMap fun x => (x.2.lookups.filter fun l => l.source.ofJob j).flatMap (·.pins)
  let s1 := s.mapCores fun c k => k.discard j ((gs.filter fun x => x.1 = c).map (·.2))
  let s2 := (s1.pinSlots false pins).mapClusters fun _ k => k.discard j
  let s3 := s2.dropWaits fun c g => gs.contains (c, g)
  (s3.unparkFreed s).trimLog

/-! ### Core reset, power states and their wake times (R172, R189, R598 to R603, R613) -/

/-- Core reset of core `c` (R172, R189, R613): its groups, array, core store and counters at their reset values; no
instruction issues until the store is cleared. -/
def State.resetCore (s : State) (c : Nat) : State :=
  let s := s.modCore c fun k =>
    { k with groups := [], arr := Arr.reset, fixed := false, ring := [], bulk := 0, busyUntil := s.tick + 125, cnt := CntSet.reset }
  { s with store := s.store.clear (storeAddr c 0) (storeAddr (c + 1) 0) }

/-- Every core of a cluster reset. -/
def State.resetCluster (s : State) (cl : Nat) : State := (upFrom (8 * cl) 8).foldl State.resetCore s

/-- The Deck slice of a cluster zeroed, its cache lines dropped, its replacement trees cleared (R295, R599). -/
def State.zeroSlice (s : State) (cl : Nat) : State :=
  { s.modCluster cl fun k => { k with lines := [], tree := [] } with deck := s.deck.clear (deckAddr cl 0) (deckAddr (cl + 1) 0) }

/-- The PLLs of each die run while a cluster of it is in Run or Idle (R598). -/
def State.syncPlls (s : State) : State :=
  { s with pllOff := (List.range 4).foldl (fun m d => NMap.set m d ((upFrom (12 * d) 12).all fun cl =>
      match (s.cluster cl).pwr with
      | .retain => true
      | .off => true
      | _ => false) false) [] }

/-- A cluster powered down: its cores, counters, semaphores and translation caches take their reset values; its slice and
the Deck configuration stay (R599, R613). -/
def State.loseCluster (s : State) (cl : Nat) : State :=
  let s := (s.resetCluster cl).modCluster cl fun k =>
    { Cluster.reset with deckCfg := k.deckCfg, lines := k.lines, tree := k.tree, seqStopped := k.seqStopped, pwr := .off, deckPwr := k.deckPwr }
  let keys := (upFrom (8 * cl) 8).map (fun c => Engine.key (.core c)) ++ [Engine.key (.dma cl), Engine.key (.emb cl)]
  { s with tlbs := s.tlbs.filter fun x => !keys.contains x.1 }

/-- Ticks from a power state of a cluster to Run, and of a slice to On (the table of chapter 20). -/
def Power.wake : Power → Nat
  | .run => 0
  | .idle => 2
  | .retain => 200
  | .off => 4000
def DeckPower.wake : DeckPower → Nat
  | .on => 0
  | .retain => 100
  | .off => 1000

/-- A cluster brought to a state; leaving Off resets its cores (R599), leaving any state for Run takes its wake time. -/
def State.setPower (s : State) (cl : Nat) (w : Power) : State :=
  let was := (s.cluster cl).pwr
  if w = was then s
  else if w = .off then (s.loseCluster cl).syncPlls
  else
    let s := if was = .off then s.resetCluster cl else s
    (s.modCluster cl fun k => { k with pwr := w, wakeAt := if w = .run then max k.wakeAt (s.tick + was.wake) else k.wakeAt }).syncPlls

/-- A slice brought to a state; an Off slice keeps nothing (R599) but its overlay reservation, which stays On: its index is
`State.overlay` (R600). -/
def State.setSlice (s : State) (cl : Nat) (w : DeckPower) : State :=
  let s := if w = .off then s.zeroSlice cl else s
  s.modCluster cl fun k =>
    { k with deckPwr := w, wakeAt := if w = .on then max k.wakeAt (s.tick + k.deckPwr.wake) else k.wakeAt }

/-- A cluster and its slice woken. -/
def State.wakeCluster (s : State) (cl : Nat) : State := (s.setSlice cl .on).setPower cl .run

/-- Ticks that waking a cluster and its slice takes now. -/
def State.wakeTicks (s : State) (cl : Nat) : Nat := max (s.cluster cl).pwr.wake (s.cluster cl).deckPwr.wake

/-- Clusters that hold a core of a footprint. -/
def clustersOf (f : List (Nat × Option Nat)) : List Nat := (List.range 48).filter fun cl => f.any fun x => x.1 / 8 = cl

/-- The clusters of an image's footprint here, with the schedule tick at which the first stream of each starts; 0 for a cluster
with replay cores alone. -/
def State.firstStarts (s : State) (img : Image) : List (Nat × Nat) :=
  (clustersOf (s.footprint img)).map fun cl =>
    let ts := ((s.streams img).filter fun t => t.core / 8 = cl).map (·.startTick)
    (cl, ts.foldl min (ts.headD 0))

/-- Clusters of a job's streams woken when no more than their wake time is left to their first stream's start (R602): the launch
tick is no earlier than the wake of those that start at tick 0. -/
def State.wakeDue (s : State) (j : Nat) : State :=
  match s.job j with
  | none => s
  | some b => match s.jobImage b with
    | none => s
    | some img =>
      let left (t : Nat) : Nat := if b.phase = .starting then b.launchTick - s.tick + t else t - b.stick
      ((s.firstStarts img).filter fun x => decide (s.wakeTicks x.1 ≠ 0) && decide (left x.2 ≤ s.wakeTicks x.1)).foldl
        (fun s x => s.wakeCluster x.1) s

/-- Whether an image's job has units on this device alone: its Ceilings need no token. -/
def State.soleDevice (s : State) (img : Image) : Bool := img.devices.all (· = s.device)

/-- Whether a held job has units on other devices too. -/
def State.spans (s : State) (b : Job) : Bool := match s.jobImage b with
  | some img => !s.soleDevice img
  | none => false

/-- A job of this device alone chosen to start: its launch tick leaves its clusters the time to wake (R602). -/
def State.chooseStart (s : State) (j : Nat) : State :=
  match s.job j with
  | none => s
  | some b =>
    let need := match s.jobImage b with
      | some img => ((s.firstStarts img).map fun x => s.wakeTicks x.1 - x.2).foldl max 0
      | none => 0
    (s.setJob j (some { b with phase := .starting, launchTick := max b.launchTick (s.tick + need) })).wakeDue j

/-- A job of several devices given its common launch tick (R55, R71). DESIGN CHOICE (log entry 124): 4,125 ticks after the mode
change, the longest wake (R602) and the longest reset and test of a core (R189, R551), so that each device can meet it. -/
def State.launchAt (s : State) (j : Nat) (tick : Nat) : State :=
  (s.modJob j fun b => { b with phase := .starting, launchTick := tick }).wakeDue j

def launchMargin : Nat := 4125

/-! ### The next jobs (R516) -/

/-- Whether a job's units run, start, save, restore or stop: it keeps its footprint busy (R512). -/
def Job.active (b : Job) : Bool :=
  match b.phase with
  | .waiting => false
  | .preempted => false
  | _ => true

/-- Whether a job's units work for it, so that its end must come at one schedule tick on all of them (R522). -/
def Job.onUnits (b : Job) : Bool :=
  match b.phase with
  | .running => true
  | .saving _ => true
  | .restoring => true
  | _ => false

/-- Whether a footprint is disjoint from that of every other active job. -/
def State.footprintFree (s : State) (j : Nat) : Bool :=
  s.heldJobs.all fun k =>
    k = j || (match s.job k with | some b => !b.active | none => true) || !overlaps (s.jobFootprint j) (s.jobFootprint k)

/-- The slots of partition `p` from the one after the slot that last started a slice, wrapping (R516). -/
def slotOrder (last : Nat) : List Nat := (List.range 8).map fun i => (last + 1 + i) % 8

/-- Every waiting job of partition `p` whose footprint is free chosen to start, every such pre-empted one to
restore (R516). A waiting job of several devices starts by a mode change, which its first device asks for (R71, log entry 124). -/
def State.startWaiting (s : State) (p : Nat) : State :=
  (slotOrder (s.part p).lastSlot).foldl (fun s i =>
    let j := 8 * p + i
    match s.job j with
    | none => s
    | some b =>
      if b.active || !s.footprintFree j || (b.phase = .waiting && s.spans b) then s
      else
        let s := if b.phase = .preempted then s.setJob j (some { b with phase := .restoring }) else s.chooseStart j
        s.modPart p fun q => { q with lastSlot := i }) s

/-! ### The end of a task -/

/-- Dirty lines of the clusters written back before a completion (R294). -/
def State.cleanClusters (s : State) (cls : List Nat) : State := cls.foldl (fun s cl => s.cleanLines cl fun _ => true) s

/-- Counter updates of a launch's queue at its completion (R524). -/
def State.countDone (s : State) (k : Cmd) (ok : Bool) : State :=
  s.modQueue k.queue fun h =>
    if ok then { h with completed := satN 64 (h.completed + 1) } else { h with aborted := satN 64 (h.aborted + 1) }

/-- Every launch of a job completed with a status (R324, R471, R524). -/
def State.completeLaunches (s : State) (j : Nat) (b : Job) (a : Answer) : State :=
  b.origins.foldl (fun s k =>
    (s.countDone k (a.status = Status.success)).complete k
      { a with result := b.result, jobNumber := b.number, job := j % 8, paths := b.paths }) s

/-- A sequence's completion: the tokens generated and the boundaries at which it was held (R304). -/
def State.endSeq (s : State) (q : SeqSlot) (status : Nat) : State :=
  s.complete q.cmd { status := status, result := q.tokens - q.promptLen, count := q.heldAll }

/-- Running sequences of a generation job ended with a status, their blocks free, and the SEQ_LEAVEs that wait for them
completed (R554, log entry 17). -/
def State.endSequences (s : State) (p : Nat) (status : Nat) : State :=
  let s := (s.part p).seqs.foldl (fun s x => s.endSeq x.2 status) s
  let s := (s.part p).leaves.foldl (fun s x => s.complete x.2.1 { status := Status.success }) s
  s.modPart p fun q => { q with seqs := [], blocks := [], leaves := [] }

/-- A semaphore of a job that ends: its count is 0, and every group that still waits on it goes on (R522; log entry 118). -/
def State.freeSem (s : State) (cl n : Nat) : State :=
  let waits := NMap.get (s.cluster cl).semQ n []
  waits.foldl (fun s w => s.modGrp w.core w.group fun x => x.wake true)
    (s.modCluster cl fun k => { k with sem := NMap.set k.sem n 0 0, semQ := NMap.set k.semQ n [] [] })

/-- Whether a status is that of an abort (R521, R522). -/
def abortStatus (st : Nat) : Bool := st = Status.jobAborted || st = Status.sliceOverrun

/-- Whether a job has begun to run. -/
def Job.hasRun (b : Job) : Bool := b.onUnits || b.phase = .preempted

/-- Whether another generation job of job `j`'s partition has begun to run: the sequences are its own too (R523). -/
def State.otherGen (s : State) (j : Nat) : Bool :=
  (s.partJobs (partOf j)).any fun i => i ≠ j && match s.job i with
    | some b => b.hasRun && (match s.jobImage b with
      | some img => img.gen.isSome
      | none => false)
    | none => false

/-- The task of job `j` ended with a status (R204, R522): units stopped, semaphores of an aborted job set to 0, its
elastic streams sent no further, its pins released, dirty lines written back, its slot freed, its launches
completed naming `unit`, and the next jobs chosen. -/
def State.endJob (s : State) (j : Nat) (a : Answer) : State :=
  match s.job j with
  | none => s
  | some b =>
    let cls := clustersOf (s.jobFootprint j)
    let sems := match s.jobImage b with
      | some img => img.sems
      | none => []
    let s := s.stopUnits j
    let s := if abortStatus a.status then sems.foldl (fun s x => s.freeSem x.1 x.2) s else s
    let s := s.mapPorts fun _ k =>
      { k with txStreams := k.txStreams.filter fun t => !(t.job = b.number && t.pool = some (partOf j)) }
    let s := s.pinSlots false b.pins
    let s := s.cleanClusters cls
    let s := s.setJob j none
    let gen := match s.jobImage b with
      | some img => img.gen.isSome && b.hasRun
      | none => false
    let s := if gen && !s.otherGen j then s.endSequences (partOf j) (if a.status = Status.deviceFailed then a.status else Status.jobAborted) else s
    let s := s.completeLaunches j b a
    let cmds := (b.ending.map (·.cmds)).getD []
    (cmds.foldl (fun (s : State) k => s.complete k { status := Status.success }) s).startWaiting (partOf j)

/-- The other devices of a job told of its end (R57, R71): its schedule tick, its status, cores that failed here. -/
def State.tellEnd (s : State) (b : Job) (tick status : Nat) (cores : List Nat) : State :=
  let others := match s.jobImage b with
    | some img => img.devices.filter (· ≠ s.device)
    | none => []
  { s with stopsOut := s.stopsOut ++ others.map fun d =>
      ({ dev := d, number := b.number, tick := tick, status := status, cores := cores } : StopNotice) }

/-- The end of a job set for one schedule tick on every unit (R71): here the next tick boundary, for a job on several devices a
tick far enough ahead that each is told. DESIGN CHOICE (log entry 102): the margin of R517, and how the others are told. -/
def State.setEnd (s : State) (j : Nat) (b : Job) (status : Nat) (unit epoch : Word32) (cmds : List Cmd) (cores : List Nat) : State :=
  let t := if s.spans b then b.stick + 2 * s.ceil.diam + 256 else b.stick
  (s.setJob j (some
    { b with ending := some { tick := t, status := status, unit := unit, epoch := epoch, raised := [], cmds := cmds, far := [] } })).tellEnd
      b t status cores

/-- The task of job `j` ended with a status (R204, R367, R521, R522): at one schedule tick where its units work or are to start, else
at once; `cmds` complete with it. The first end that is set stands. -/
def State.stopJob (s : State) (j : Nat) (a : Answer) (cmds : List Cmd) : State :=
  match s.job j with
  | none => s
  | some b => match b.ending with
    | some e => s.setJob j (some { b with ending := some { e with cmds := e.cmds ++ cmds } })
    | none =>
      if b.onUnits || (b.active && s.spans b) then s.setEnd j b a.status a.unit b.nextCommit cmds []
      else cmds.foldl (fun s k => s.complete k { status := Status.success }) ((s.tellEnd b b.stick a.status []).endJob j a)

/-- The task of the held job numbered `n` ended with a status. -/
def State.endNumbered (s : State) (n : Word32) (a : Answer) : State :=
  match s.jobNumbered n with
  | some j => s.stopJob j a []
  | none => s

/-- The exceptions of one cycle recorded (R203, R205): one record names the group of the lowest unit reference and group number,
with its DBG_CORE_EXC. -/
def State.recordRaised (s : State) (j : Nat) (b : Job) (l : List (Nat × Nat × Word32)) : State :=
  match (sortBy (fun x => 16 * x.1 + x.2.1) l).head? with
  | none => s
  | some (c, g, e) =>
    let x := s.grp c g
    let code := bf x.exc 57 50
    s.raise { unit := coreRef s.device c, cls := if code = 0x0E then 0x02 else 0x01, code := code, job := b.number, epoch := e,
              part := partOf j, syndrome := x.exc.toNat, address := x.excAddr.toNat }

/-- Cores of a job whose groups raised exceptions here and on its other devices, as unit references in ascending order. -/
def State.failedCores (s : State) (j : Nat) (e : Ending) : List Word32 :=
  let own := ((s.jobGroups j).filter fun x => (s.grp x.1 x.2).run = .excepted).map fun x => coreRef s.device x.1
  sortBy BitVec.toNat (own ++ e.far.map fun x => coreRef x.1 x.2).eraseDups

/-- What an end answers: a task that exceptions ended names the failing core with the lowest unit reference and their count
(R57, R204). -/
def State.endAnswer (s : State) (j : Nat) (e : Ending) : Answer :=
  let f := s.failedCores j e
  if e.status = Status.coreException then { status := e.status, unit := f.headD 0, count := f.length }
  else { status := e.status, unit := e.unit }

/-- Whether a job is about to run: starting, or a mode change that starts or resumes it is prepared here. -/
def State.aboutToRun (s : State) (j : Nat) (b : Job) : Bool :=
  b.phase = .starting || s.mcPrep.any fun p => p.content = some (.resume (partOf j) b.number)

/-- A job whose end is set at a tick boundary: the exceptions of the cycle are recorded, and the task ends once its schedule tick
has come, if it is yet to come (R71, R204, R205, R522). -/
def State.endDue (s : State) (j : Nat) : State :=
  match s.job j with
  | none => s
  | some b => match b.ending with
    | none => s
    | some e =>
      let s := (s.recordRaised j b e.raised).setJob j (some { b with ending := some { e with raised := [] } })
      if (b.phase = .running || s.aboutToRun j b) && decide (b.stick < e.tick) then s else s.endJob j (s.endAnswer j e)

/-- What another device of a job tells of its end (R57, R71): its end is set here too, the earliest tick stands; cores that failed
there are noted. -/
def Job.hear (b : Job) (p : PeerEnd) : Job :=
  let cores := p.cores.map fun c => (p.dev, c)
  let e : Ending := { tick := p.tick, status := p.status, unit := devRef p.dev, epoch := b.nextCommit, raised := [], cmds := [], far := cores }
  { b with ending := some (match b.ending with
      | none => e
      | some o =>
        { o with tick := min o.tick p.tick, far := o.far ++ cores, status := if p.tick < o.tick then p.status else o.status,
                 unit := if p.tick < o.tick then e.unit else o.unit }) }

/-! ### Posts (R420, R421) -/

/-- A post of `k` to semaphore `n` of a cluster by job `j`: added, the queue served; a count above 2^32 - 1
saturates, writes a SYNC record and ends the job's task (R421). -/
def State.post (s : State) (cl n k : Nat) (j : Option Nat) : State :=
  let sum := (NMap.get (s.cluster cl).sem n 0).toNat + k
  let s := s.setSem cl n (BitVec.ofNat 32 (satN 32 sum))
  if sum < 2 ^ 32 then s
  else
    let (num, ep, p) := match j with
      | some j => match s.job j with
        | some b => (b.number, b.epoch, partOf j)
        | none => (0, 0, 0)
      | none => (0, 0, 0)
    let s := s.raise { unit := clusterRef s.device cl, cls := 0x09, job := num, epoch := ep, part := p,
                       syndrome := n + k * 2 ^ 32 }
    match j with
    | some j => s.stopJob j { status := Status.semaphoreOverflow, unit := clusterRef s.device cl } []
    | none => s

/-! ### Suspect steps (R526 to R528) -/

/-- A step of job `j` made suspect by core `c` with the class of its cause (R526, R528). -/
def State.suspect (s : State) (j : Nat) (epoch : Word32) (c cause : Nat) : State :=
  s.modJob j fun b =>
    if b.suspects.any fun x => x.epoch = epoch && x.core = c then b
    else { b with suspects := b.suspects ++ [{ epoch := epoch, core := c, cause := cause }] }

/-- Step epoch of a group's next instruction (R229). -/
def State.grpEpoch (s : State) (x : Grp) : Word32 :=
  match x.job with
  | none => 0
  | some j => match s.job j with
    | none => 0
    | some b => if x.committed then b.epoch + 1 else b.epoch

/-- Job number of a group. -/
def State.grpNumber (s : State) (x : Grp) : Word32 :=
  match x.job with
  | none => 0
  | some j => match s.job j with
    | none => 0
    | some b => b.number

/-- An instruction of a group reads `n` poisoned values: POISON_SEEN is set, the values counted, the step
suspect (R201, R526, R527, R582). -/
def State.seePoison (s : State) (c g n : Nat) : State :=
  let x := s.grp c g
  let s := (s.modGrp c g fun x => { x with flags := x.flags ||| 0x10 }).event c 0x0E n
  match x.job with
  | none => s
  | some j => s.suspect j (s.grpEpoch x) c 0x02

/-! ### Exceptions of a group -/

/-- Codes of R202. -/
def Exc.illegal : Nat := 0x01
def Exc.fetch : Nat := 0x02
def Exc.arrayFormat : Nat := 0x03
def Exc.arrayAddress : Nat := 0x04
def Exc.arrayMode : Nat := 0x05
def Exc.arrayOwner : Nat := 0x06
def Exc.storeAddress : Nat := 0x07
def Exc.translation : Nat := 0x08
def Exc.maskOverflow : Nat := 0x09
def Exc.maskUnderflow : Nat := 0x0A
def Exc.semaphore : Nat := 0x0B
def Exc.queue : Nat := 0x0C
def Exc.cheapPoint : Nat := 0x0D
def Exc.poisonedControl : Nat := 0x0E

/-- DBG_CORE_EXC of an exception (chapter 05). -/
def excWord (code g : Nat) (pc : BitVec 14) (lanes : Word32) : Word64 :=
  BitVec.ofNat 64 (2 ^ 63 + code * 2 ^ 50 + g * 2 ^ 46 + pc.toNat * 2 ^ 32 + lanes.toNat)

/-- Group `g` of core `c` takes an exception (R203 to R205): DBG_CORE_EXC and DBG_CORE_EXC_ADDR are filled and the group stops
at the instruction; the end of the job's task is set, with CORE_EXCEPTION, from the step of the instruction on. The record of the
cycle follows at the tick boundary (`State.endDue`), where the lowest group of those that raised one is known. -/
def State.except (s : State) (c g code : Nat) (lanes : Word32) (addr : Nat) : State :=
  let x := s.grp c g
  let e := s.grpEpoch x
  let s := s.setGrp c g { x with run := .excepted, exc := excWord code g x.pc lanes, excAddr := BitVec.ofNat 64 (addr % 2 ^ 52) }
  match x.job with
  | none => s
  | some j => match s.job j with
    | none => s
    | some b =>
      let s := match b.ending with
        | some x => s.tellEnd b x.tick x.status [c]
        | none => s.setEnd j b Status.coreException 0 e [] [c]
      s.modJob j fun b => { b with ending := b.ending.map fun x => { x with raised := x.raised ++ [(c, g, e)] } }

/-- All 32 lanes: the LANES of a condition of the whole group. -/
def allLanes : Word32 := 0xFFFFFFFF

end Sys2Proof.Machine
end

