-- ==== Sys2Proof/Machine/Generation.lean ====
section
/-!
DEFINITION. The token boundary of a generation job (R300 to R319): leaves, ends, advances, forks, top-ups, holds and
admissions, with the generation area in memory.
-/

namespace Sys2Proof.Machine

open Sys2Proof

/-! ### The generation record (R306) -/

def Part.genWord (p : Part) (i : Nat) : Word64 := p.gen.getD i 0
def Part.poolVa (p : Part) : Nat := bf (p.genWord 0) 51 0
def Part.areaVa (p : Part) : Nat := bf (p.genWord 1) 51 0
def Part.poolBlocks (p : Part) : Nat := bf (p.genWord 2) 39 20
def Part.blockBytes (p : Part) : Nat := bf (p.genWord 2) 19 8 * 65536
def Part.reserve (p : Part) : Nat := bf (p.genWord 2) 7 4 + 1
def Part.slots (p : Part) : Nat := bf (p.genWord 3) 44 32
def Part.maxBlocks (p : Part) : Nat := bf (p.genWord 3) 31 22 + 1
def Part.joinMax (p : Part) : Nat := bf (p.genWord 3) 21 14 + 1
def Part.tStep (p : Part) : Nat := bf (p.genWord 3) 13 9 + 1
def Part.prefill (p : Part) : Nat := 64 * (bf (p.genWord 3) 8 3 + 1)
/-- Bytes of the generation area (R308). -/
def Part.areaBytes (p : Part) : Nat := 64 * p.slots + 128 * p.slots * p.maxBlocks

/-! ### Block tables (R308, R310) -/

/-- Key of entry `k` of beam `b` of slot `i`; a listed value is a block number plus one. -/
def blockKey (i b k : Nat) : Nat := (32 * i + b) * 2048 + k

/-- Blocks that a beam names, in order. -/
def Part.beamBlocks (p : Part) (i b : Nat) : List Nat :=
  (p.blocks.filter fun x => x.1 / 2048 = 32 * i + b).map fun x => x.2 - 1

/-- A beam's table replaced. -/
def Part.setBeam (p : Part) (i b : Nat) (l : List Nat) : Part :=
  let others := p.blocks.filter fun x => x.1 / 2048 ≠ 32 * i + b
  { p with blocks := l.zipIdx.foldl (fun m x => NMap.set m (blockKey i b x.2) (x.1 + 1) 0) others }

/-- Blocks of the pool that no beam names (R310). -/
def Part.freeBlocks (p : Part) : List Nat := (List.range p.poolBlocks).filter fun n => !(p.blocks.any fun x => x.2 = n + 1)

/-- A slot freed and its blocks dropped. -/
def Part.dropSlot (p : Part) (i : Nat) : Part :=
  { p with seqs := NMap.erase p.seqs i, blocks := p.blocks.filter fun x => x.1 / 65536 ≠ i }

/-- `n` blocks taken from a list of free ones; which ones is not stated: a free value picks each. -/
def State.pickBlocks (s : State) : Nat → List Nat → List Nat × List Nat × State
  | 0, l => ([], l, s)
  | n + 1, l =>
    let i := (s.freeAt 32 0).toNat % max l.length 1
    let (t, r, s') := State.pickBlocks (s.used 1) n (l.eraseIdx i)
    (l.getD i 0 :: t, r, s')

/-! ### What the program wrote (R309) -/

/-- ADVANCE, DONE and the parent bytes of a slot. -/
structure Wrote where
  advance : Nat
  done : Bool
  parents : List Nat
deriving DecidableEq, Repr

/-- The slot record and parent vector of slot `i`, read from the area. -/
def State.readSlot (s : State) (pn i : Nat) : Wrote × State :=
  let p := s.part pn
  let (a, s) := s.readVa none pn (p.areaVa + 32 * i) 1
  let (b, s) := s.readVa none pn (p.areaVa + 32 * p.slots + 32 * i) 1
  let w : Word64 := BitVec.ofNat 64 (fromLe ((sectorBytes a).take 8))
  ({ advance := bf w 8 3, done := bit w 0, parents := (sectorBytes b).map (·.toNat) }, s)

/-- What the program wrote for every running slot. -/
def State.readSlots (s : State) (pn : Nat) : List Nat → NMap Wrote × State
  | [] => ([], s)
  | i :: t =>
    let (w, s) := s.readSlot pn i
    let (m, s) := State.readSlots s pn t
    ((i, w) :: m, s)

/-- Entries of a slot's parent vector that name a beam other than none. -/
def Wrote.moves (w : Wrote) (beams : Nat) : List (Nat × Nat) :=
  (List.range beams).filterMap fun b => if w.parents.getD b 255 = 255 then none else some (b, w.parents.getD b 255)

/-- The faults of R315; every byte of the parent vector counts. -/
def SeqSlot.faulty (q : SeqSlot) (w : Wrote) (tStep : Nat) : Bool :=
  let named := w.parents.filter (· ≠ 255)
  decide (tStep < w.advance) || named.any (fun x => decide (q.beams ≤ x)) || (q.st = 3 && !named.isEmpty)

/-- A sequence with the tokens that the closing pass added in decode (R316). -/
def SeqSlot.advanced (q : SeqSlot) (w : Wrote) : SeqSlot := if q.st = 2 then { q with tokens := q.tokens + w.advance } else q

/-! ### One slot's step of the boundary (R312 to R314) -/

/-- KV bytes of block `a` copied to block `b`, after all of a request's sources were read. -/
def State.copyBlocks (s : State) (pn : Nat) (l : List (Nat × Nat)) : State :=
  let p := s.part pn
  let n := p.blockBytes / 32
  let (data, s) := l.foldl (fun (acc : List (List Sector) × State) x =>
    let (xs, s) := acc.2.readVa none pn (p.poolVa + x.1 * p.blockBytes) n
    (acc.1 ++ [xs], s)) ([], s)
  (l.zip data).foldl (fun s x =>
    s.writeVa none pn (p.poolVa + x.1.2 * p.blockBytes) (x.2.map fun y => (y.data, y.poison))) s

/-- Tables of a slot's beams after the fork of R312 or its parent entries, without fresh blocks: for each beam its
blocks, the block copied into its next one, and its own reserved blocks that follow. -/
structure Fork where
  base : List Nat
  copy : Option Nat
  own : List Nat
deriving DecidableEq, Repr

/-- A table that takes beam `src`'s full blocks by reference. -/
def forkOf (full : List Nat) (tokens : Nat) (own : List Nat) : Fork :=
  { base := full.take (tokens / 64), copy := if tokens % 64 = 0 then none else full[tokens / 64]?, own := own }

/-- Blocks that a beam of a fork still needs: one for a copy when it has no own block, and RESERVE when its room is
below T_STEP. -/
def Fork.need (f : Fork) (tokens tStep reserve : Nat) : Nat :=
  let c := if f.copy.isSome && f.own.isEmpty then 1 else 0
  let have_ := f.base.length + f.own.length + c
  c + (if 64 * have_ - tokens < tStep then reserve else 0)

/-- The next state of a running slot `i` (R312 to R314): tokens folded, the fork or the parents applied, top-ups
granted whole, or the slot held. -/
def State.stepSlot (s : State) (pn i : Nat) (w : Wrote) : State :=
  let p := s.part pn
  match p.seqs.find? fun x => x.1 = i with
  | none => s
  | some (_, q) =>
    let wasHeld := decide (q.st = 3)
    let inPrefill := decide (0 < q.prefillLeft)
    let chunk := min q.prefillLeft p.prefill
    let tokens := if wasHeld then q.tokens else if inPrefill then q.tokens + chunk else q.tokens + w.advance
    let left := if wasHeld then q.prefillLeft else q.prefillLeft - chunk
    let ends := (inPrefill && decide (left = 0)) || q.fork
    let beams := if 0 < left then [0] else List.range q.beams
    let moves := if wasHeld then q.moves else if inPrefill then [] else w.moves q.beams
    let plan := beams.map fun b =>
      let old := p.beamBlocks i b
      (b, if ends && decide (0 < b) then forkOf (p.beamBlocks i 0) tokens old
        else match moves.find? fun x => x.1 = b with
        | some x => forkOf (p.beamBlocks i x.2) tokens []
        | none => { base := old, copy := none, own := [] })
    let need := sumN (plan.map fun x => x.2.need tokens p.tStep p.reserve)
    let kept := plan.foldl (fun p x => p.setBeam i x.1 (x.2.base ++ x.2.own)) p
    let free := kept.freeBlocks
    if free.length < need then
      let q' : SeqSlot := { q with tokens := tokens, prefillLeft := left, st := 3, held := satN 12 (q.held + 1), heldAll := q.heldAll + 1,
                                   fork := ends, moves := moves }
      s.modPart pn fun p => { p with seqs := NMap.insert (NMap.erase p.seqs i) i q' }
    else
      let (p', copies, _, s) := plan.foldl (fun (acc : Part × List (Nat × Nat) × List Nat × State) x =>
        let (new, rest, s) := acc.2.2.2.pickBlocks (x.2.need tokens p.tStep p.reserve) acc.2.2.1
        let table := x.2.base ++ x.2.own ++ new
        let cp := match x.2.copy with
          | some a => [(a, table.getD x.2.base.length 0)]
          | none => []
        (acc.1.setBeam i x.1 table, acc.2.1 ++ cp, rest, s)) (kept, [], free, s)
      let q' : SeqSlot := { q with tokens := tokens, prefillLeft := left, st := if 0 < left then 1 else 2, held := 0,
                                   fork := false, moves := [] }
      let s := s.modPart pn fun _ => { p' with seqs := NMap.insert (NMap.erase p'.seqs i) i q' }
      s.copyBlocks pn copies

/-! ### Ends and admissions -/

/-- Running slots in ascending order. -/
def Part.running (p : Part) : List Nat := p.seqs.map (·.1)

/-- Sequences withdrawn by a SEQ_LEAVE that counts for the boundary (R302, R305), the closing pass's tokens counted. -/
def State.takeLeaves (s : State) (pn point : Nat) (ws : NMap Wrote) : State :=
  let p := s.part pn
  (p.leaves.filter fun l => decide (l.2.2 ≤ point)).foldl (fun s l =>
    let s := match (s.part pn).seqs.find? fun x => x.2.handle = l.1 with
      | some (i, q) =>
        let q := match ws.find? (fun (x : Nat × Wrote) => x.1 = i) with
          | some (_, w) => q.advanced w
          | none => q
        (s.modPart pn fun p => p.dropSlot i).endSeq q Status.seqCancelled
      | none => s
    (s.modPart pn fun p => { p with leaves := p.leaves.filter fun y => y ≠ l }).complete l.2.1 { status := Status.success }) s

/-- Sequences that are done, at their limit, or faulty end (R315, R316). -/
def State.endSlots (s : State) (pn : Nat) (ws : NMap Wrote) : State :=
  (s.part pn).running.foldl (fun s i =>
    match (s.part pn).seqs.find? (fun x => x.1 = i), ws.find? fun x => x.1 = i with
    | some (_, q), some (_, w) =>
      let q' := q.advanced w
      if q.faulty w (s.part pn).tStep then (s.modPart pn fun p => p.dropSlot i).endSeq q Status.seqFault
      else if w.done || decide (q.maxNew ≤ q'.tokens - q.promptLen) then (s.modPart pn fun p => p.dropSlot i).endSeq q' Status.success
      else s
    | _, _ => s) s

/-- Joins admitted in order while they fit (R311, R317); `n` bounds them. -/
def State.admitJoins (s : State) (pn point : Nat) : Nat → State
  | 0 => s
  | n + 1 =>
    let p := s.part pn
    match p.joins, (List.range p.slots).find? fun i => !(p.running.contains i) with
    | j :: t, some i =>
      let prompt := (j.promptLen + 63) / 64
      let need := prompt + j.beams * p.reserve
      let free := p.freeBlocks
      if point < j.at_ || decide (free.length < need) then s
      else
        let (bl, _, s) := s.pickBlocks need free
        let p := p.setBeam i 0 (bl.take (prompt + p.reserve))
        let rest := bl.drop (prompt + p.reserve)
        let p := (upFrom 1 (j.beams - 1)).foldl (fun p b => p.setBeam i b ((rest.drop ((b - 1) * p.reserve)).take p.reserve)) p
        let q : SeqSlot := { seed := j.seed, handle := j.handle, tokens := 0, prefillLeft := j.promptLen, held := 0, heldAll := 0, fork := false, moves := [],
                             beams := j.beams, st := 1, maxNew := j.maxNew, promptLen := j.promptLen, cmd := j.cmd }
        let p := { p with seqs := NMap.insert p.seqs i q, joins := t }
        (s.modPart pn fun _ => p).admitJoins pn point n
    | _, _ => s

/-! ### The area written back (R308, R309) -/

/-- The 32 bytes of a slot's record. -/
def Part.slotBytes (p : Part) (i : Nat) : List Byte :=
  match p.seqs.find? fun x => x.1 = i with
  | none => leBytes 32 ((2 ^ 32 - 1) * 2 ^ 160)
  | some (_, q) =>
    let named := ((p.blocks.filter fun x => x.1 / 65536 = i).map (·.2)).eraseDups.length
    leBytes 32 (q.seed.toNat * 2 ^ 192 + q.handle.toNat * 2 ^ 160 + q.tokens % 2 ^ 32 * 2 ^ 128 + q.prefillLeft * 2 ^ 104 +
      named * 2 ^ 84 + q.held * 2 ^ 72 + (q.beams - 1) * 2 ^ 67 + q.st * 2 ^ 64)

/-- Bytes of the block tables of slot `i`. -/
def Part.tableBytes (p : Part) (i : Nat) : List Byte :=
  (List.range 32).flatMap fun b => (List.range p.maxBlocks).flatMap fun k =>
    leBytes 4 (match NMap.get p.blocks (blockKey i b k) 0 with
      | 0 => 0xFFFFFFFF
      | n + 1 => n)

/-- Slot records, parent vectors and block tables of every slot. -/
def State.writeArea (s : State) (pn : Nat) : State :=
  let p := s.part pn
  let put (s : State) (off : Nat) (b : List Byte) : State :=
    s.writeVa none pn (p.areaVa + off) ((toSectors (b.length / 32) b).map fun x => (x, false))
  (List.range p.slots).foldl (fun s i =>
    let s := put s (32 * i) (p.slotBytes i)
    let s := put s (32 * p.slots + 32 * i) (List.replicate 32 0xFF)
    put s (64 * p.slots + 128 * i * p.maxBlocks) (p.tableBytes i)) s

/-- TOKEN_BOUNDARY (R316): the procedure of a partition at a committed token boundary whose commit point fell at tick
`point`. -/
def State.boundary (s : State) (pn point : Nat) (unit job : Word32) (epoch : Word32) : State :=
  let (ws, s) := s.readSlots pn (s.part pn).running
  let s := (s.takeLeaves pn point ws).endSlots pn ws
  let s := (s.part pn).running.foldl (fun s i => match ws.find? fun x => x.1 = i with
    | some x => s.stepSlot pn i x.2
    | none => s) s
  let s := s.admitJoins pn point (s.part pn).joinMax
  let s := s.writeArea pn
  let p := s.part pn
  let held := (p.seqs.filter fun x => x.2.st = 3).length
  if (p.seqs.any fun x => x.2.st ≠ 3) || (p.joins.isEmpty && held = 0) then s
  else s.raise { unit := unit, cls := 0x0A, job := job, epoch := epoch, part := pn,
                 syndrome := 1 + p.freeBlocks.length * 2 ^ 32 + held * 2 ^ 64 }

end Sys2Proof.Machine
end

