-- ==== Sys2Proof/Machine/Operands.lean ====
section
/-!
DEFINITION. The fields of a Parux instruction (R208 to R214, R649), the registers of a group (R172, R173),
active lanes (R212), and the issue of an instruction: readiness, fetch, legality, gather waits, and what
becomes of its effect.
-/

namespace Sys2Proof.Machine

open Sys2Proof

/-! ### Fields of a word's bits [55:0] (R208, R209) -/

abbrev IWord := BitVec 56

def fDst (w : IWord) : Nat := bf w 55 50
def fSrc1 (w : IWord) : Nat := bf w 49 44
def fGuard (w : IWord) : Nat := bf w 43 41
def fMod (w : IWord) : Nat := bf w 40 36
def fCond (w : IWord) : Nat := bf w 35 32
def fSrc2 (w : IWord) : Nat := bf w 31 26
def fSrc3 (w : IWord) : Nat := bf w 25 20
def fImm (w : IWord) : Nat := bf w 31 0
/-- The I bit (R214). -/
def fI (w : IWord) : Bool := bit w 40
/-- The U bit of minimum and maximum. -/
def fU (w : IWord) : Bool := bit w 39

/-- IMM32 sign-extended to 64 bits (R214). -/
def imm64 (w : IWord) : Word64 := BitVec.ofInt 64 (signed 32 (fImm w))
/-- IMM32. -/
def imm32 (w : IWord) : Word32 := BitVec.ofNat 32 (fImm w)

/-! ### Legality (R210, R211, R213, R649) -/

/-- A group-level instruction without a compare: GUARD and COND 0. -/
def plainGroup (w : IWord) : Bool := fGuard w = 0 && fCond w = 0
/-- The lower word of layout RR with SRC2 of `n2` registers and SRC3 of `n3` (1 for an unused field, which
must be 0). -/
def lowRR (w : IWord) (n2 n3 : Nat) : Bool := decide (fSrc2 w < n2) && decide (fSrc3 w < n3) && bf w 19 0 = 0
/-- The lower word of RR or RI by the I bit, SRC2 of `n2` registers. -/
def lowRI (w : IWord) (n2 : Nat) : Bool := fI w || lowRR w n2 1
/-- MOD bits that are set lie within the mask `m`. -/
def modOnly (w : IWord) (m : Nat) : Bool := (fMod w) &&& m = fMod w
/-- Registers within the counts of their kinds. -/
def regs (w : IWord) (nd n1 : Nat) : Bool := decide (fDst w < nd) && decide (fSrc1 w < n1)

/-! ### Registers -/

def Grp.preg (x : Grp) (p : Nat) : Word32 := if p = 0 then 0xFFFFFFFF else NMap.get x.pregs p 0
def Grp.setPreg (x : Grp) (p : Nat) (v : Word32) : Grp := if p = 0 then x else { x with pregs := NMap.set x.pregs p v 0 }

/-- A scalar register that holds `v`, not poisoned. -/
def sclean (v : Word64) : SReg := { val := v, poison := false }
/-- s0 reads 0 (R172). -/
def Grp.sreg (x : Grp) (r : Nat) : SReg := if r = 0 then sclean 0 else NMap.get x.sregs r (sclean 0)
/-- Writes to s0 are ignored (R172). -/
def Grp.setSreg (x : Grp) (r : Nat) (v : SReg) : Grp := if r = 0 then x else { x with sregs := NMap.set x.sregs r v (sclean 0) }

/-- Lane `i` of vector register `r`. -/
def Grp.vlane (x : Grp) (r i : Nat) : VLane := NMap.get x.vregs (32 * r + i) { val := 0, poison := false }
def Grp.setVlane (x : Grp) (r i : Nat) (v : VLane) : Grp :=
  { x with vregs := NMap.set x.vregs (32 * r + i) v { val := 0, poison := false } }

/-- Lanes that an instruction with guard `p` acts on (R212). -/
def Grp.active (x : Grp) (p : Nat) : Word32 := x.mask &&& x.preg p

/-- The active lanes in ascending order. -/
def lanesOf (m : Word32) : List Nat := (List.range 32).filter fun i => bit m i

/-- The lanes of a list as a mask. -/
def maskOf (l : List Nat) : Word32 := l.foldl (fun m i => m ||| (1#32 <<< i)) 0

/-- Register `r` with the listed lanes given by `f`; the other lanes keep their values (R212). -/
def Grp.setLanes (x : Grp) (r : Nat) (ls : List Nat) (f : Nat → VLane) : Grp := ls.foldl (fun x i => x.setVlane r i (f i)) x

/-- The stack of the mask and its effect on predicates: predicate `p` with the listed lanes' bits given. -/
def Grp.setPredLanes (x : Grp) (p : Nat) (ls : List Nat) (f : Nat → Bool) : Grp :=
  let m := maskOf ls
  x.setPreg p ((x.preg p &&& ~~~m) ||| maskOf (ls.filter f))

/-- Whether a group's register awaits an outstanding gather (R177, R184). -/
def Grp.awaits (x : Grp) (r : Nat) : Bool := x.slots.any fun k => k.2.kind = .gather && k.2.reg = r

/-! ### Readiness (R177, R184, R189, R199) -/

/-- The slip in force on a job. -/
def Job.slip (b : Job) : Option SlipKind := b.slips.head?.map (·.kind)

/-- Whether a job's units issue: it runs, and no slip but a replay slip is in force (R72). -/
def Job.issues (b : Job) : Bool :=
  b.phase = .running && (match b.slip with
    | none => true
    | some (.replay _) => true
    | _ => false)

/-- Whether job `j` is held up by a slip, which starts none of its work (R72). -/
def State.slipped (s : State) (j : Nat) : Bool :=
  match s.job j with
  | some b => !b.issues
  | none => false

/-- The core whose stream core `c` runs for job `j`: the suspect core, for its replay core in a replay slip
(R539). -/
def State.idCore (s : State) (j c : Nat) : Nat :=
  match s.job j with
  | none => c
  | some b => match b.slip, s.jobImage b with
    | some (.replay _), some img => (b.replaying.find? fun x => replayOf img x = some c).getD c
    | _, _ => c

/-- Whether a core's clocks run, its cluster is awake, and it is not being cleared or tested (R189, R551, R599, R602). -/
def State.coreAlive (s : State) (c : Nat) : Bool :=
  let k := s.core c
  !s.clocksStopped && decide (k.busyUntil ≤ s.tick) && decide ((s.cluster (c / 8)).wakeAt ≤ s.tick) &&
    (match k.test with | some t => !t.active | none => true) &&
    (match (s.cluster (c / 8)).pwr with | .run => true | _ => false)

/-- Whether group `g` of core `c` may be offered its instruction (R177). -/
def State.groupReady (s : State) (c g : Nat) : Bool :=
  let x := s.grp c g
  decide (x.run = .running) && s.coreAlive c && (match x.job with
    | none => false
    | some j => match s.job j with
      | none => false
      | some b => b.issues && (match s.streamOf j (s.idCore j c) g with
        | some t => decide (t.startTick ≤ b.now)
        | none => true))

/-- Whether a program counter lies in the stream that the group runs for its job (FETCH_FAULT, R202). -/
def State.inStream (s : State) (c g pc : Nat) : Bool :=
  match (s.grp c g).job with
  | none => false
  | some j => match s.streamOf j (s.idCore j c) g with
    | none => false
    | some t => decide (t.base ≤ pc) && decide (pc < t.base + t.code.length)

/-- The word at an index of a core's instruction memory. -/
def State.wordAt (s : State) (c pc : Nat) : Word64 :=
  BitVec.ofNat 64 (fromLe ((upFrom (c * 2 ^ 17 + 8 * pc) 8).map fun i => NMap.get s.imem i 0))

/-- Whether a ready group stands at a word with a reserved opcode (R211). -/
def State.atReserved (s : State) (c g : Nat) : Bool :=
  let x := s.grp c g
  s.groupReady c g && s.inStream c g x.pc.toNat && (decodeParux c g (s.wordAt (s.idCore (x.job.getD 0) c) x.pc.toNat)).isNone

/-- Every ready group that stands at a reserved opcode raises ILLEGAL_INSTRUCTION (R202, R211): no command spells such a word. -/
def State.raiseReserved (s : State) : State :=
  (s.cores.flatMap fun k => (k.2.groups.filter fun x => s.atReserved k.1 x.1).map fun x => (k.1, x.1)).foldl
    (fun s x => s.except x.1 x.2 Exc.illegal allLanes 0) s

/-! ### Issue -/

/-- What an instruction does once its operands are there. -/
inductive Eff where
  /-- It has its effect, and the group goes on at the next instruction. -/
  | next (s : State)
  /-- It has its effect, and the group goes on at an index. -/
  | jump (s : State) (pc : Nat)
  /-- It has its effect, which places the group itself. -/
  | placed (s : State)
  /-- It raises an exception and has no effect. -/
  | exc (code : Nat) (lanes : Word32) (addr : Nat)
  /-- The group parks; the instruction has not issued. -/
  | park (p : Park)
  /-- The group parks, its place in a queue taken. -/
  | parkAt (s : State) (p : Park)
  /-- The instruction waits for bytes that an earlier drain of the group writes (R166): it has not issued. -/
  | wait

/-- Instructions issued on pipe 0, pipe 1, or either (2); which of the two a vector instruction takes is not
fixed, and the choice shows only in counters that select events 0x01 or 0x02 (log entry 18). -/
def State.countIssue (s : State) (c pipe : Nat) : State :=
  let s := s.modCore c fun k => { k with cnt := k.cnt.add cntIssued 1 }
  if pipe < 2 then s.event c (pipe + 1) 1
  else if (s.core c).cnt.sel.any fun x => x.2 = 1 || x.2 = 2 then
    (s.event c (if (s.freeAt 1 0) = 0 then 1 else 2) 1).used 1
  else s

/-- The effect carried out on the group (R178, R184, R203). -/
def State.settle (s : State) (c g pipe : Nat) : Eff → State
  | .next t => (t.modGrp c g fun x => { x with pc := x.pc + 1 }).countIssue c pipe
  | .jump t pc => (t.modGrp c g fun x => { x with pc := BitVec.ofNat 14 pc }).countIssue c pipe
  | .placed t => t.countIssue c pipe
  | .exc code lanes addr => s.except c g code lanes addr
  | .wait => s
  | .parkAt t p => t.modGrp c g fun x => { x with run := .parked p }
  | .park p =>
    let s := s.modGrp c g fun x => { x with run := .parked p }
    match p with
    | .miss _ _ _ => s.event c 0x09 1
    | _ => s

/-- Group `g` of core `c` is offered an instruction. A group that is not ready issues nothing (R177, log
entry 6). Outside the job's stream the fetch faults; an illegal word raises ILLEGAL_INSTRUCTION (R211); a
source register that awaits a gather parks the group (R184), a destination that does keeps it from issuing
(R177). `vr` and `vw` are the vector registers read and written. -/
def State.issue (s : State) (c g pipe : Nat) (legal : Bool) (vr vw : List Nat) (body : State → Eff) :
    Host.Outcome State Fault Refusal :=
  if 384 ≤ c ∨ 16 ≤ g then .refused .noSuchUnit
  else if !s.groupReady c g then .next s
  else
    let x := s.grp c g
    if !s.inStream c g x.pc.toNat then .next (s.except c g Exc.fetch allLanes 0)
    else if !legal then .next (s.except c g Exc.illegal allLanes 0)
    else if vr.any x.awaits then .next (s.settle c g pipe (.park (.gatherReg (vr.filter x.awaits))))
    else if vw.any x.awaits then .next s
    else .next (s.settle c g pipe (body s))

end Sys2Proof.Machine
end

