-- ==== Sys2Proof/Machine/Route.lean ====
section
/-!
DEFINITION. Routes over the fabric (R403): which port leads toward a device, and the sending of service
tokens and refusals (R411, R414, R667).
-/

namespace Sys2Proof.Machine

open Sys2Proof

/-- Links of device `d` to other devices: (own port, peer, link). -/
def Fabric.neighbours (f : Fabric) (d : Nat) : List (Nat × Nat) :=
  f.links.filterMap fun l =>
    if l.devA = l.devB then none
    else if l.devA = d then some (l.portA, l.devB)
    else if l.devB = d then some (l.portB, l.devA)
    else none

/-- Sizes of the torus dimensions in order. -/
def Fabric.dims (f : Fabric) : List Nat := if f.topology = 2 then [f.x, f.y] else [f.x, f.y, f.z]

/-- Coordinate of device `d` in dimension `k`. -/
def Fabric.coord (f : Fabric) (d k : Nat) : Nat :=
  match k with
  | 0 => d % f.x
  | 1 => d / f.x % f.y
  | _ => d / (f.x * f.y) % f.z

/-- The first dimension in which two devices differ. -/
def Fabric.firstDim (f : Fabric) (a b : Nat) : Option Nat :=
  (List.range f.dims.length).find? fun k => f.coord a k ≠ f.coord b k

/-- Distance from coordinate `a` to `b` round a ring of `n` in the positive or negative way. -/
def ringWay (n : Nat) (positive : Bool) (a b : Nat) : Nat := if positive then (b + n - a) % n else (a + n - b) % n

/-- Neighbours of `a` that differ from it in dimension `k` alone. -/
def Fabric.along (f : Fabric) (a k : Nat) : List (Nat × Nat) :=
  (f.neighbours a).filter fun x =>
    (List.range f.dims.length).all fun m => if m = k then f.coord x.2 m ≠ f.coord a m else f.coord x.2 m = f.coord a m

/-- Of the ports to one neighbour, even STREAM numbers take the lower, odd ones the next (R403). -/
def pickPort (ports : List Nat) (stream : Nat) : Option Nat :=
  match sortBy id ports with
  | [] => none
  | [p] => some p
  | p :: q :: _ => some (if stream % 2 = 0 then p else q)

/-- The port through which device `a` sends toward device `b` (R403). -/
def Fabric.route (f : Fabric) (a b stream : Nat) : Option Nat :=
  if !(f.devices.any (·.number = b)) then none
  else if f.topology = 1 then pickPort (((f.neighbours a).filter (·.2 = b)).map (·.1)) stream
  else match f.firstDim a b with
  | none => none
  | some k =>
    let n := f.dims.getD k 1
    let way := decide (2 * ringWay n true (f.coord a k) (f.coord b k) ≤ n)
    let rem := ringWay n way (f.coord a k) (f.coord b k)
    let step (x : Nat × Nat) : Nat := ringWay n way (f.coord a k) (f.coord x.2 k)
    let ok := (f.along a k).filter fun x => decide (step x ≤ rem)
    let far := ok.foldl (fun m x => max m (step x)) 0
    pickPort ((ok.filter fun x => step x = far).map (·.1)) stream

/-- The port toward device `d` for a stream number, when it is up. -/
def State.portToward (s : State) (d stream : Nat) : Option Nat :=
  match s.fabric.route s.device d stream with
  | some p => if (s.port p).st = .up then some p else none
  | none => none

/-- Tokens of a class sent toward another device in dimension order. -/
def State.sendToward (s : State) (d : Nat) (c : TokClass) (ts : List Word64) : State :=
  match s.portToward d 0 with
  | some p => s.sendTokens p c ts
  | none => s

/-- CREDITS of a partition record (R504). -/
def recCredits (r : List Word64) : Nat := bf (r.getD 1 0) 31 24

/-- REFUSE to a device for a job, with its cause (R667). -/
def State.sendRefuse (s : State) (d : Nat) (job : Word32) (cause : Nat) : State :=
  s.sendToward d .e [token 0x1D (d * 2 ^ 46 + job.toNat * 2 ^ 14 + cause * 2 ^ 6)]

/-- The two tokens of SEM_POST (R416). -/
def semPostTokens (dev cl sem count src : Nat) (job : Word32) : List Word64 :=
  [token 0x12 (dev * 2 ^ 46 + cl / 12 * 2 ^ 44 + cl % 12 * 2 ^ 40 + sem * 2 ^ 32 + count * 2 ^ 16),
   token 0x12 (src * 2 ^ 46 + job.toNat * 2 ^ 14)]

/-- Places that a reservation takes (R410, R416). -/
def placesOf (x : SPlace) : List Nat := match x.kind with
  | .post _ _ _ => [x.place, x.place + 1]
  | _ => [x.place]

/-- Whether a message of class S is the one for which a place is reserved by a job's slot table. -/
def takesToken (k : SKind) (job : Word32) (m : List Word64) : Bool :=
  let t := m.headD 0
  let u := m.getD 1 0
  match k with
  | .arrive => bf t 63 56 = 0x10 && bf t 55 24 = job.toNat
  | .release => bf t 63 56 = 0x11 && bf t 55 24 = job.toNat
  | .slipSet => bf t 63 56 = 0x13 && bf t 55 24 = job.toNat
  | .post dev cl sem =>
    bf t 63 56 = 0x12 && bf t 55 46 = dev && bf t 45 44 = cl / 12 && bf t 43 40 = cl % 12 && bf t 39 32 = sem &&
      bf u 45 14 = job.toNat

/-- Class in which a device sends a job's SEM_POST on a port: S when the job's slot tables reserve places for that post there, else
E (R420). -/
def State.postClass (s : State) (job : Word32) (p : Nat) (ts : List Word64) : TokClass :=
  match (s.jobNumbered job).bind s.job with
  | none => .e
  | some b => match s.jobImage b with
    | none => .e
    | some img => if img.slots.any fun x => x.port = p && !x.receive && x.tokens.any fun y => takesToken y.kind job ts then .sl else .e

/-- A post for another device sent on its way: `viaE` when it has already left class S. -/
def State.sendPost (s : State) (dev : Nat) (job : Word32) (ts : List Word64) (viaE : Bool) : State :=
  match s.portToward dev 0 with
  | none => s
  | some p => s.sendTokens p (if viaE then .e else s.postClass job p ts) ts

end Sys2Proof.Machine
end

