-- ==== Sys2Proof/Machine/Tree.lean ====
section
/-!
DEFINITION. The Ceiling tree of a fabric (R423), which part of it a job uses, and the Ceilings of a job (R424 to
R426, R431).
-/

namespace Sys2Proof.Machine

open Sys2Proof

/-! ### Delays and the tree (R423) -/

/-- More ticks than any path of an admitted fabric. -/
def unreached : Nat := 2 ^ 20

/-- A link's delay: the greater of its two D_CTRL values. -/
def FabLink.delay (l : FabLink) : Nat := max l.dCtrlAB l.dCtrlBA

/-- Least delays improved along every link once. -/
def Fabric.relax (f : Fabric) (m : NMap Nat) : NMap Nat :=
  f.links.foldl (fun m l =>
    let a := NMap.get m l.devA unreached
    let b := NMap.get m l.devB unreached
    NMap.set (NMap.set m l.devA (min a (b + l.delay)) unreached) l.devB (min b (a + l.delay)) unreached) m

/-- Least delays from device `a` to every device. -/
def Fabric.delays (f : Fabric) (a : Nat) : NMap Nat := (List.range f.devices.length).foldl (fun m _ => f.relax m) [(a, 0)]

/-- Least delay between two devices. -/
def Fabric.delay (f : Fabric) (a b : Nat) : Nat := NMap.get (f.delays a) b unreached

/-- Greatest least delay from device `a` to any other. -/
def Fabric.reach (f : Fabric) (a : Nat) : Nat :=
  let m := f.delays a
  (f.devices.map fun d => NMap.get m d.number unreached).foldl max 0

/-- T_DIAM. -/
def Fabric.diam (f : Fabric) : Nat := (f.devices.map fun d => f.reach d.number).foldl max 0

/-- The root: the smallest reach, then the lowest device number. -/
def Fabric.root (f : Fabric) : Nat :=
  ((sortBy (fun d => f.reach d * 1024 + d) (f.devices.map (·.number))).head?).getD 0

/-- Ports of device `d`: own port, neighbour, the neighbour's port, the link's delay. -/
def Fabric.portsOf (f : Fabric) (d : Nat) : List (Nat × Nat × Nat × Nat) :=
  f.links.flatMap fun l =>
    if l.devA = l.devB then []
    else (if l.devA = d then [(l.portA, l.devB, l.portB, l.delay)] else []) ++
      (if l.devB = d then [(l.portB, l.devA, l.portA, l.delay)] else [])

/-- The port of device `d` toward its parent, with the parent and the parent's port: on a least-delay path to the
root, the lowest-numbered such port. -/
def Fabric.parent (f : Fabric) (d : Nat) : Option (Nat × Nat × Nat) :=
  if d = f.root then none
  else
    let m := f.delays f.root
    let ok := (f.portsOf d).filter fun x => decide (NMap.get m x.2.1 unreached + x.2.2.2 = NMap.get m d unreached)
    ((sortBy (·.1) ok).head?).map fun x => (x.1, x.2.1, x.2.2.1)

/-- FAB_CEILING of device `d` (R423). -/
def Fabric.tree (f : Fabric) (d : Nat) : CeilTree :=
  let kids := (f.portsOf d).filter fun x => (f.parent x.2.1).map (fun y => (y.1, y.2.1)) = some (x.2.2.1, d)
  { root := f.root, parent := ((f.parent d).map (·.1)).getD 0x1F,
    children := kids.foldl (fun b x => b ||| (1#16 <<< x.1)) 0, depth := f.delay f.root d, diam := f.diam }

/-- Whether device `x` lies in the subtree of device `n`; `m` bounds the way up. -/
def Fabric.under (f : Fabric) (n : Nat) : Nat → Nat → Bool
  | 0, x => x = n
  | m + 1, x => x = n || (match f.parent x with
    | some p => Fabric.under f n m p.2.1
    | none => false)

/-- Ports toward this device's children. -/
def State.childPorts (s : State) : List Nat := (List.range 16).filter fun p => bit s.ceil.children p

/-- Whether the subtree behind child port `p` holds one of some devices. -/
def State.childHolds (s : State) (p : Nat) (ds : List Nat) : Bool :=
  match (s.fabric.portsOf s.device).find? fun x => x.1 = p with
  | some x => ds.any fun d => s.fabric.under x.2.1 s.fabric.devices.length d
  | none => false

/-! ### A job's part of the tree -/

/-- Whether this device is the root of a job's Ceilings. -/
def State.isRoot (s : State) (img : Image) : Bool := s.soleDevice img || (s.fabricOn && s.ceil.root = s.device)

/-- T_DEPTH of a job (R426). -/
def State.jobDepth (s : State) (img : Image) : Nat :=
  if s.soleDevice img then 0 else (img.devices.map fun d => s.fabric.delay s.fabric.root d).foldl max 0

/-- Ports of the children that take part in a job (R425). -/
def State.jobKids (s : State) (img : Image) : List Nat :=
  if s.soleDevice img then [] else s.childPorts.filter fun p => s.childHolds p img.devices

/-- A named tick as a receiver or sender names it (R415). -/
def remainOf (tick now : Nat) : Nat := tick - now

/-! ### The Ceilings of a job -/

def Job.ceil (b : Job) (e : Word32) : Ceil := NMap.get b.ceils e.toNat Ceil.reset
def Job.modCeil (b : Job) (e : Word32) (f : Ceil → Ceil) : Job :=
  { b with ceils := NMap.set b.ceils e.toNat (f (b.ceil e)) Ceil.reset }

/-- The epoch of a job that a SEQ names: the first one, from the next to commit, of that residue (R424). -/
def Job.epochOfSeq (b : Job) (q : Nat) : Word32 := b.nextCommit + BitVec.ofNat 32 ((q + 256 - b.nextCommit.toNat % 256) % 256)

/-- CEIL_ARRIVE and CEIL_RELEASE (R416). -/
def ceilArriveToken (job e : Word32) (sus fail : Bool) : Word64 :=
  token 0x10 (job.toNat * 2 ^ 24 + e.toNat % 256 * 2 ^ 16 + b2n sus * 2 + b2n fail)
def ceilReleaseToken (job : Word32) (q remain : Nat) (sus fail : Bool) : Word64 :=
  token 0x11 (job.toNat * 2 ^ 24 + q * 2 ^ 16 + remain % 2 ^ 14 * 2 ^ 2 + b2n sus * 2 + b2n fail)

/-- The Ceiling of epoch `e` of job `j` sent on, once this device and every child that takes part have arrived: to
the parent, or at the root as the release down the tree (R425, R426). A device that holds no unit of the job counts itself arrived
(R424). A child whose subtree holds a failed device counts as arrived with FAIL; a root that is failed releases nothing (R431). -/
def State.tryArrive (s : State) (j : Nat) (e : Word32) : State :=
  match s.job j with
  | none => s
  | some b => match s.jobImage b with
    | none => s
    | some img =>
      let c := b.ceil e
      let kids := s.jobKids img
      let dead := kids.filter fun p => s.childHolds p s.failedDevs
      if !(c.own || (s.streams img).isEmpty) || c.sent || !(kids.all fun p => c.arrived.contains p || dead.contains p) then s
      else if s.isRoot img && b.failed then s
      else
        let fail := c.fail || !dead.isEmpty || b.failed
        if s.isRoot img then
          let depth := s.jobDepth img
          let s := s.sendAll kids .sl [ceilReleaseToken b.number (e.toNat % 256) depth c.suspect fail]
          s.modJob j fun b => b.modCeil e fun c => { c with sent := true, release := some (s.tick + depth, c.suspect, fail) }
        else
          let s := s.sendTokens s.ceil.parent .sl [ceilArriveToken b.number e c.suspect fail]
          s.modJob j fun b => b.modCeil e fun c => { c with sent := true }

/-- This device's arrivals that fall due (R424): 6 ticks after the commit point. -/
def State.arriveDue (s : State) (j : Nat) : State :=
  match s.job j with
  | none => s
  | some b =>
    (b.ceils.filter fun x => match x.2.due with
      | some t => decide (t ≤ s.tick)
      | none => false).foldl (fun s x =>
        let e := BitVec.ofNat 32 x.1
        (s.modJob j fun b => b.modCeil e fun c => { c with due := none, own := true }).tryArrive j e) s

/-- Every held Ceiling looked at again, as when a failure becomes known (R431). -/
def State.retryCeilings (s : State) : State :=
  s.heldJobs.foldl (fun s j => match s.job j with
    | none => s
    | some b => (b.ceils.map (·.1)).foldl (fun s k => s.tryArrive j (BitVec.ofNat 32 k)) s) s

/-- CEIL_ARRIVE (R425): a child's arrival, combined and passed on. A device that does not hold the job passes it to its parent as it
came: those on the way from the job's devices to the root hold it, units or not (`State.involved`). -/
def execCeilArrive (port : Nat) (t : Word64) (s : State) : Host.Outcome State Fault Refusal :=
  if 16 ≤ port then .refused .noSuchUnit
  else match s.jobNumbered (BitVec.ofNat 32 (bf t 55 24)) with
  | none => .next (if s.ceil.root = s.device then s else s.sendTokens s.ceil.parent .sl [t])
  | some j => match s.job j with
    | none => .next s
    | some b =>
      let e := b.epochOfSeq (bf t 23 16)
      let s := s.setJob j (some (b.modCeil e fun c =>
        { c with arrived := if c.arrived.contains port then c.arrived else c.arrived ++ [port], suspect := c.suspect || bit t 1,
                 fail := c.fail || bit t 0 }))
      .next (s.tryArrive j e)

/-- CEIL_RELEASE (R415, R426): the release forwarded down the tree with its REMAIN reduced by the link's delay, and
noted for the tick that it names. One whose tick has passed cannot be applied: the device fails for the job (DESIGN CHOICE, log
entry 123). -/
def execCeilRelease (port : Nat) (t : Word64) (s : State) : Host.Outcome State Fault Refusal :=
  if 16 ≤ port then .refused .noSuchUnit
  else
    let remain := bf t 15 2 - (s.port port).dCtrl
    let num : Word32 := BitVec.ofNat 32 (bf t 55 24)
    let s := s.sendAll s.childPorts .sl [ceilReleaseToken num (bf t 23 16) remain (bit t 1) (bit t 0)]
    match s.jobNumbered num with
    | none => .next s
    | some j => match s.job j with
      | none => .next s
      | some b =>
        if bf t 15 2 < (s.port port).dCtrl then .next (s.failOpen [j])
        else
          .next (s.setJob j (some (b.modCeil (b.epochOfSeq (bf t 23 16)) fun c =>
            { c with release := some (s.tick + remain, bit t 1, bit t 0) })))

end Sys2Proof.Machine
end

