-- ==== Sys2Proof/Machine/Flags.lean ====
section
/-!
DEFINITION. Floating point (chapter 03): values as exact dyadic numbers, one rounding to a format, the
operations of the vector pipes with the flags they set (R201), and the canonical fold (R125, R126).
-/

namespace Sys2Proof.Machine

open Sys2Proof

/-! ### Formats -/

/-- How a format uses its top codes: IEEE infinities and NaNs, E4M3's single NaN, or finite values only. -/
inductive TopCodes where
  | ieee
  | e4m3
  | finite
deriving DecidableEq, Repr

/-- A floating-point format: exponent bits, fraction bits, bias (R90, R91). -/
structure FFmt where
  eb : Nat
  mb : Nat
  bias : Nat
  top : TopCodes
deriving DecidableEq, Repr

def fp32 : FFmt := { eb := 8, mb := 23, bias := 127, top := .ieee }
def fp16 : FFmt := { eb := 5, mb := 10, bias := 15, top := .ieee }
def bf16 : FFmt := { eb := 8, mb := 7, bias := 127, top := .ieee }
def e5m2 : FFmt := { eb := 5, mb := 2, bias := 15, top := .ieee }
def e4m3 : FFmt := { eb := 4, mb := 3, bias := 7, top := .e4m3 }
def e3m2 : FFmt := { eb := 3, mb := 2, bias := 3, top := .finite }
def e2m3 : FFmt := { eb := 2, mb := 3, bias := 1, top := .finite }
def e2m1 : FFmt := { eb := 2, mb := 1, bias := 1, top := .finite }

/-- Code of the largest finite magnitude. -/
def FFmt.maxCode (f : FFmt) : Nat :=
  match f.top with
  | .ieee => (2 ^ f.eb - 1) * 2 ^ f.mb - 1
  | .e4m3 => 0x7E
  | .finite => 2 ^ (f.eb + f.mb) - 1

/-- Code of +∞ of an IEEE format. -/
def FFmt.infCode (f : FFmt) : Nat := (2 ^ f.eb - 1) * 2 ^ f.mb

/-- The canonical NaN of a format (R93). -/
def FFmt.nan (f : FFmt) : Nat :=
  match f.top with
  | .ieee => f.infCode + 2 ^ (f.mb - 1)
  | _ => 0x7F

/-- The sign bit's weight. -/
def FFmt.signBit (f : FFmt) : Nat := 2 ^ (f.eb + f.mb)

/-! ### Values -/

/-- The value of a code: NaN, an infinity, or ± sig × 2^exp. -/
inductive FVal where
  | nan
  | inf (neg : Bool)
  | fin (neg : Bool) (sig : Nat) (exp : Int)
deriving DecidableEq, Repr

/-- The value of a code of a format (R90 to R92). -/
def FFmt.decode (f : FFmt) (code : Nat) : FVal :=
  let neg := decide (code / f.signBit % 2 = 1)
  let m := code % f.signBit
  let e := m / 2 ^ f.mb
  let frac := m % 2 ^ f.mb
  let special :=
    match f.top with
    | .ieee => decide (e = 2 ^ f.eb - 1)
    | .e4m3 => decide (m = 0x7F)
    | .finite => false
  if special then (if f.top = .ieee ∧ frac = 0 then .inf neg else .nan)
  else if e = 0 then .fin neg frac (1 - (f.bias : Int) - f.mb)
  else .fin neg (2 ^ f.mb + frac) ((e : Int) - f.bias - f.mb)

/-- `sig × 2^sh` rounded to an integer, to nearest with ties to even (R94). -/
def roundShift (sig : Nat) (sh : Int) : Nat :=
  if 0 ≤ sh then sig * 2 ^ sh.toNat
  else
    let k := (-sh).toNat
    let q := sig / 2 ^ k
    let r := sig % 2 ^ k
    if 2 * r > 2 ^ k ∨ (2 * r = 2 ^ k ∧ q % 2 = 1) then q + 1 else q

/-- `sig × 2^sh` rounded toward zero. -/
def truncShift (sig : Nat) (sh : Int) : Nat := if 0 ≤ sh then sig * 2 ^ sh.toNat else sig / 2 ^ (-sh).toNat

/-- Magnitude code of `sig × 2^exp` rounded to nearest even, before any check for overflow (R92, R94). -/
def FFmt.round (f : FFmt) (sig : Nat) (exp : Int) : Nat :=
  if sig = 0 then 0
  else
    let low : Int := 1 - (f.bias : Int) - f.mb
    let q := max (exp + (Nat.log2 sig : Int) - f.mb) low
    (q - low).toNat * 2 ^ f.mb + roundShift sig (exp - q)

/-- Code with a sign. -/
def FFmt.signed (f : FFmt) (neg : Bool) (code : Nat) : Nat := if neg then f.signBit + code else code

/-! ### Results and their flags -/

/-- A result's code and the events of DBG_CORE_FLAGS that it sets. -/
structure FRes where
  code : Nat
  overflow : Bool := false
  nanMade : Bool := false
  clamped : Bool := false
  invalid : Bool := false
deriving DecidableEq, Repr

/-- Bits of DBG_CORE_FLAGS that a result sets. -/
def FRes.flags (r : FRes) : BitVec 5 :=
  BitVec.ofNat 5 (b2n r.overflow + 2 * b2n r.nanMade + 4 * b2n r.clamped + 8 * b2n r.invalid)

/-- A value as a result of an IEEE format, one rounding; a finite value that rounds beyond the range becomes an
infinity and sets OVERFLOW (R94, R201). `made` says that a NaN came from operands that held none. -/
def FFmt.result (f : FFmt) (v : FVal) (made : Bool) : FRes :=
  match v with
  | .nan => { code := f.nan, nanMade := made }
  | .inf neg => { code := f.signed neg f.infCode }
  | .fin neg sig exp =>
    let c := f.round sig exp
    if c > f.maxCode then { code := f.signed neg f.infCode, overflow := true } else { code := f.signed neg c }

/-! ### Exact operations -/

/-- A finite value as an integer multiple of 2^e, for an `e` at most its exponent. -/
def scaleTo (neg : Bool) (sig : Nat) (exp e : Int) : Int :=
  let m : Int := (sig * 2 ^ (exp - e).toNat : Nat)
  if neg then -m else m

/-- The exact value of an integer times 2^e; zero takes the given sign. -/
def ofInt (z : Bool) (i e : Int) : FVal := if i = 0 then .fin z 0 0 else .fin (decide (i < 0)) i.natAbs e

/-- Exact sum. A zero sum of nonzero values is +0, of two zeros of one sign that zero (R94). -/
def FVal.add : FVal → FVal → FVal
  | .nan, _ => .nan
  | _, .nan => .nan
  | .inf a, .inf b => if a = b then .inf a else .nan
  | .inf a, _ => .inf a
  | _, .inf b => .inf b
  | .fin n1 s1 e1, .fin n2 s2 e2 =>
    let e := min e1 e2
    ofInt (n1 && n2 && decide (s1 = 0) && decide (s2 = 0)) (scaleTo n1 s1 e1 e + scaleTo n2 s2 e2 e) e

/-- Exact product. -/
def FVal.mul : FVal → FVal → FVal
  | .nan, _ => .nan
  | _, .nan => .nan
  | .inf a, .inf b => .inf (a != b)
  | .inf a, .fin b s _ => if s = 0 then .nan else .inf (a != b)
  | .fin a s _, .inf b => if s = 0 then .nan else .inf (a != b)
  | .fin a s1 e1, .fin b s2 e2 => .fin (a != b) (s1 * s2) (e1 + e2)

/-- The sign inverted. -/
def FVal.neg : FVal → FVal
  | .nan => .nan
  | .inf a => .inf (!a)
  | .fin a s e => .fin (!a) s e

def FVal.isNan : FVal → Bool
  | .nan => true
  | _ => false

def FVal.isZero : FVal → Bool
  | .fin _ s _ => decide (s = 0)
  | _ => false

def FVal.isNeg : FVal → Bool
  | .nan => false
  | .inf a => a
  | .fin a _ _ => a

/-- Quotient with enough bits for one rounding: a last odd bit stands for a nonzero remainder. -/
def FVal.div : FVal → FVal → FVal
  | .nan, _ => .nan
  | _, .nan => .nan
  | .inf _, .inf _ => .nan
  | .inf a, .fin b _ _ => .inf (a != b)
  | .fin a _ _, .inf b => .fin (a != b) 0 0
  | .fin a s1 e1, .fin b s2 e2 =>
    if s2 = 0 then (if s1 = 0 then .nan else .inf (a != b))
    else
      let n := s1 * 2 ^ 64
      .fin (a != b) (2 * (n / s2) + b2n (n % s2 ≠ 0)) (e1 - e2 - 65)

/-- Integer square root by `n` bits from the top. -/
def isqrtFrom : Nat → Nat → Nat → Nat
  | 0, _, r => r
  | n + 1, v, r => isqrtFrom n v (if (r + 2 ^ n) * (r + 2 ^ n) ≤ v then r + 2 ^ n else r)

/-- Square root with a sticky last bit. -/
def FVal.sqrt : FVal → FVal
  | .nan => .nan
  | .inf a => if a then .nan else .inf false
  | .fin a s e =>
    if s = 0 then .fin a 0 0
    else if a then .nan
    else
      let odd := decide (e % 2 ≠ 0)
      let v := s * 2 ^ (64 + b2n odd)
      let r := isqrtFrom 64 v 0
      .fin false (2 * r + b2n (r * r ≠ v)) ((e - b2n odd) / 2 - 33)

/-- ln 2 in units of 2^-256, rounded down. -/
def ln2P : Nat := 0xb17217f7d1cf79abc9e3b39803f2f6af40f343267298b62d8a0d175b8baafa2b

/-- The terms y^k / k! from the `k`-th on, in units of 2^-256, `n` of them (log entry 12). -/
def expTerms : Nat → Nat → Nat → Nat → Nat
  | 0, _, _, _ => 0
  | n + 1, k, t, y => t + expTerms n (k + 1) (t * y / 2 ^ 256 / (k + 1)) y

/-- 2^x (R217): exact for an integer x, else correctly rounded from 256 fraction bits (log entry 12). -/
def FVal.exp2 : FVal → FVal
  | .nan => .nan
  | .inf a => if a then .fin false 0 0 else .inf false
  | .fin a s e =>
    let x : Int := if a then -s else s
    if 0 ≤ e ∨ s = 0 then
      let n := x * 2 ^ e.toNat
      .fin false 1 (max (-2000) (min 2000 n))
    else
      let d : Nat := 2 ^ (-e).toNat
      let n := x / d
      let f := (x % d).toNat
      if f = 0 then .fin false 1 (max (-2000) (min 2000 n))
      else
        let y := f * ln2P / d
        .fin false (2 * expTerms 80 0 (2 ^ 256) y + 1) (max (-2000) (min 2000 n) - 257)

/-- The terms z^(2k+1) / (2k+1), in units of 2^-256, `n` of them. -/
def atanhTerms : Nat → Nat → Nat → Nat → Nat
  | 0, _, _, _ => 0
  | n + 1, k, t, z2 => t / (2 * k + 1) + atanhTerms n (k + 1) (t * z2 / 2 ^ 256) z2

/-- log2 x (R217), correctly rounded as `FVal.exp2`. -/
def FVal.log2 : FVal → FVal
  | .nan => .nan
  | .inf a => if a then .nan else .inf false
  | .fin a s e =>
    if s = 0 then .inf true
    else if a then .nan
    else
      let l := Nat.log2 s
      let n : Int := e + l
      if s = 2 ^ l then (if n = 0 then .fin false 0 0 else .fin (decide (n < 0)) n.natAbs 0)
      else
        let z := (s - 2 ^ l) * 2 ^ 256 / (s + 2 ^ l)
        let ln := 2 * atanhTerms 90 0 z (z * z / 2 ^ 256)
        let v : Int := n * 2 ^ 256 + (ln * 2 ^ 256 / ln2P : Nat)
        .fin (decide (v < 0)) (2 * v.natAbs + 1) (-257)

/-! ### Operations on codes -/

/-- A binary operation rounded once. -/
def FFmt.op2 (f : FFmt) (op : FVal → FVal → FVal) (a b : Nat) : FRes :=
  let x := f.decode a
  let y := f.decode b
  f.result (op x y) (!x.isNan && !y.isNan)

/-- A unary operation rounded once. -/
def FFmt.op1 (f : FFmt) (op : FVal → FVal) (a : Nat) : FRes :=
  let x := f.decode a
  f.result (op x) (!x.isNan)

/-- Fused multiply-add with one rounding. -/
def FFmt.fma (f : FFmt) (a b c : Nat) : FRes :=
  let x := f.decode a
  let y := f.decode b
  let z := f.decode c
  f.result ((x.mul y).add z) (!x.isNan && !y.isNan && !z.isNan)

/-- Order of two values that are not NaN; −0 and +0 are equal. -/
def FVal.cmp (x y : FVal) : Ordering :=
  match x, y with
  | .inf a, .inf b => if a = b then .eq else if a then .lt else .gt
  | .inf a, _ => if a then .lt else .gt
  | _, .inf b => if b then .gt else .lt
  | .fin n1 s1 e1, .fin n2 s2 e2 =>
    let e := min e1 e2
    compare (scaleTo n1 s1 e1 e) (scaleTo n2 s2 e2 e)
  | _, _ => .eq

/-- minimumNumber: a NaN yields to a number; −0 is less than +0. -/
def FFmt.minNum (f : FFmt) (a b : Nat) : FRes :=
  let x := f.decode a
  let y := f.decode b
  if x.isNan then (if y.isNan then { code := f.nan } else { code := b })
  else if y.isNan then { code := a }
  else match x.cmp y with
    | .lt => { code := a }
    | .gt => { code := b }
    | .eq => { code := if x.isNeg then a else b }

/-- maximumNumber: +0 is greater than −0. -/
def FFmt.maxNum (f : FFmt) (a b : Nat) : FRes :=
  let x := f.decode a
  let y := f.decode b
  if x.isNan then (if y.isNan then { code := f.nan } else { code := b })
  else if y.isNan then { code := a }
  else match x.cmp y with
    | .gt => { code := a }
    | .lt => { code := b }
    | .eq => { code := if x.isNeg then b else a }

/-- The float conditions of COND. -/
def FFmt.cond (f : FFmt) (cond a b : Nat) : Bool :=
  let x := f.decode a
  let y := f.decode b
  if x.isNan || y.isNan then cond = 1 || cond = 6
  else match cond with
    | 0 => x.cmp y = .eq
    | 1 => x.cmp y ≠ .eq
    | 2 => x.cmp y = .lt
    | 3 => x.cmp y ≠ .gt
    | _ => false

/-- Absolute value and negation: the sign bit; a NaN gives the canonical NaN. -/
def FFmt.abs (f : FFmt) (a : Nat) : FRes := { code := if (f.decode a).isNan then f.nan else a % f.signBit }
def FFmt.negate (f : FFmt) (a : Nat) : FRes :=
  { code := if (f.decode a).isNan then f.nan else (a + f.signBit) % (2 * f.signBit) }

/-! ### The canonical fold (R125, R126) -/

/-- FP32 addition. -/
def add32 (a b : Nat) : FRes := fp32.op2 FVal.add a b

/-- Events of two results together, with the second's code. -/
def FRes.join (a b : FRes) : FRes :=
  { code := b.code, overflow := a.overflow || b.overflow, nanMade := a.nanMade || b.nanMade,
    clamped := a.clamped || b.clamped, invalid := a.invalid || b.invalid }

/-- The largest power of two less than `n`, for n > 1. -/
def belowPow (n : Nat) : Nat := 2 ^ Nat.log2 (n - 1)

/-- fold over a list of FP32 codes (R125); `k` bounds the depth. -/
def foldTree : Nat → List Nat → FRes
  | _, [] => { code := 0 }
  | _, [a] => { code := a }
  | 0, _ => { code := 0 }
  | k + 1, l =>
    let m := belowPow l.length
    let x := foldTree k (l.take m)
    let y := foldTree k (l.drop m)
    (x.join y).join (add32 x.code y.code)

/-- A code with the canonical NaN in the place of any other (R93). -/
def FFmt.canon (f : FFmt) (c : Nat) : Nat := if (f.decode c).isNan then f.nan else c

/-- Reduction of FP32 inputs in ascending order (R126); none gives +0 (R219), one NaN the canonical NaN (R93). -/
def reduce32 (l : List Nat) : FRes :=
  let r := foldTree 64 l
  { r with code := fp32.canon r.code }

end Sys2Proof.Machine
end

