-- ==== Sys2Proof/Machine/Formats.lean ====
section
/-!
DEFINITION. Conversions between element formats (R114 to R117) and the encoding and decoding of MX and
P4-32 blocks (R97 to R109, R115, R642, R650).
-/

namespace Sys2Proof.Machine

open Sys2Proof

/-! ### Element codes of cv.cvt -/

/-- A format that a lane converts from or to. -/
inductive Elem where
  | flt (f : FFmt)
  | int (w : Nat)
deriving DecidableEq, Repr

/-- The element format of a FROM or TO code. -/
def elemOf : Nat → Option Elem
  | 0 => some (.flt fp32)
  | 1 => some (.flt fp16)
  | 2 => some (.flt bf16)
  | 3 => some (.flt e4m3)
  | 4 => some (.flt e5m2)
  | 5 => some (.int 32)
  | 6 => some (.int 8)
  | 7 => some (.int 4)
  | _ => none

/-- An integer as a value. -/
def intVal (i : Int) : FVal := .fin (decide (i < 0)) i.natAbs 0

/-- The value of a lane's low bits in a format; the upper bits are ignored. -/
def Elem.value (e : Elem) (lane : Nat) : FVal :=
  match e with
  | .flt f => f.decode (lane % (2 * f.signBit))
  | .int w => intVal (signed w lane)

/-- A value converted to a floating format in saturating or non-saturating mode (R114, R116). -/
def FFmt.convert (f : FFmt) (sat : Bool) (v : FVal) : FRes :=
  match v with
  | .nan => { code := f.nan }
  | .inf neg =>
    match f.top with
    | .ieee => { code := f.signed neg f.infCode }
    | _ => if sat then { code := f.signed neg f.maxCode } else { code := f.nan, nanMade := true }
  | .fin neg sig exp =>
    let c := f.round sig exp
    if c ≤ f.maxCode then { code := f.signed neg c }
    else if sat then { code := f.signed neg f.maxCode, clamped := true }
    else match f.top with
      | .ieee => { code := f.signed neg f.infCode, overflow := true }
      | _ => { code := f.nan, nanMade := true }

/-- A value converted to a `w`-bit integer: rounded, clamped in both modes; NaN gives 0 (R114). -/
def toInt (w : Nat) (rtz : Bool) (v : FVal) : FRes :=
  let hi : Nat := 2 ^ (w - 1) - 1
  match v with
  | .nan => { code := 0, invalid := true }
  | .inf neg => { code := if neg then 2 ^ (w - 1) else hi }
  | .fin neg sig exp =>
    let m := if rtz then truncShift sig exp else roundShift sig exp
    if neg then
      if m ≤ 2 ^ (w - 1) then { code := wrapNat w (-(m : Int)) } else { code := 2 ^ (w - 1), clamped := true }
    else if m ≤ hi then { code := m } else { code := hi, clamped := true }

/-- cv.cvt on one lane (R114 to R117). -/
def convertLane (src dst : Elem) (sat rtz : Bool) (lane : Nat) : FRes :=
  match dst with
  | .flt f => f.convert sat (src.value lane)
  | .int w => toInt w rtz (src.value lane)

/-! ### Block formats -/

/-- Element type of a block: a floating grid, an integer grid of `w` bits with unit 2^u. -/
inductive Grid where
  | flt (f : FFmt)
  | int (w : Nat) (u : Int)
deriving DecidableEq, Repr

/-- Element bits of a block's grid. -/
def Grid.bits : Grid → Nat
  | .flt f => f.eb + f.mb + 1
  | .int w _ => w

/-- Value of an element code. -/
def Grid.value (g : Grid) (code : Nat) : FVal :=
  match g with
  | .flt f => f.decode code
  | .int w u => match intVal (signed w code) with
    | .fin n s e => .fin n s (e + u)
    | v => v

/-- An element rounded to its grid, ties to even, clamped to the largest magnitude (`lowMin` allows the most
negative integer code); a zero takes the all-zero code (R109, R115, R642). Second: whether it was clamped. -/
def Grid.quantize (g : Grid) (lowMin : Bool) (neg : Bool) (sig : Nat) (exp : Int) : Nat × Bool :=
  match g with
  | .flt f =>
    let c := f.round sig exp
    let k := min c f.maxCode
    (if k = 0 then 0 else f.signed neg k, decide (c > f.maxCode))
  | .int w u =>
    let m := roundShift sig (exp - u)
    let top := if neg && lowMin then 2 ^ (w - 1) else 2 ^ (w - 1) - 1
    let k := min m top
    (if neg then wrapNat w (-(k : Int)) else k, decide (m > top))

/-- Array codes 0x4 to 0xA as block formats: the MX grids (R134). -/
def mxGrid : Nat → Option Grid
  | 4 => some (.flt e4m3)
  | 5 => some (.flt e5m2)
  | 6 => some (.flt e3m2)
  | 7 => some (.flt e2m3)
  | 8 => some (.flt e2m1)
  | 9 => some (.int 8 (-6))
  | _ => none

/-- emax of an MX element type (R115). -/
def mxEmax : Nat → Nat
  | 4 => 8
  | 5 => 15
  | 6 => 4
  | 7 => 2
  | 8 => 2
  | _ => 0

/-- The two grids of P4-32: E2M1 (T = 0), INT4 (T = 1) (R101). -/
def p4Grid (t : Nat) : Grid := if t = 0 then .flt e2m1 else .int 4 0

/-- Bytes of an element plane's block (R99, R105). -/
def planeBytes (code : Nat) : Nat :=
  match mxGrid code with
  | some g => 4 * g.bits
  | none => 16

/-- The element plane of a block as a number: element i at bits [b(i+1)-1 : b i] (R96, R100). -/
def packPlane (b : Nat) (codes : List Nat) : Nat := codes.foldr (fun c acc => c + 2 ^ b * acc) 0

/-- Element `i` of a plane. -/
def planeElem (b plane i : Nat) : Nat := plane / 2 ^ (b * i) % 2 ^ b

/-- An encoded block: scale or header byte, element plane, and the events of R650. -/
structure BlockRes where
  head : Nat
  plane : Nat
  nanMade : Bool := false
  clamped : Bool := false
deriving DecidableEq, Repr

/-- Whether a value is a NaN or an infinity. -/
def FVal.special : FVal → Bool
  | .fin _ _ _ => false
  | _ => true

/-- floor(log2) of a nonzero magnitude. -/
def FVal.floorLog2 : FVal → Int
  | .fin _ s e => e + (Nat.log2 s : Int)
  | _ => 0

/-- The greatest floor(log2 |x|) of nonzero values of a block, if any. -/
def blockMax (xs : List FVal) : Option Int :=
  xs.foldl (fun m x => if x.isZero then m else match m with
    | none => some x.floorLog2
    | some k => some (max k x.floorLog2)) none

/-- Elements of a block on a grid under scale 2^e. -/
def gridBlock (g : Grid) (lowMin : Bool) (e : Int) (xs : List FVal) : List (Nat × Bool) :=
  xs.map fun x => match x with
    | .fin n s ex => g.quantize lowMin n s (ex - e)
    | _ => (0, false)

/-- The squared error of R109 in FP32: err = round(err + round((x - q 2^e)^2)). -/
def gridError (g : Grid) (e : Int) (xs : List FVal) (qs : List (Nat × Bool)) : Nat :=
  (xs.zip qs).foldl (fun err p =>
    let q := match g.value p.2.1 with
      | .fin n s ex => FVal.fin n s (ex + e)
      | v => v
    let d := p.1.add q.neg
    (add32 err (fp32.result (d.mul d) false).code).code) 0

/-- P4-32 encoding of 32 values (R109, R642, R650). -/
def encodeP4 (sat : Bool) (xs : List FVal) : BlockRes :=
  if xs.any FVal.special then { head := 0x7F, plane := 0, nanMade := !xs.any FVal.isNan }
  else match blockMax xs with
  | none => { head := 0, plane := 0 }
  | some l =>
    let e0 := l - 2 + 63
    if e0 > 126 ∧ !sat then { head := 0x7F, plane := 0, nanMade := true }
    else
      let e := max 1 (min 126 e0)
      let q0 := gridBlock (p4Grid 0) true (e - 63) xs
      let q1 := gridBlock (p4Grid 1) true (e - 63) xs
      let r0 := gridError (p4Grid 0) (e - 63) xs q0
      let r1 := gridError (p4Grid 1) (e - 63) xs q1
      let t := if r0 ≤ r1 then 0 else 1
      let q := if t = 0 then q0 else q1
      if q.all fun x => x.1 = 0 then { head := 0, plane := 0, clamped := e0 > 126 }
      else { head := t * 128 + e.toNat, plane := packPlane 4 (q.map (·.1)), clamped := e0 > 126 || q.any (·.2) }

/-- MX encoding of 32 values with element code 0x4 to 0x9 (R115, R642, R650). -/
def encodeMx (code : Nat) (g : Grid) (sat : Bool) (xs : List FVal) : BlockRes :=
  if xs.any FVal.special then { head := 0xFF, plane := 0, nanMade := !xs.any FVal.isNan }
  else match blockMax xs with
  | none => { head := 0, plane := 0 }
  | some l =>
    let s0 := l - mxEmax code + 127
    if s0 > 254 ∧ !sat then { head := 0xFF, plane := 0, nanMade := true }
    else
      let s := max 0 (min 254 s0)
      let q := gridBlock g false (s - 127) xs
      if q.all fun x => x.1 = 0 then { head := 0, plane := 0, clamped := s0 > 254 }
      else { head := s.toNat, plane := packPlane g.bits (q.map (·.1)), clamped := s0 > 254 || q.any (·.2) }

/-- A block's element decoded: its value, or none for an element of an invalid P4-32 block (R97, R102 to
R104). -/
def decodeElem (code head plane i : Nat) : Option FVal :=
  match mxGrid code with
  | some g =>
    if head = 0xFF then some .nan
    else some (match g.value (planeElem g.bits plane i) with
      | .fin n s e => .fin n s (e + head - 127)
      | v => v)
  | none =>
    let e := head % 128
    if e = 127 then none
    else if e = 0 then some (.fin false 0 0)
    else some (match (p4Grid (head / 128)).value (planeElem 4 plane i) with
      | .fin n s ex => .fin n s (ex + e - 63)
      | v => v)

end Sys2Proof.Machine
end

