-- ==== Sys2Proof/Machine/Scalar.lean ====
section
/-!
DEFINITION. Scalar ALU instructions, class 0x0 (R218): latency S, pipe 0, group-level.
-/

namespace Sys2Proof.Machine

open Sys2Proof

/-- Second operand of an integer scalar instruction (R214). -/
def Grp.srcB (x : Grp) (w : IWord) : SReg := if fI w then sclean (imm64 w) else x.sreg (fSrc2 w)

/-- Poisoned operands read, `n` of them (R173, R201, R526). -/
def State.seeIf (s : State) (c g : Nat) (p : Bool) (n : Nat) : State := if p then s.seePoison c g n else s

/-- Effect of a scalar instruction whose result is `v`, poisoned when an operand it reads is, `n` of them (R173). -/
def scalarResult (c g : Nat) (w : IWord) (v : Word64) (poison : Bool) (n : Nat) (s : State) : Eff :=
  .next ((s.seeIf c g poison n).modGrp c g fun x => x.setSreg (fDst w) { val := v, poison := poison })

/-- An instruction sd = f(sa, sb or IMM32); `mod` is the mask of MOD bits it uses. -/
def scalarOp2 (f : IWord → Word64 → Word64 → Word64) (mod : Nat) (c g : Nat) (w : IWord) (s : State) :
    Host.Outcome State Fault Refusal :=
  s.issue c g 0 (plainGroup w && regs w 32 32 && lowRI w 32 && modOnly w mod) [] [] fun s =>
    let a := (s.grp c g).sreg (fSrc1 w)
    let b := (s.grp c g).srcB w
    scalarResult c g w (f w a.val b.val) (a.poison || b.poison) (b2n a.poison + b2n b.poison) s

/-- Integer conditions of COND 0x0 to 0x5. -/
def intCond {n : Nat} (cond : Nat) (a b : BitVec n) : Bool :=
  match cond with
  | 0 => a == b
  | 1 => a != b
  | 2 => a.slt b
  | 3 => a.sle b
  | 4 => a.ult b
  | 5 => a.ule b
  | _ => false

/-- Minimum and maximum, unsigned with U = 1. -/
def minOf {n : Nat} (u : Bool) (a b : BitVec n) : BitVec n := if (if u then a.ult b else a.slt b) then a else b
def maxOf {n : Nat} (u : Bool) (a b : BitVec n) : BitVec n := if (if u then b.ult a else b.slt a) then a else b

/-- S_ADD (R218): sd = sa + sb. The all-zero word writes s0 and so does nothing (R207). -/
def execSAdd (c g : Nat) (w : IWord) (s : State) : Host.Outcome State Fault Refusal :=
  scalarOp2 (fun _ a b => a + b) 0x10 c g w s
/-- S_SUB (R218). -/
def execSSub (c g : Nat) (w : IWord) (s : State) : Host.Outcome State Fault Refusal :=
  scalarOp2 (fun _ a b => a - b) 0x10 c g w s
/-- S_MUL (R218): the low 64 bits. -/
def execSMul (c g : Nat) (w : IWord) (s : State) : Host.Outcome State Fault Refusal :=
  scalarOp2 (fun _ a b => a * b) 0x10 c g w s
/-- S_AND (R218). -/
def execSAnd (c g : Nat) (w : IWord) (s : State) : Host.Outcome State Fault Refusal :=
  scalarOp2 (fun _ a b => a &&& b) 0x10 c g w s
/-- S_OR (R218). -/
def execSOr (c g : Nat) (w : IWord) (s : State) : Host.Outcome State Fault Refusal :=
  scalarOp2 (fun _ a b => a ||| b) 0x10 c g w s
/-- S_XOR (R218). -/
def execSXor (c g : Nat) (w : IWord) (s : State) : Host.Outcome State Fault Refusal :=
  scalarOp2 (fun _ a b => a ^^^ b) 0x10 c g w s
/-- S_SHL (R216, R218): the low 6 bits of the amount. -/
def execSShl (c g : Nat) (w : IWord) (s : State) : Host.Outcome State Fault Refusal :=
  scalarOp2 (fun _ a b => a <<< (b.toNat % 64)) 0x10 c g w s
/-- S_SHR (R216, R218). -/
def execSShr (c g : Nat) (w : IWord) (s : State) : Host.Outcome State Fault Refusal :=
  scalarOp2 (fun _ a b => a >>> (b.toNat % 64)) 0x10 c g w s
/-- S_SRA (R216, R218). -/
def execSSra (c g : Nat) (w : IWord) (s : State) : Host.Outcome State Fault Refusal :=
  scalarOp2 (fun _ a b => a.sshiftRight (b.toNat % 64)) 0x10 c g w s
/-- S_MIN (R218): unsigned with U = 1. -/
def execSMin (c g : Nat) (w : IWord) (s : State) : Host.Outcome State Fault Refusal :=
  scalarOp2 (fun w a b => minOf (fU w) a b) 0x18 c g w s
/-- S_MAX (R218). -/
def execSMax (c g : Nat) (w : IWord) (s : State) : Host.Outcome State Fault Refusal :=
  scalarOp2 (fun w a b => maxOf (fU w) a b) 0x18 c g w s

/-- S_CMP (R218): sd = 1 when COND holds, else 0. -/
def execSCmp (c g : Nat) (w : IWord) (s : State) : Host.Outcome State Fault Refusal :=
  s.issue c g 0 (fGuard w = 0 && decide (fCond w < 6) && regs w 32 32 && lowRI w 32 && modOnly w 0x10) [] [] fun s =>
    let a := (s.grp c g).sreg (fSrc1 w)
    let b := (s.grp c g).srcB w
    scalarResult c g w (BitVec.ofNat 64 (b2n (intCond (fCond w) a.val b.val))) (a.poison || b.poison) (b2n a.poison + b2n b.poison) s

/-- S_LIH (R218): sd[63:32] = IMM32, sd[31:0] kept. -/
def execSLih (c g : Nat) (w : IWord) (s : State) : Host.Outcome State Fault Refusal :=
  s.issue c g 0 (plainGroup w && regs w 32 1 && fMod w = 0x10) [] [] fun s =>
    let d := (s.grp c g).sreg (fDst w)
    scalarResult c g w (BitVec.ofNat 64 (fImm w * 2 ^ 32 + bf d.val 31 0)) d.poison 1 s

/-- The identity value that a selector names (chapter 05). In a replay slip a replay core reads those of the
suspect core and the replayed step (R539, R540). -/
def State.identity (s : State) (c g sel pred : Nat) : Word64 :=
  let x := s.grp c g
  match sel with
  | 0 => BitVec.ofNat 64 g
  | 1 => BitVec.ofNat 64 (coreRef s.device (match x.job with | some j => s.idCore j c | none => c)).toNat
  | 2 => BitVec.ofNat 64 (s.grpNumber x).toNat
  | 3 => BitVec.ofNat 64 (match x.job with
    | some j => match s.job j with
      | some b => match b.slip with
        | some (.replay e) => e.toNat + b2n x.committed
        | _ => (s.grpEpoch x).toNat
      | none => 0
    | none => 0)
  | 4 => BitVec.ofNat 64 (match x.job with
    | some j => match s.job j with
      | some b => b.now
      | none => 0
    | none => 0)
  | 5 => s.stamp
  | 6 => BitVec.ofNat 64 x.mask.toNat
  | _ => BitVec.ofNat 64 (x.preg pred).toNat

/-- S_ID (R218): the identity value selected by IMM32[7:0]. -/
def execSId (c g : Nat) (w : IWord) (s : State) : Host.Outcome State Fault Refusal :=
  let sel := bf w 7 0
  s.issue c g 0 (plainGroup w && regs w 32 1 && fMod w = 0x10 &&
      (if sel = 7 then bf w 31 11 = 0 else decide (sel < 7) && bf w 31 8 = 0)) [] [] fun s =>
    let t := if sel = 5 then s.used 1 else s
    .next (t.modGrp c g fun x => x.setSreg (fDst w) (sclean (s.identity c g sel (bf w 10 8))))

/-- S_FLAGS (R201, R218): sd = the group's flags, then the flags set in IMM32[4:0] are cleared. -/
def execSFlags (c g : Nat) (w : IWord) (s : State) : Host.Outcome State Fault Refusal :=
  s.issue c g 0 (plainGroup w && regs w 32 1 && fMod w = 0x10 && bf w 31 5 = 0) [] [] fun s =>
    .next (s.modGrp c g fun x =>
      { x.setSreg (fDst w) (sclean (BitVec.ofNat 64 x.flags.toNat)) with flags := x.flags &&& ~~~(BitVec.ofNat 5 (bf w 4 0)) })

/-- S_VGET (R218): sd = lane IMM32[4:0] of va, zero-extended, active or not. -/
def execSVget (c g : Nat) (w : IWord) (s : State) : Host.Outcome State Fault Refusal :=
  s.issue c g 0 (plainGroup w && regs w 32 64 && fMod w = 0x10 && bf w 31 5 = 0) [fSrc1 w] [] fun s =>
    let v := (s.grp c g).vlane (fSrc1 w) (bf w 4 0)
    scalarResult c g w (BitVec.ofNat 64 v.val.toNat) v.poison 1 s

end Sys2Proof.Machine
end

