-- ==== Sys2Proof/Machine/VectorInt.lean ====
section
/-!
DEFINITION. Vector integer instructions, class 0x1 (R218, R219): latency V, pipe 0 or 1, lane-wise INT32.
-/

namespace Sys2Proof.Machine

open Sys2Proof

/-- A lane that holds `v`, not poisoned. -/
def vclean (v : Word32) : VLane := { val := v, poison := false }

/-- Second vector operand of lane `i`: a register, or IMM32 (R214). -/
def Grp.vecB (x : Grp) (w : IWord) (i : Nat) : VLane := if fI w then vclean (imm32 w) else x.vlane (fSrc2 w) i

/-- Vector registers that SRC1 and, without the I bit, SRC2 name. -/
def vsrcs (w : IWord) : List Nat := if fI w then [fSrc1 w] else [fSrc1 w, fSrc2 w]

/-- How many values poisoned in lane `i` some registers give. -/
def poisonedIn (x : Grp) (rs : List Nat) (i : Nat) : Nat := sumN (rs.map fun r => b2n (x.vlane r i).poison)

/-- Effect of a lane-wise instruction that writes a vector register: `f` gives each active lane's result, `n` the poisoned values
that each active lane reads. -/
def lanesResult (c g : Nat) (w : IWord) (poisonRead : Bool) (n : Nat → Nat) (f : Grp → Nat → VLane) (s : State) : Eff :=
  let x := s.grp c g
  let ls := lanesOf (x.active (fGuard w))
  .next ((s.seeIf c g poisonRead (sumN (ls.map n))).modGrp c g fun y => y.setLanes (fDst w) ls (f x))

/-- A lane-wise vd = f(va, vb or IMM32) (R212, R173); `mod` is the mask of MOD bits it uses. -/
def vecOp2 (f : IWord → Word32 → Word32 → Word32) (mod : Nat) (c g : Nat) (w : IWord) (s : State) :
    Host.Outcome State Fault Refusal :=
  s.issue c g 2 (fCond w = 0 && lowRI w 64 && modOnly w mod) (vsrcs w) [fDst w] fun s =>
    let x := s.grp c g
    let ls := lanesOf (x.active (fGuard w))
    lanesResult c g w (ls.any fun i => (x.vlane (fSrc1 w) i).poison || (x.vecB w i).poison) (poisonedIn x (vsrcs w))
      (fun x i =>
        let a := x.vlane (fSrc1 w) i
        let b := x.vecB w i
        { val := f w a.val b.val, poison := a.poison || b.poison }) s

/-- V_ADD (R218). -/
def execVAdd (c g : Nat) (w : IWord) (s : State) : Host.Outcome State Fault Refusal :=
  vecOp2 (fun _ a b => a + b) 0x10 c g w s
/-- V_SUB (R218). -/
def execVSub (c g : Nat) (w : IWord) (s : State) : Host.Outcome State Fault Refusal :=
  vecOp2 (fun _ a b => a - b) 0x10 c g w s
/-- V_MUL (R218): the low 32 bits. -/
def execVMul (c g : Nat) (w : IWord) (s : State) : Host.Outcome State Fault Refusal :=
  vecOp2 (fun _ a b => a * b) 0x10 c g w s
/-- V_AND (R218). -/
def execVAnd (c g : Nat) (w : IWord) (s : State) : Host.Outcome State Fault Refusal :=
  vecOp2 (fun _ a b => a &&& b) 0x10 c g w s
/-- V_OR (R218). -/
def execVOr (c g : Nat) (w : IWord) (s : State) : Host.Outcome State Fault Refusal :=
  vecOp2 (fun _ a b => a ||| b) 0x10 c g w s
/-- V_XOR (R218). -/
def execVXor (c g : Nat) (w : IWord) (s : State) : Host.Outcome State Fault Refusal :=
  vecOp2 (fun _ a b => a ^^^ b) 0x10 c g w s
/-- V_SHL (R216, R218): the low 5 bits of the amount. -/
def execVShl (c g : Nat) (w : IWord) (s : State) : Host.Outcome State Fault Refusal :=
  vecOp2 (fun _ a b => a <<< (b.toNat % 32)) 0x10 c g w s
/-- V_SHR (R216, R218). -/
def execVShr (c g : Nat) (w : IWord) (s : State) : Host.Outcome State Fault Refusal :=
  vecOp2 (fun _ a b => a >>> (b.toNat % 32)) 0x10 c g w s
/-- V_SRA (R216, R218). -/
def execVSra (c g : Nat) (w : IWord) (s : State) : Host.Outcome State Fault Refusal :=
  vecOp2 (fun _ a b => a.sshiftRight (b.toNat % 32)) 0x10 c g w s
/-- V_MIN (R218). -/
def execVMin (c g : Nat) (w : IWord) (s : State) : Host.Outcome State Fault Refusal :=
  vecOp2 (fun w a b => minOf (fU w) a b) 0x18 c g w s
/-- V_MAX (R218). -/
def execVMax (c g : Nat) (w : IWord) (s : State) : Host.Outcome State Fault Refusal :=
  vecOp2 (fun w a b => maxOf (fU w) a b) 0x18 c g w s

/-- A lane-wise compare into predicate DST: a poisoned active lane raises POISONED_CONTROL, naming the
lanes, instead of any write (R202, R218). -/
def compareLanes (c g : Nat) (w : IWord) (holds : Word32 → Word32 → Bool) (s : State) : Eff :=
  let x := s.grp c g
  let ls := lanesOf (x.active (fGuard w))
  let bad := ls.filter fun i => (x.vlane (fSrc1 w) i).poison || (x.vecB w i).poison
  if bad ≠ [] then .exc Exc.poisonedControl (maskOf bad) 0
  else .next (s.modGrp c g fun x => x.setPredLanes (fDst w) ls fun i => holds (x.vlane (fSrc1 w) i).val (x.vecB w i).val)

/-- V_CMP (R218). -/
def execVCmp (c g : Nat) (w : IWord) (s : State) : Host.Outcome State Fault Refusal :=
  s.issue c g 2 (decide (fCond w < 6) && decide (fDst w < 8) && lowRI w 64 && modOnly w 0x10) (vsrcs w) [] fun s =>
    compareLanes c g w (fun a b => intCond (fCond w) a b) s

/-- V_SEL (R218): vd = va where the bit of pk (SRC3) is 1, else vb. Both operands are read (R173). -/
def execVSel (c g : Nat) (w : IWord) (s : State) : Host.Outcome State Fault Refusal :=
  s.issue c g 2 (fCond w = 0 && lowRR w 64 8 && fMod w = 0) [fSrc1 w, fSrc2 w] [fDst w] fun s =>
    let x := s.grp c g
    let ls := lanesOf (x.active (fGuard w))
    lanesResult c g w (ls.any fun i => (x.vlane (fSrc1 w) i).poison || (x.vlane (fSrc2 w) i).poison) (poisonedIn x [fSrc1 w, fSrc2 w])
      (fun x i =>
        let a := x.vlane (fSrc1 w) i
        let b := x.vlane (fSrc2 w) i
        { val := if bit (x.preg (fSrc3 w)) i then a.val else b.val, poison := a.poison || b.poison }) s

/-- V_BCAST (R218): vd = sa[31:0], or IMM32 with I = 1, or the lane number with MOD[36] = 1. -/
def execVBcast (c g : Nat) (w : IWord) (s : State) : Host.Outcome State Fault Refusal :=
  let lane := bit w 36
  s.issue c g 2 (fCond w = 0 && modOnly w 0x11 &&
      (if fI w then !lane && fSrc1 w = 0 else lowRR w 1 1 && (if lane then fSrc1 w = 0 else decide (fSrc1 w < 32)))) []
      [fDst w] fun s =>
    let x := s.grp c g
    let a := if fI w || lane then sclean 0 else x.sreg (fSrc1 w)
    let any := x.active (fGuard w) ≠ 0
    lanesResult c g w (any && a.poison) (fun i => b2n (some i = (lanesOf (x.active (fGuard w))).head?))
      (fun _ i =>
        { val := if lane then BitVec.ofNat 32 i else if fI w then imm32 w else BitVec.ofNat 32 a.val.toNat, poison := a.poison }) s

/-- V_PERM (R218): vd = lane (vb mod 32) of va, active or not. -/
def execVPerm (c g : Nat) (w : IWord) (s : State) : Host.Outcome State Fault Refusal :=
  s.issue c g 2 (fCond w = 0 && lowRR w 64 1 && fMod w = 0) [fSrc1 w, fSrc2 w] [fDst w] fun s =>
    let x := s.grp c g
    let src (i : Nat) : VLane := x.vlane (fSrc1 w) ((x.vlane (fSrc2 w) i).val.toNat % 32)
    let ls := lanesOf (x.active (fGuard w))
    lanesResult c g w (ls.any fun i => (x.vlane (fSrc2 w) i).poison || (src i).poison)
      (fun i => b2n (x.vlane (fSrc2 w) i).poison + b2n (src i).poison)
      (fun x i => { val := (src i).val, poison := (x.vlane (fSrc2 w) i).poison || (src i).poison }) s

/-- Integer reduction of lane values (R219): wrapping sum, signed minimum, signed maximum, each with its
identity. -/
def intReduce (op : Nat) (l : List Word32) : Word32 :=
  match op with
  | 0 => l.foldl (· + ·) 0
  | 1 => l.foldl (minOf false) 0x7FFFFFFF
  | _ => l.foldl (maxOf false) 0x80000000

/-- V_IRED (R218, R219): sd = the reduction of the active lanes of va, sign-extended; a poisoned active lane
poisons sd. -/
def execVIred (c g : Nat) (w : IWord) (s : State) : Host.Outcome State Fault Refusal :=
  s.issue c g 2 (fCond w = 0 && decide (fDst w < 32) && lowRR w 1 1 && modOnly w 0x06 && bf w 38 37 ≠ 3) [fSrc1 w] [] fun s =>
    let x := s.grp c g
    let vs := (lanesOf (x.active (fGuard w))).map fun i => x.vlane (fSrc1 w) i
    scalarResult c g w ((intReduce (bf w 38 37) (vs.map (·.val))).signExtend 64) (vs.any (·.poison)) (vs.filter (·.poison)).length s

end Sys2Proof.Machine
end

