-- ==== Sys2Proof/Machine/VectorFloat.lean ====
section
/-!
DEFINITION. Vector float instructions, class 0x2 (R217 to R219): latency F, pipe 0 or 1, lane-wise.
-/

namespace Sys2Proof.Machine

open Sys2Proof

/-- TYPE of a float instruction (MOD[39:38]); 0b11 is reserved. -/
def fType (w : IWord) : FFmt :=
  match bf w 39 38 with
  | 0 => fp32
  | 1 => fp16
  | _ => bf16

/-- TYPE legal and no other MOD bit than those of `m`. -/
def typeLegal (w : IWord) (m : Nat) : Bool := bf w 39 38 ≠ 3 && modOnly w m

/-- A lane's operand in a type: bits [15:0] of a 16-bit type (R215). -/
def operandOf (f : FFmt) (v : Word32) : Nat := v.toNat % (2 * f.signBit)

/-- Flags that results set on a group (R201). -/
def State.setFlags (s : State) (c g : Nat) (v : BitVec 5) : State :=
  if v = 0 then s else s.modGrp c g fun x => { x with flags := x.flags ||| v }

/-- Flags of a list of results together. -/
def flagsOf (l : List FRes) : BitVec 5 := l.foldl (fun v r => v ||| r.flags) 0

/-- Effect of a lane-wise float instruction: result code and poison of each active lane, and the flags of the
active lanes' events (R201); the registers `rs` are read. -/
def floatResult (c g : Nat) (w : IWord) (rs : List Nat) (f : Grp → Nat → FRes × Bool) (s : State) : Eff :=
  let x := s.grp c g
  let ls := lanesOf (x.active (fGuard w))
  let s := s.setFlags c g (flagsOf (ls.map fun i => (f x i).1))
  lanesResult c g w (ls.any fun i => (f x i).2) (poisonedIn x rs)
    (fun _ i => { val := BitVec.ofNat 32 (f x i).1.code, poison := (f x i).2 }) s

/-- A lane-wise vd = f(va, vb or IMM32) of a float type. -/
def floatOp2 (f : FFmt → Nat → Nat → FRes) (c g : Nat) (w : IWord) (s : State) : Host.Outcome State Fault Refusal :=
  s.issue c g 2 (fCond w = 0 && lowRI w 64 && typeLegal w 0x1C) (vsrcs w) [fDst w] fun s =>
    floatResult c g w (vsrcs w) (fun x i =>
      let a := x.vlane (fSrc1 w) i
      let b := x.vecB w i
      (f (fType w) (operandOf (fType w) a.val) (operandOf (fType w) b.val), a.poison || b.poison)) s

/-- A lane-wise vd = f(va) of a float type; layout RR with no second source. -/
def floatOp1 (f : FFmt → Nat → FRes) (c g : Nat) (w : IWord) (s : State) : Host.Outcome State Fault Refusal :=
  s.issue c g 2 (fCond w = 0 && lowRR w 1 1 && typeLegal w 0x0C) [fSrc1 w] [fDst w] fun s =>
    floatResult c g w [fSrc1 w] (fun x i =>
      let a := x.vlane (fSrc1 w) i
      (f (fType w) (operandOf (fType w) a.val), a.poison)) s

/-- F_ADD (R218). -/
def execFAdd (c g : Nat) (w : IWord) (s : State) : Host.Outcome State Fault Refusal :=
  floatOp2 (fun f => f.op2 FVal.add) c g w s
/-- F_SUB (R218): the sum with the second operand's sign inverted. -/
def execFSub (c g : Nat) (w : IWord) (s : State) : Host.Outcome State Fault Refusal :=
  floatOp2 (fun f => f.op2 fun a b => a.add b.neg) c g w s
/-- F_MUL (R218). -/
def execFMul (c g : Nat) (w : IWord) (s : State) : Host.Outcome State Fault Refusal :=
  floatOp2 (fun f => f.op2 FVal.mul) c g w s
/-- F_FMA (R218): va × vb + vc with one rounding; vc in SRC3. -/
def execFFma (c g : Nat) (w : IWord) (s : State) : Host.Outcome State Fault Refusal :=
  s.issue c g 2 (fCond w = 0 && lowRR w 64 64 && typeLegal w 0x0C) [fSrc1 w, fSrc2 w, fSrc3 w] [fDst w] fun s =>
    floatResult c g w [fSrc1 w, fSrc2 w, fSrc3 w] (fun x i =>
      let a := x.vlane (fSrc1 w) i
      let b := x.vlane (fSrc2 w) i
      let d := x.vlane (fSrc3 w) i
      let f := fType w
      (f.fma (operandOf f a.val) (operandOf f b.val) (operandOf f d.val), a.poison || b.poison || d.poison)) s
/-- F_MIN (R218): minimumNumber. -/
def execFMin (c g : Nat) (w : IWord) (s : State) : Host.Outcome State Fault Refusal :=
  floatOp2 (fun f => f.minNum) c g w s
/-- F_MAX (R218): maximumNumber. -/
def execFMax (c g : Nat) (w : IWord) (s : State) : Host.Outcome State Fault Refusal :=
  floatOp2 (fun f => f.maxNum) c g w s

/-- F_CMP (R218): as V_CMP with the float conditions; COND 0x4, 0x5 and from 0x7 are reserved. -/
def execFCmp (c g : Nat) (w : IWord) (s : State) : Host.Outcome State Fault Refusal :=
  s.issue c g 2 ((decide (fCond w < 4) || fCond w = 6) && decide (fDst w < 8) && lowRI w 64 && typeLegal w 0x1C) (vsrcs w)
      [] fun s =>
    compareLanes c g w (fun a b => (fType w).cond (fCond w) (operandOf (fType w) a) (operandOf (fType w) b)) s

/-- F_ABS (R218). -/
def execFAbs (c g : Nat) (w : IWord) (s : State) : Host.Outcome State Fault Refusal :=
  floatOp1 (fun f => f.abs) c g w s
/-- F_NEG (R218). -/
def execFNeg (c g : Nat) (w : IWord) (s : State) : Host.Outcome State Fault Refusal :=
  floatOp1 (fun f => f.negate) c g w s
/-- F_DIV (R217, R218). -/
def execFDiv (c g : Nat) (w : IWord) (s : State) : Host.Outcome State Fault Refusal :=
  floatOp2 (fun f => f.op2 FVal.div) c g w s
/-- F_SQRT (R217, R218). -/
def execFSqrt (c g : Nat) (w : IWord) (s : State) : Host.Outcome State Fault Refusal :=
  floatOp1 (fun f => f.op1 FVal.sqrt) c g w s
/-- F_EXP2 (R217, R218). -/
def execFExp2 (c g : Nat) (w : IWord) (s : State) : Host.Outcome State Fault Refusal :=
  floatOp1 (fun f => f.op1 FVal.exp2) c g w s
/-- F_LOG2 (R217, R218). -/
def execFLog2 (c g : Nat) (w : IWord) (s : State) : Host.Outcome State Fault Refusal :=
  floatOp1 (fun f => f.op1 FVal.log2) c g w s

/-- F_FRED (R126, R218, R219): the fold of the active lanes in ascending order; TYPE must be FP32. -/
def execFFred (c g : Nat) (w : IWord) (s : State) : Host.Outcome State Fault Refusal :=
  s.issue c g 2 (fCond w = 0 && decide (fDst w < 32) && lowRR w 1 1 && fMod w = 0) [fSrc1 w] [] fun s =>
    let x := s.grp c g
    let vs := (lanesOf (x.active (fGuard w))).map fun i => x.vlane (fSrc1 w) i
    let p := vs.any (·.poison)
    let r := reduce32 (vs.map fun v => v.val.toNat)
    scalarResult c g w (BitVec.ofNat 64 r.code) p (vs.filter (·.poison)).length (s.setFlags c g r.flags)

/-- The lowest lane of the greatest non-NaN value among (lane, value) pairs, if any (R219). -/
def argmaxOf (f : FFmt) (l : List (Nat × Nat)) : Option Nat :=
  (l.foldl (fun (best : Option (Nat × Nat)) p =>
    if (f.decode p.2).isNan then best
    else match best with
      | none => some p
      | some b => if (f.decode p.2).cmp (f.decode b.2) = .gt then some p else some b) none).map (·.1)

/-- F_ARGMAX (R218, R219): all ones when no active lane holds a non-NaN value. -/
def execFArgmax (c g : Nat) (w : IWord) (s : State) : Host.Outcome State Fault Refusal :=
  s.issue c g 2 (fCond w = 0 && decide (fDst w < 32) && lowRR w 1 1 && typeLegal w 0x0C) [fSrc1 w] [] fun s =>
    let x := s.grp c g
    let ls := lanesOf (x.active (fGuard w))
    let p := ls.any fun i => (x.vlane (fSrc1 w) i).poison
    let r := argmaxOf (fType w) (ls.map fun i => (i, operandOf (fType w) (x.vlane (fSrc1 w) i).val))
    scalarResult c g w (match r with | some i => BitVec.ofNat 64 i | none => BitVec.allOnes 64) p (ls.filter fun i => (x.vlane (fSrc1 w) i).poison).length s

end Sys2Proof.Machine
end

