-- ==== Sys2Proof/Machine/CoreStore.lean ====
section
/-!
DEFINITION. Core-store load and store, class 0x4 (R185 to R187, R222, R223): latency L, pipe 1, lane-wise,
layout M.
-/

namespace Sys2Proof.Machine

open Sys2Proof

/-- Signed OFFSET of layout M. -/
def fOffset (w : IWord) : Word64 := BitVec.ofInt 64 (signed 20 (bf w 19 0))
/-- Element width in bytes of a WIDTH code (R222); 3 is reserved. -/
def widthOf (code : Nat) : Nat := 2 ^ code

/-- Lanes that a store writes, when several store to one address: the highest for a uniform store (R222),
else one of them, which the manual does not fix (log entry 19). -/
def State.storeLanes (s : State) (uniform : Bool) (addr : Nat → Nat) (ls : List Nat) : List Nat × State :=
  if uniform then (lastN 1 ls, s)
  else if noDup (ls.map addr) then (ls, s)
  else
    (ls.filter fun i =>
      let same := ls.filter fun k => addr k = addr i
      same.getD ((s.freeAt 8 (same.headD 0)).toNat % same.length) i = i, s.used 32)

/-- The addresses of a core-store instruction checked (R186, R202): the lanes whose address depends on no
poisoned value first, STORE_ADDRESS naming the offending lanes and the lowest offset, then the lanes whose
address is poisoned. -/
def storeCheck (ls : List Nat) (addr : Nat → Nat) (poisoned : Nat → Bool) (n : Nat) : Option Eff :=
  let bad := ls.filter fun i => !poisoned i && (addr i % n ≠ 0 || decide (2 ^ 19 < addr i + n))
  let pois := ls.filter poisoned
  match bad with
  | i :: t => some (.exc Exc.storeAddress (maskOf bad) (t.foldl (fun m k => min m (addr k)) (addr i)))
  | [] => if pois ≠ [] then some (.exc Exc.poisonedControl (maskOf pois) 0) else none

/-- Lane address of ld and st (R222) as a core-store offset, and whether a poisoned value decides it. -/
def Grp.laneOffset (x : Grp) (w : IWord) (i : Nat) : Nat :=
  let a := (x.sreg (fSrc1 w)).val + fOffset w
  (match bf w 40 39 with
  | 0 => a + BitVec.ofNat 64 (i * widthOf (bf w 38 37))
  | 1 => a + BitVec.ofNat 64 (x.vlane (fSrc2 w) i).val.toNat
  | _ => a).toNat

def Grp.laneOffsetPoison (x : Grp) (w : IWord) (i : Nat) : Bool :=
  (x.sreg (fSrc1 w)).poison || (bf w 40 39 = 1 && (x.vlane (fSrc2 w) i).poison)

/-- Reserved fields of layout M that are 0; INDEX is used by indexed addressing only (R649). -/
def lowM (w : IWord) (indexed : Bool) : Bool :=
  fCond w = 0 && decide (fSrc1 w < 32) && fSrc3 w = 0 && (indexed || fSrc2 w = 0)

/-- The `n` bytes of an element at offset `o` of core `c`'s store, among sectors read. -/
def elementAt (m : NMap Sector) (a n : Nat) : Nat × Bool :=
  let x := NMap.get m (a / 32) { data := [], tag := 0 }
  (fromLe ((x.data.drop (a % 32)).take n), x.poison)

/-- Sectors of core `c`'s store that hold the listed offsets, each once. -/
def storeSectors (c : Nat) (os : List Nat) : List Nat := (os.map fun o => storeAddr c o / 32).eraseDups

/-- Thread-port cycles of an access that touches these offsets (R185), counted as event 0x0B. -/
def State.portCycles (s : State) (c : Nat) (os : List Nat) : State :=
  s.event c 0x0B (((storeSectors c os).length + 3) / 4)

/-! ### Drains that an instruction waits for (R166) -/

/-- Columns of a target. -/
def targetCols (t : Nat) : Nat := if t = 0 then 32 else 16
/-- Ranges that a drain from target `t` writes. -/
def DrainOp.writes (d : DrainOp) (t : Nat) : List (Nat × Nat) :=
  (List.range 32).map fun i => (d.base + i * d.stride, 4 * targetCols t)

/-- Whether two sets of ranges share a byte. -/
def rangesMeet (a b : List (Nat × Nat)) : Bool :=
  a.any fun x => b.any fun y => decide (x.1 < y.1 + y.2) && decide (y.1 < x.1 + x.2)

def Arr.queue (a : Arr) (t : Nat) : List ArrOp := NMap.get a.queues t []

/-- Whether an earlier drain of a group writes a byte of core store that an instruction of the group reads (R166). -/
def State.drainPending (s : State) (c g : Nat) (rs : List (Nat × Nat)) : Bool :=
  (List.range 3).any fun t => ((s.core c).arr.queue t).any fun o => match o with
    | .drain d _ => d.group = g && rangesMeet (d.writes t) rs
    | .run _ _ => false

/-- LD (R222): each active lane loads WIDTH bits, zero-extended, or sign-extended with SX. DESIGN CHOICE (log entry 126): of the lanes that
a load writes, those whose element lies in a poisoned sector are poisoned (R173). -/
def execLdW (c g : Nat) (w : IWord) (s : State) : Host.Outcome State Fault Refusal :=
  let idx := decide (bf w 40 39 = 1)
  s.issue c g 1 (lowM w idx && bf w 40 39 ≠ 3 && bf w 38 37 ≠ 3) (if idx then [fSrc2 w] else []) [fDst w] fun s =>
    let x := s.grp c g
    let ls := lanesOf (x.active (fGuard w))
    let n := widthOf (bf w 38 37)
    match storeCheck ls (x.laneOffset w) (x.laneOffsetPoison w) n with
    | some e => e
    | none =>
      if s.drainPending c g (ls.map fun i => (x.laneOffset w i, n)) then .wait
      else
      let (m, t) := (s.portCycles c (ls.map (x.laneOffset w))).readEach .store (storeSectors c (ls.map (x.laneOffset w)))
      .next (t.modGrp c g fun y => y.setLanes (fDst w) ls fun i =>
        let (v, p) := elementAt m (storeAddr c (x.laneOffset w i)) n
        { val := if bit w 36 then BitVec.ofInt 32 (signed (8 * n) v) else BitVec.ofNat 32 v, poison := p })

/-- Elements of lanes stored sector by sector, lanes of one sector together (R185, R187); a poisoned lane
poisons its sector (R173). Each lane is (address, bytes, poison). -/
def State.storeElements (s : State) (sp : Space) (prot : Bool) (l : List (Nat × List Byte × Bool)) : State :=
  (l.map fun x => x.1 / 32).eraseDups.foldl (fun s i =>
    let here := l.filter fun x => x.1 / 32 = i
    let m := here.foldl (fun (m : NMap Byte) x =>
      x.2.1.zipIdx.foldl (fun m b => NMap.insert (NMap.erase m (x.1 % 32 + b.2)) (x.1 % 32 + b.2) b.1) m) []
    s.maskSector sp i m (here.any fun x => x.2.2) prot) s

/-- ST (R222): each active lane stores the low WIDTH bits of vd. -/
def execStW (c g : Nat) (w : IWord) (s : State) : Host.Outcome State Fault Refusal :=
  let idx := decide (bf w 40 39 = 1)
  s.issue c g 1 (lowM w idx && bf w 40 39 ≠ 3 && bf w 38 37 ≠ 3 && !bit w 36)
      (if idx then [fDst w, fSrc2 w] else [fDst w]) [] fun s =>
    let x := s.grp c g
    let ls := lanesOf (x.active (fGuard w))
    let n := widthOf (bf w 38 37)
    match storeCheck ls (x.laneOffset w) (x.laneOffsetPoison w) n with
    | some e => e
    | none =>
      let s := (s.portCycles c (ls.map (x.laneOffset w))).seeIf c g (ls.any fun i => (x.vlane (fDst w) i).poison)
        (ls.filter fun i => (x.vlane (fDst w) i).poison).length
      let (kept, s) := s.storeLanes (bf w 40 39 = 2) (x.laneOffset w) ls
      let s := s.storeElements .store false (kept.map fun i =>
        (storeAddr c (x.laneOffset w i), leBytes n (x.vlane (fDst w) i).val.toNat, (x.vlane (fDst w) i).poison))
      -- a sector written with POISON set makes the step suspect (R527)
      let bad := kept.any fun i => bit (NMap.get s.store.tags (storeAddr c (x.laneOffset w i) / 32) 0) 7
      .next (match x.job with
        | some j => if bad then s.suspect j (s.grpEpoch x) c 0x02 else s
        | none => s)

/-- LD_CQ8 (R223): lane i reads the bfloat16 of code c_i at A + ⌊i/g⌋ × 512 g + c_i × 2 g + 2 (i mod g) and
writes it widened to FP32. -/
def execLdCq8 (c g : Nat) (w : IWord) (s : State) : Host.Outcome State Fault Refusal :=
  s.issue c g 1 (lowM w true && bf w 40 39 = 0 && !bit w 36 && bf w 38 37 ≠ 3) [fSrc2 w] [fDst w] fun s =>
    let x := s.grp c g
    let ls := lanesOf (x.active (fGuard w))
    let k := 4 * 2 ^ bf w 38 37
    let base := (x.sreg (fSrc1 w)).val + fOffset w
    let addr (i : Nat) : Nat :=
      (base + BitVec.ofNat 64 (i / k * (512 * k) + bf (x.vlane (fSrc2 w) i).val 7 0 * (2 * k) + 2 * (i % k))).toNat
    match storeCheck ls addr (fun i => (x.sreg (fSrc1 w)).poison || (x.vlane (fSrc2 w) i).poison) 2 with
    | some e => e
    | none =>
      if s.drainPending c g (ls.map fun i => (addr i, 2)) then .wait
      else
      let (m, t) := (s.portCycles c (ls.map addr)).readEach .store (storeSectors c (ls.map addr))
      .next (t.modGrp c g fun y => y.setLanes (fDst w) ls fun i =>
        let (v, p) := elementAt m (storeAddr c (addr i)) 2
        { val := BitVec.ofNat 32 (convertLane (.flt bf16) (.flt fp32) false false v).code, poison := p })

end Sys2Proof.Machine
end

