-- ==== Sys2Proof/Machine/Gather.lean ====
section
/-!
DEFINITION. Gathers, scatters and dk.zero, class 0x5 (R190 to R194, R224, R225, R298, R652, R655): issue,
translation misses (R359 to R361), arrival, visibility.
-/

namespace Sys2Proof.Machine

open Sys2Proof

/-! ### Issue -/

/-- WCET of layout G. -/
def fWcet (w : IWord) : Nat := bf w 25 12

/-- Lane address of gt and sc (R224). -/
def Grp.laneVa (x : Grp) (w : IWord) (i : Nat) : Nat :=
  ((x.sreg (fSrc1 w)).val + (BitVec.ofInt 64 (signed 32 (x.vlane (fSrc2 w) i).val.toNat)) <<< bf w 37 36).toNat

/-- Whether a poisoned value decides a lane's address. -/
def Grp.laneVaPoison (x : Grp) (w : IWord) (i : Nat) : Bool := (x.sreg (fSrc1 w)).poison || (x.vlane (fSrc2 w) i).poison

/-- The 64 KiB page of a virtual address. -/
def pageOf (va : Nat) : Nat := va / 65536 * 65536

/-- What the translation cache of core `c` gives for an access of group `x`: `none` a refusal, `some none` a
miss, `some (some l)` the leaf (R191, R224, R573). -/
def State.laneLeaf (s : State) (c part : Nat) (x : Grp) (va n : Nat) (write : Bool) : Option (Option Leaf) :=
  if 2 ^ 52 ≤ va || va % n ≠ 0 || x.unmapped.contains (pageOf va) then none
  else match s.tlbFind c part va with
  | none => some none
  | some l => if (write && !l.writable) || (l.kind = 2 && l.prot) then none else some (some l)

/-- The leaves of the lanes' addresses (R191, R202): TRANSLATION_FAULT names the refused lanes whose address is
not poisoned and the lowest refused page; then a miss parks the group (R184); then a poisoned address raises
POISONED_CONTROL. DESIGN CHOICE (log entry 126): a lane refused now faults at once, whatever pages other lanes miss. -/
def State.laneLeaves (s : State) (c g : Nat) (ls : List Nat) (addr : Nat → Nat) (pois : Nat → Bool) (n : Nat)
    (write whole : Bool) : Except Eff (List (Nat × Leaf)) :=
  let x := s.grp c g
  let j := x.job.getD 0
  let look (i : Nat) := s.laneLeaf c (partOf j) x (addr i) n write
  let clean := ls.filter fun i => !pois i
  let bad := clean.filter fun i => look i = none
  let misses := clean.filter fun i => look i = some none
  let lanes (l : List Nat) : Word32 := if whole then allLanes else maskOf l
  match bad, misses, ls.filter pois with
  | i :: t, _, _ => .error (.exc Exc.translation (lanes bad) (t.foldl (fun m k => min m (pageOf (addr k))) (pageOf (addr i))))
  | [], i :: _, _ => .error (.park (.miss (partOf j) (addr i) (match s.job j with | some b => b.now | none => 0)))
  | [], [], i :: t => .error (.exc Exc.poisonedControl (lanes (i :: t)) 0)
  | [], [], [] => .ok (clean.filterMap fun i => match look i with
    | some (some l) => some (i, l)
    | _ => none)

/-- The lowest free slot of a group. -/
def Grp.freeSlotNumber (x : Grp) : Nat := firstOr 0 (fun i => !(x.slots.any (·.1 = i))) (List.range 64)

/-- A slot opened for an operation of group `g` (R190), its leaves made the most recently used. -/
def State.openSlot (s : State) (c g : Nat) (kind : SlotKind) (reg width wcet : Nat) (fixed : Bool)
    (lanes : List (Leaf × LaneReq)) : State :=
  let x := s.grp c g
  let b := (x.job.bind s.job)
  let k : Slot :=
    { id := (s.core c).nextId, kind := kind, reg := reg, width := width, fixed := fixed, lanes := lanes.map (·.2),
      due := (match b with | some b => b.now | none => 0) + wcet, epoch := s.grpEpoch x, arrived := false }
  let s := lanes.foldl (fun s l => s.tlbUse c l.1) s
  let s := s.modCore c fun k => { k with nextId := k.nextId + 1 }
  s.setGrp c g { x with slots := NMap.insert x.slots x.freeSlotNumber k, unmapped := [] }

/-- Reserved fields of layout G that are 0. -/
def lowG (w : IWord) : Bool :=
  fCond w = 0 && decide (fSrc1 w < 32) && bf w 39 38 ≠ 3 && decide (1 ≤ fWcet w) && bf w 11 0 = 0

/-- A lane's request. -/
def laneReq (l : Leaf) (va lane : Nat) (data : Word32) (poison : Bool) : Leaf × LaneReq :=
  (l, { lane := lane, va := va, target := l.target va, data := data, poison := poison, prot := l.prot, got := false })

/-- GT (R190, R191, R193, R224). -/
def execGtW (c g : Nat) (w : IWord) (s : State) : Host.Outcome State Fault Refusal :=
  s.issue c g 1 (lowG w) [fSrc2 w] [fDst w] fun s =>
    let x := s.grp c g
    let ls := lanesOf (x.active (fGuard w))
    if 64 ≤ x.slots.length then .park .slotsFull
    else match s.laneLeaves c g ls (x.laneVa w) (x.laneVaPoison w) (widthOf (bf w 39 38)) false false with
    | .error e => e
    | .ok lv =>
      .next ((s.openSlot c g .gather (fDst w) (widthOf (bf w 39 38)) (fWcet w) (bit w 40)
        (lv.map fun p => laneReq p.2 (x.laneVa w p.1) p.1 0 false)).event c 0x07 1)

/-- SC (R190, R191, R224, R225): the data is captured at issue; REL = 1 is reserved. -/
def execScW (c g : Nat) (w : IWord) (s : State) : Host.Outcome State Fault Refusal :=
  s.issue c g 1 (lowG w && !bit w 40) [fDst w, fSrc2 w] [] fun s =>
    let x := s.grp c g
    let ls := lanesOf (x.active (fGuard w))
    if 64 ≤ x.slots.length then .park .slotsFull
    else match s.laneLeaves c g ls (x.laneVa w) (x.laneVaPoison w) (widthOf (bf w 39 38)) true false with
    | .error e => e
    | .ok lv =>
      let s := s.seeIf c g (ls.any fun i => (x.vlane (fDst w) i).poison) (ls.filter fun i => (x.vlane (fDst w) i).poison).length
      let (kept, s) := s.storeLanes false (x.laneVa w) ls
      .next ((s.openSlot c g .scatter (fDst w) (widthOf (bf w 39 38)) (fWcet w) false
        ((lv.filter fun p => kept.contains p.1).map fun p =>
          laneReq p.2 (x.laneVa w p.1) p.1 (x.vlane (fDst w) p.1).val (x.vlane (fDst w) p.1).poison)).event c 0x08 1)

/-- DK_ZERO (R225, R298, R664): group-level; the line of s[BASE] is zeroed within 100 ticks. -/
def execDkZero (c g : Nat) (w : IWord) (s : State) : Host.Outcome State Fault Refusal :=
  s.issue c g 1 (plainGroup w && fMod w = 0 && fDst w = 0 && decide (fSrc1 w < 32) && fImm w = 0) [] [] fun s =>
    let x := s.grp c g
    let a := x.sreg (fSrc1 w)
    if 64 ≤ x.slots.length then .park .slotsFull
    else match s.laneLeaves c g [0] (fun _ => a.val.toNat) (fun _ => a.poison) 1 true true with
    | .error e => e
    | .ok lv =>
      let va := a.val.toNat / 128 * 128
      .next (s.openSlot c g .zero 0 128 100 false (lv.map fun p => laneReq p.2 va 0 0 false))

/-! ### Arrival and visibility -/

/-- The slot `i` of a group, when it is occupied. -/
def Grp.slot (x : Grp) (i : Nat) : Option Slot := (x.slots.find? fun k => k.1 = i).map (·.2)

/-- A slot freed: its posts wait for it no more; a group parked for it runs on (R184, R420). -/
def Grp.freeSlot (x : Grp) (i id : Nat) : Grp :=
  let ps : List Post := x.posts.map fun p => { p with waits := p.waits.filter fun y => y ≠ id }
  let y : Grp := { x with slots := NMap.erase x.slots i, posts := ps }
  if y.parkedFor (fun r => match r with
      | .gatherReg rs => !rs.any y.awaits
      | .slotsFull => true
      | _ => false) then y.wake false else y

/-- Whether a gather or scatter has still to act, before `k`, on a sector of it (R194); what a scatter holds back from a host page
keeps no such order (R655). -/
def Slot.before (y k : Slot) : Bool :=
  let held := y.kind = .scatter || k.kind = .scatter
  decide (y.id < k.id) && !y.arrived && y.kind ≠ .zero &&
    y.lanes.any fun a => !a.got && !(held && a.target.isHost) && k.lanes.any fun b => !b.got && a.target.sector = b.target.sector

/-- Whether an earlier gather or scatter of the group has still to act on a sector of `k` (R194, R655). -/
def Grp.blocked (x : Grp) (k : Slot) : Bool := x.slots.any fun y => y.2.before k

/-- The sectors at local targets, each read once by a cluster. -/
def State.readTargets (s : State) (cl : Nat) : List Target → List (Target × Sector) × State
  | [] => ([], s)
  | t :: l =>
    let (x, s) := s.readAt (some cl) t
    let (m, s) := State.readTargets s cl l
    ((t, x) :: m, s)

/-- The element that a lane receives: from its sector, or for a remote window from the data that the other
device returned; data that did not come is poisoned. -/
def laneData (s : State) (m : List (Target × Sector)) (remote : List LaneData) (width : Nat) (r : LaneReq) : LaneReq :=
  if r.target.isRemote then
    match remote.find? fun d => d.lane = r.lane with
    | some d => { r with data := BitVec.ofNat 32 (d.value.toNat % 2 ^ (8 * width)), poison := d.poisoned }
    | none => { r with data := s.freeAt 32 r.lane, poison := true }
  else
    match m.find? fun x => x.1 = r.target.sector with
    | some x => { r with data := BitVec.ofNat 32 (fromLe ((x.2.data.drop r.target.inSector).take width)), poison := x.2.poison }
    | none => r

/-- The sectors of some lanes of a gather read now, with every lane whose element lies in one of them (R652): the gather has arrived
once all have. -/
def State.fetchLanes (s : State) (c : Nat) (k : Slot) (e : GatherData) : Slot × State :=
  let secs := ((k.lanes.filter fun r => !r.got && bit e.lanes r.lane).map fun r => r.target.sector).eraseDups
  let (m, s) := s.readTargets (c / 8) (secs.filter fun t => !t.isRemote)
  let ls := k.lanes.map fun r =>
    if !r.got && secs.contains r.target.sector then { laneData s m e.remote k.width r with got := true } else r
  ({ k with lanes := ls, arrived := ls.all (·.got) }, s.used 32)

/-- Slot `i` of a group with what it holds changed. -/
def Grp.setSlot (x : Grp) (i : Nat) (k : Slot) : Grp := { x with slots := x.slots.map fun y => if y.1 = i then (i, k) else y }

/-- A gather's data written to its destination register (R192, R193). -/
def State.deliver (s : State) (c g i : Nat) (k : Slot) : State :=
  s.modGrp c g fun x =>
    let y := k.lanes.foldl (fun x r => x.setVlane k.reg r.lane { val := r.data, poison := r.poison }) x
    y.freeSlot i k.id

/-- STICK of the job of a group. -/
def State.grpNow (s : State) (x : Grp) : Nat :=
  match x.job with
  | none => 0
  | some j => match s.job j with
    | some b => b.now
    | none => 0

/-- GATHER_RELEASE (R193, R652): sectors of a gather are read, each at a moment of its own. With the last one the data has arrived:
Elastic release writes it at once; Fixed release holds it and writes it at the WCET tick. No such event arises while an earlier
access of the group to a sector is to come, or on a slot that holds no gather (log entry 21). -/
def execGatherRelease (c g i : Nat) (e : GatherData) (s : State) : Host.Outcome State Fault Refusal :=
  if 384 ≤ c ∨ 16 ≤ g then .refused .noSuchUnit
  else
    let x := s.grp c g
    match x.slot i with
    | none => .next s
    | some k =>
      if s.clocksStopped || k.kind ≠ .gather || (!k.arrived && x.blocked k) || (k.arrived && k.fixed && decide (s.grpNow x < k.due)) then .next s
      else
        let (k', t) := if k.arrived then (k, s) else s.fetchLanes c k e
        if !k'.arrived || (k.fixed && decide (s.grpNow x < k.due)) then .next (t.modGrp c g fun x => x.setSlot i k')
        else .next (t.deliver c g i k')

/-- What a sector at a local target holds now: whether its POISON is set. -/
def State.storedPoison (s : State) (cl : Nat) (t : Target) : Bool :=
  match t with
  | .hbm a =>
    match (regionOf (s.cluster cl).deckCfg a).bind fun r => (s.cluster cl).findLine r (a / 128) none with
    | some l => bit (l.tags.getD (a / 32 % 4) 0) 7
    | none => bit (NMap.get s.hbm.tags (a / 32) 0) 7
  | .deck a => bit (NMap.get s.deck.tags (a / 32) 0) 7
  | _ => false

/-- The bytes of a lane's element at its place in its sector. -/
def laneBytes (width : Nat) (r : LaneReq) : NMap Byte := placed r.target.inSector (leBytes width r.data.toNat)

/-- A map with the entries of another put over it. -/
def overPut (m : NMap Byte) (n : NMap Byte) : NMap Byte := n.foldl (fun m b => NMap.insert (NMap.erase m b.1) b.1 b.2) m

/-- Lanes written at their targets by a cluster, lanes of one sector together; `late` poisons every sector. -/
def State.writeLanes (s : State) (cl width : Nat) (ls : List LaneReq) (late : Bool) : State :=
  (ls.map fun r => r.target.sector).eraseDups.foldl (fun s t =>
    let here := ls.filter fun r => r.target.sector = t
    s.maskAt cl t (here.foldl (fun m r => overPut m (laneBytes width r)) []) (late || here.any (·.poison))
      (here.any (·.prot))) s

/-- A step of a group's job made suspect when one of the sectors that it wrote is poisoned (R527). -/
def State.suspectWritten (s : State) (c g : Nat) (epoch : Word32) (poisoned : Bool) : State :=
  match (s.grp c g).job with
  | none => s
  | some j => if poisoned then s.suspect j epoch c 0x02 else s

/-- What a job holds back until an epoch commits, with an entry added (R532, R655). -/
def State.hold (s : State) (j : Nat) (h : Held) : State := s.modJob j fun b => { b with outs := b.outs ++ [h] }

/-- The effect of a scatter on its targets: its data written, or held for a host page (R655); poisoned when it
is late (R84). -/
def State.scatterEffect (s : State) (c g : Nat) (k : Slot) (late : Bool) : State :=
  let j := (s.grp c g).job.getD 0
  let local_ := k.lanes.filter fun r => !r.target.isHost
  let s := s.writeLanes (c / 8) k.width local_ late
  let s := if local_.isEmpty then s else s.markPath j 2
  let s := (k.lanes.filter fun r => r.target.isHost).foldl (fun s r =>
    match r.target with
    | .host a => s.hold j (.hostWrite k.epoch a (leBytes k.width r.data.toNat))
    | _ => s) s
  s.suspectWritten c g k.epoch (local_.any fun r => s.storedPoison (c / 8) r.target.sector)

/-- SCATTER_VISIBLE (R225, R652, R655). -/
def execScatterVisible (c g i : Nat) (s : State) : Host.Outcome State Fault Refusal :=
  if 384 ≤ c ∨ 16 ≤ g then .refused .noSuchUnit
  else
    let x := s.grp c g
    match x.slot i with
    | none => .next s
    | some k =>
      if s.clocksStopped || k.kind ≠ .scatter || x.blocked k then .next s
      else .next ((s.scatterEffect c g k false).modGrp c g fun x => x.freeSlot i k.id)

/-- The effect of dk.zero on the line of a target (R298): a Deck page is scratch and takes the zeros itself. -/
def State.zeroAt (s : State) (c g : Nat) (k : Slot) (r : LaneReq) : State :=
  let zeros := List.replicate 32 (0 : Byte)
  match r.target with
  | .hbm a => s.zeroLine (c / 8) (a / 128) r.prot
  | .deck a =>
    ((List.range 4).foldl (fun s n => s.putSector .deck (a / 32 + n) zeros false r.prot) s).deckCount (deckCluster a) dcScratch 4
  | .host a => s.hold ((s.grp c g).job.getD 0) (.hostWrite k.epoch a (List.replicate 128 0))
  | .remote _ _ _ => s

/-- DK_ZERO_DONE (R298, R664): the line is zeroed and the slot frees. -/
def execDkZeroDone (c g i : Nat) (s : State) : Host.Outcome State Fault Refusal :=
  if 384 ≤ c ∨ 16 ≤ g then .refused .noSuchUnit
  else match (s.grp c g).slot i with
  | none => .next s
  | some k =>
    if s.clocksStopped || k.kind ≠ .zero then .next s
    else
      let s := if k.lanes.all fun r => r.target.isHost then s else s.markPath ((s.grp c g).job.getD 0) 2
      .next ((k.lanes.foldl (fun s r => s.zeroAt c g k r) s).modGrp c g fun x => x.freeSlot i k.id)

/-! ### Translation misses (R359 to R361) -/

/-- Whether a group is parked on a miss of a partition in the page of an address. -/
def Grp.missing (x : Grp) (part va : Nat) : Bool :=
  x.parkedFor fun r => match r with
    | .miss p v _ => p = part && pageOf v = pageOf va
    | _ => false

/-- TRANSLATION_WALK_DONE (R360, R361): the walk of the device copy for a missed page ends. A mapped page's leaf
is installed; one not mapped, or of another partition, is noted for the groups that wait for it, which fault when they issue again. In
free issue they leave the park; in fixed issue they wait for the 200th tick. A stopped sequencer serves no miss (R20). -/
def execTranslationWalkDone (e : Engine) (part va : Nat) (s : State) : Host.Outcome State Fault Refusal :=
  let leaf := (s.leafAt part va).filter fun l => l.owner = part
  if s.walkStopped e || (s.clocksStopped && Engine.inCluster e) then .next s
  else match e with
  | .core c =>
    if 384 ≤ c then .refused .noSuchUnit
    else if !((s.core c).groups.any fun x => x.2.missing part va) then .next s
    else
      let k := s.core c
      let s := match leaf with
        | some l => s.tlbUse c l
        | none => s
      .next (s.setCore c (k.mapGroups fun _ x =>
        if x.missing part va then
          let x := if leaf.isNone then { x with unmapped := pageOf va :: x.unmapped } else x
          if k.fixed then x else x.wake false
        else x))
  | _ => .next (match leaf with
    | some l => s.tlbUse (Engine.key e) l
    | none => s)

/-- TRANSLATION_PARK_EXPIRY (R361): in fixed issue, 200 schedule ticks after the miss. -/
def execTranslationParkExpiry (c g : Nat) (s : State) : Host.Outcome State Fault Refusal :=
  if 384 ≤ c ∨ 16 ≤ g then .refused .noSuchUnit
  else
    let x := s.grp c g
    if (s.core c).fixed && x.parkedFor fun r => match r with
        | .miss _ _ since => decide (since + 200 ≤ s.grpNow x)
        | _ => false
    then .next (s.setGrp c g (x.wake false))
    else .next s

end Sys2Proof.Machine
end

