-- ==== Sys2Proof/Machine/Records.lean ====
section
/-!
DEFINITION. Endpoints of transfers, and the encrypted records of bounce pages, job-key ranges and packages
(R573 to R577).
-/

namespace Sys2Proof.Machine

open Sys2Proof

/-- One end of a transfer: core store of a core, or a virtual range of a partition. -/
inductive Endpoint where
  | store (c off : Nat)
  | va (part a : Nat)
deriving DecidableEq, Repr

/-- Sectors moved: bytes and poison. -/
abbrev Sectors := List (List Byte × Bool)

/-- `n` sectors read at an endpoint by a cluster. Those of a remote window are the ones that the other device
returned, in `remote`. -/
def State.readEnd (s : State) (cl : Option Nat) (e : Endpoint) (n : Nat) (remote : List Byte) (poisoned : Bool) : Sectors × State :=
  match e with
  | .store c off =>
    let (xs, s) := s.readSectors .store (storeAddr c off / 32) n
    (xs.map fun x => (x.data, x.poison), s)
  | .va part a =>
    let isRemote (i : Nat) : Bool := match s.leafAt part (a + 32 * i) with
      | some l => l.kind = 3
      | none => false
    let far := (List.range n).filter isRemote
    let (xs, s) := s.readVa cl part a n
    (xs.zipIdx.map fun x =>
      if far.contains x.2 then
        let b := (remote.drop (32 * x.2)).take 32
        (b ++ List.replicate (32 - b.length) 0, poisoned || decide (b.length < 32))
      else (x.1.data, x.1.poison), s)

/-- Sectors written at an endpoint by a cluster. -/
def State.writeEnd (s : State) (cl : Option Nat) (e : Endpoint) (xs : Sectors) : State :=
  match e with
  | .store c off => xs.zipIdx.foldl (fun s x => s.putSector .store (storeAddr c off / 32 + x.2) x.1.1 x.1.2 false) s
  | .va part a => s.writeVa cl part a xs

/-! ### Records (R574, R575) -/

/-- What protects the bytes at an endpoint. -/
inductive Cipher where
  | plain
  | session
  | jobKey (k : Nat)
deriving DecidableEq, Repr

/-- A bound key's range that holds an address (R576). -/
def JobKey.holds (k : JobKey) (inbound : Bool) (a : Nat) : Bool :=
  if inbound then decide (k.inVa ≤ a) && decide (a < k.inVa + k.inLen) else decide (k.outVa ≤ a) && decide (a < k.outVa + k.outLen)

/-- The cipher of one address of a partition in a transfer whose other end is `other` (R573, R577): a bounce page's session; a job key
for an inbound range read into core store, or an outbound range written from it. -/
def State.cipherAt (s : State) (part a : Nat) (other : Endpoint) (write : Bool) : Cipher :=
  if (match s.leafAt part a with
    | some l => l.kind = 2 && l.prot
    | none => false) then .session
  else match other with
  | .va _ _ => .plain
  | .store _ _ =>
    match (List.range 64).find? fun k => match NMap.get s.jobKeys k none with
      | some y => y.part = part && y.holds (!write) a
      | none => false with
    | some k => .jobKey k
    | none => .plain

/-- Ciphers of the 4,096-byte blocks that `len` bytes of an endpoint touch: bounce pages and key ranges consist of whole ones. -/
def State.ciphers (s : State) (e other : Endpoint) (len : Nat) (write : Bool) : List Cipher :=
  match e with
  | .store _ _ => []
  | .va part a => (upFrom (a / 4096) ((a % 4096 + len + 4095) / 4096)).map fun i => s.cipherAt part (4096 * i) other write

/-- Whether all of `len` bytes of an endpoint move as they are stored. -/
def State.allPlain (s : State) (e other : Endpoint) (len : Nat) (write : Bool) : Bool := (s.ciphers e other len write).all (· = .plain)

/-- The use of a cipher's key in one direction; none without a session or key. -/
def State.keyUse (s : State) (part : Nat) (c : Cipher) (out : Bool) : Option KeyUse :=
  match c with
  | .plain => none
  | .session => (s.part part).session.map fun x => if out then x.outbound else x.inbound
  | .jobKey k => (NMap.get s.jobKeys k none).map fun x => if out then x.outbound else x.inbound

/-- The use of a cipher's key replaced. -/
def State.setKeyUse (s : State) (part : Nat) (c : Cipher) (out : Bool) (u : KeyUse) : State :=
  match c with
  | .plain => s
  | .session => s.modPart part fun p =>
      { p with session := p.session.map fun (x : Session) => if out then { x with outbound := u } else { x with inbound := u } }
  | .jobKey k =>
    let y := (NMap.get s.jobKeys k none).map fun (x : JobKey) => if out then { x with outbound := u } else { x with inbound := u }
    { s with jobKeys := NMap.set s.jobKeys k y none }

/-- Whether an inbound counter has not been accepted and does not lie below the window (R575). -/
def KeyUse.isNew (u : KeyUse) (n : Nat) : Bool := !u.seen.contains n && decide (u.next ≤ n + 1025)

/-- The use after a counter was accepted: the window holds the 1,024 counters below the highest. -/
def KeyUse.accept (u : KeyUse) (n : Nat) : KeyUse :=
  let top := max u.next (n + 1)
  { u with next := top, seen := (u.seen ++ [n]).filter fun m => decide (top ≤ m + 1025) }

/-- Sectors of one record opened: 127 sectors of payload, poisoned when it is rejected (R575). -/
def openRecord (u : KeyUse) (b : List Byte) (poisoned : Bool) : Sectors × KeyUse :=
  let n := fromLe (b.take 8)
  let bad : Sectors := List.replicate 127 (List.replicate 32 0, true)
  if poisoned || !u.isNew n then (bad, u)
  else match Config.gcmOpen u.key (u.salt ++ beBytes 8 n) (b.take 16) (b.drop 32) ((b.drop 16).take 16) with
  | none => (bad, u)
  | some p => ((toSectors 127 p).map fun x => (x, false), u.accept n)

/-- One record of a payload (R574): its 128 sectors, poisoned when a sector of the payload is. -/
def sealRecord (u : KeyUse) (p : Sectors) : Sectors × KeyUse :=
  let bytes := p.flatMap (·.1)
  let hdr := leBytes 8 u.next ++ leBytes 4 bytes.length ++ leBytes 4 0
  let (c, tag) := Config.gcmSeal u.key (u.salt ++ beBytes 8 u.next) hdr (bytes ++ List.replicate (4064 - bytes.length) 0)
  ((toSectors 128 (hdr ++ tag ++ c)).map fun x => (x, p.any (·.2)), { u with next := u.next + 1 })

/-- Sectors taken from `n` bytes of a partition at `a`, block by block, `m` blocks: as they are stored, or the payload of the whole
record that a block holds. Without a key the record is rejected. `remote` is what another device returned from `a` on. -/
def State.takeBlocks (s : State) (cl : Option Nat) (part : Nat) (other : Endpoint) (remote : List Byte) (poisoned : Bool) :
    Nat → Nat → Nat → Sectors × State
  | 0, _, _ => ([], s)
  | m + 1, a, n =>
    let k := min n (4096 - a % 4096)
    let c := s.cipherAt part (a / 4096 * 4096) other false
    let (xs, s) : Sectors × State :=
      if c = .plain then s.readEnd cl (.va part a) (k / 32) remote poisoned
      else
        let (r, s) := s.readEnd cl (.va part (a / 4096 * 4096)) 128 remote poisoned
        match s.keyUse part c false with
        | none => (List.replicate 127 (leBytes 32 (s.freeAt 256 0).toNat, true), s.used 1)
        | some u =>
          let (p, u) := openRecord u (r.flatMap (·.1)) (r.any (·.2))
          (p, s.setKeyUse part c false u)
    let (ys, s) := State.takeBlocks s cl part other (remote.drop k) poisoned m (a + k) (n - k)
    (xs ++ ys, s)

/-- `len` bytes taken from a source (R573, R577): each block as its cipher has it. -/
def State.takeFrom (s : State) (cl : Option Nat) (e other : Endpoint) (len : Nat) (remote : List Byte) (poisoned : Bool) :
    Sectors × State :=
  match e with
  | .store _ _ => s.readEnd cl e (len / 32) remote poisoned
  | .va part a =>
    if s.allPlain e other len false then s.readEnd cl e (len / 32) remote poisoned
    else s.takeBlocks cl part other remote poisoned ((a % 4096 + len + 4095) / 4096) a len

/-- Where a destination goes on after it has taken some of `n` sectors at `a`, and how many: the rest of a plain block, or the payload of
a record. -/
def State.putStep (s : State) (part a : Nat) (other : Endpoint) (n : Nat) : Cipher × Nat × Nat :=
  let c := s.cipherAt part (a / 4096 * 4096) other true
  if c = .plain then
    let k := min n ((4096 - a % 4096) / 32)
    (c, k, a + 32 * k)
  else (c, min n 127, a / 4096 * 4096 + 4096)

/-- Sectors put at a partition's address, block by block, at most `m` blocks: as they are, or sealed into a whole record. Without a key
the record is not written. -/
def State.putBlocks (s : State) (cl : Option Nat) (part : Nat) (other : Endpoint) : Nat → Nat → Sectors → State
  | 0, _, _ => s
  | m + 1, a, xs =>
    if xs.isEmpty then s
    else
      let (c, k, next) := s.putStep part a other xs.length
      let t : State :=
        if c = .plain then s.writeEnd cl (.va part a) (xs.take k)
        else match s.keyUse part c true with
        | none => s
        | some u =>
          let (r, u) := sealRecord u (xs.take k)
          (s.setKeyUse part c true u).writeEnd cl (.va part (a / 4096 * 4096)) r
      State.putBlocks t cl part other m next (xs.drop k)

/-- More bytes of a destination than `n` sectors take, sealed or not. -/
def putBound (n : Nat) : Nat := 4096 * (n / 127 + 2)

/-- Sectors put at a destination (R573, R577): each block as its cipher has it. -/
def State.putTo (s : State) (cl : Option Nat) (e other : Endpoint) (xs : Sectors) : State :=
  match e with
  | .store _ _ => s.writeEnd cl e xs
  | .va part a =>
    if s.allPlain e other (putBound xs.length) true then s.writeEnd cl e xs
    else s.putBlocks cl part other (xs.length + 1) a xs

/-- Sectors that `len` bytes of a source give. -/
def State.takeCount (s : State) (e other : Endpoint) (len : Nat) : Nat :=
  match e with
  | .store _ _ => len / 32
  | .va _ a =>
    if s.allPlain e other len false then len / 32
    else ((s.ciphers e other len false).zipIdx.foldl (fun t x =>
      let lo := max a (a / 4096 * 4096 + 4096 * x.2)
      let hi := min (a + len) (a / 4096 * 4096 + 4096 * x.2 + 4096)
      t + if x.1 = .plain then (hi - lo) / 32 else 127) 0)

/-- Where `n` sectors put at an address end, in at most `m` blocks. -/
def State.putEnd (s : State) (part : Nat) (other : Endpoint) : Nat → Nat → Nat → Nat
  | 0, a, _ => a
  | m + 1, a, n =>
    if n = 0 then a
    else
      let (_, k, next) := s.putStep part a other n
      State.putEnd s part other m next (n - k)

/-- Bytes that a transfer of `len` source bytes writes at its destination. -/
def State.destLength (s : State) (src dst : Endpoint) (len : Nat) : Nat :=
  let n := s.takeCount src dst len
  match dst with
  | .store _ _ => 32 * n
  | .va part a => if s.allPlain dst src (putBound n) true then 32 * n else s.putEnd part src (n + 1) a n - a

end Sys2Proof.Machine
end

