-- ==== Sys2Proof/Machine/Matrix.lean ====
section
/-!
DEFINITION. The matrix array (chapter 04): block sums and folds of a cell (R118 to R127), the array instructions
of class 0x6 (R144, R148, R151, R163 to R167, R226, R662), and the events of runs, drains, splits and bulk
streams.
-/

namespace Sys2Proof.Machine

open Sys2Proof

/-! ### The configuration word (R134 to R137, R144) -/

def cfgFmtA (w : Word64) : Nat := bf w 63 60
def cfgFmtB (w : Word64) : Nat := bf w 59 56
def cfgTarget (w : Word64) : Nat := bf w 55 54
def cfgBlocks (w : Word64) : Nat := bf w 53 43

/-- The pairings that the array accepts (R135). -/
def pairingOk (a b : Nat) : Bool := (decide (a ≤ 10) && decide (b ≤ 10)) || ((a = 11 || a = 12) && (b = 11 || b = 12))

/-- No reserved code or field value, and an accepted pairing (R167, ARRAY_FORMAT). -/
def cfgOk (w : Word64) : Bool :=
  pairingOk (cfgFmtA w) (cfgFmtB w) && cfgTarget w ≠ 3 && decide (1 ≤ cfgBlocks w) && decide (cfgBlocks w ≤ 1024)

/-- A configuration word as the array keeps it: bits [2:0] are ignored when written and read as 0 (R15, R144). -/
def cfgStored (w : Word64) : Word64 := w &&& 0xFFFFFFFFFFFFFFF8

/-- Whether a format has a scale or header plane. -/
def hasScale (f : Nat) : Bool := decide (4 ≤ f) && decide (f ≤ 10)

/-- Bits of an element in its plane. -/
def fmtBits (f : Nat) : Nat :=
  if f < 3 then 8 else if f = 3 || f = 10 then 4 else if f ≤ 9 then (match mxGrid f with | some g => g.bits | none => 4) else 16

/-- Bytes of 32 elements. -/
def fmtBytes (f : Nat) : Nat := 4 * fmtBits f

/-- Operand cycles of a run (R136, R138). -/
def runCycles (w : Word64) : Nat :=
  let k := 32 * cfgBlocks w
  match max (fmtBits (cfgFmtA w)) (fmtBits (cfgFmtB w)) with
  | 4 => k / 2
  | 16 => 2 * k
  | _ => k

/-! ### Blocks -/

/-- A block of 32 elements as a cell takes it: significands and units, the scale's exponent, the greatest
significand of its element type, and what R104, R122, R123 and R155 ask of it. -/
structure Blk where
  elems : List FVal
  scale : Int
  sigMax : Nat
  nanScale : Bool
  zero : Bool
  invalid : Bool
  poison : Bool
deriving DecidableEq, Repr

/-- Element grid of a format, for a P4-32 header's type bit `t`. -/
def fmtGrid (f t : Nat) : Grid :=
  match f with
  | 0 => .flt e4m3
  | 1 => .flt e5m2
  | 2 => .int 8 0
  | 3 => .int 4 0
  | 10 => p4Grid t
  | 11 => .flt bf16
  | 12 => .flt fp16
  | n => (mxGrid n).getD (.int 8 0)

/-- The largest significand magnitude of an element type. -/
def Grid.sigMax : Grid → Nat
  | .flt f => 2 ^ (f.mb + 1) - 1
  | .int w _ => 2 ^ (w - 1)

/-- The block of a format with element plane `plane` and scale or header byte `head`. -/
def blockOf (f plane head : Nat) (poison : Bool) : Blk :=
  let g := fmtGrid f (head / 128)
  let e := head % 128
  { elems := (List.range 32).map fun i => g.value (planeElem (fmtBits f) plane i), sigMax := g.sigMax,
    scale := if f = 10 then (e : Int) - 63 else if hasScale f then (head : Int) - 127 else 0,
    nanScale := hasScale f && f ≠ 10 && head = 0xFF, zero := f = 10 && e = 0, invalid := f = 10 && e = 127, poison := poison }

/-- `n` bytes from flat address `a` among the sectors read, and whether one of those sectors is poisoned. -/
def bytesOf (m : NMap Sector) (a n : Nat) : Nat × Bool :=
  let xs := (upFrom (a / 32) ((a % 32 + n + 31) / 32)).map fun i => NMap.get m i { data := [], tag := 0 }
  (fromLe (((xs.flatMap (·.data)).drop (a % 32)).take n), xs.any (·.poison))

/-- Block `j` of a row whose planes start at flat addresses `base` and `sbase` (R105). -/
def rowBlock (m : NMap Sector) (f base sbase j : Nat) : Blk :=
  let (plane, p) := bytesOf m (base + fmtBytes f * j) (fmtBytes f)
  let (head, q) := if hasScale f then bytesOf m (sbase + j) 1 else (0, false)
  blockOf f plane head (p || q)

/-- Value of a block pair, its block accumulator, and whether a product poisons the cell (R118 to R123, R155). -/
def pairValue (a b : Blk) : FVal × BitVec 48 × Bool :=
  if a.poison || b.poison then (.fin false 0 0, 0, true)
  else if a.zero || b.zero then (.fin false 0 0, 0, false)
  else if a.invalid || b.invalid then (.fin false 0 0, 0, true)
  else
    let ps := List.zipWith FVal.mul a.elems b.elems
    if a.nanScale || b.nanScale || ps.any FVal.isNan then (.nan, 0, false)
    else if ps.any FVal.special then
      let pos := ps.any fun p => p = .inf false
      let neg := ps.any fun p => p = .inf true
      (if pos && neg then .nan else .inf neg, 0, false)
    else
      let x := ps.foldl (fun (m : Option Int) p => match p with
        | .fin _ s e => if s = 0 then m else some (match m with | some k => max k e | none => e)
        | _ => m) none
      match x with
      | none => (.fin false 0 0, 0, false)
      | some x =>
        let lo := x - (42 - (Nat.log2 (a.sigMax * b.sigMax) + 1 : Nat))
        let s := ps.foldl (fun (t : Int) p => match p with
          | .fin n g e =>
            let m : Nat := truncShift g (e - lo)
            if n then t - m else t + m
          | _ => t) 0
        (ofInt false s (lo + a.scale + b.scale), BitVec.ofInt 48 s, false)

/-! ### A cell (R121, R124 to R127, R133) -/

/-- A value added into the chunk register with one rounding. -/
def CellWork.add (k : CellWork) (v : FVal) : CellWork :=
  { k with chunk := BitVec.ofNat 32 (fp32.result ((fp32.decode k.chunk.toNat).add v) false).code }

/-- Sum of two FP32 codes. -/
def addW (a b : Word32) : Word32 := BitVec.ofNat 32 (add32 a.toNat b.toNat).code

/-- A node of `n` chunks merged with the fold stack as a binary counter. -/
def pushNode (v : Word32) (n : Nat) : List (Word32 × Nat) → List (Word32 × Nat)
  | [] => [(v, n)]
  | (u, m) :: t => if m = n then pushNode (addW u v) (2 * n) t else (v, n) :: (u, m) :: t

/-- The chunk register merged into the fold stack. -/
def CellWork.close (k : CellWork) : CellWork := { k with stack := pushNode k.chunk 1 k.stack, chunk := 0 }

/-- The closing fold: from the top downward, each the right operand of the entry beneath. -/
def closeFold : List (Word32 × Nat) → Word32
  | [] => 0
  | (v, _) :: t => t.foldl (fun r x => addW x.1 r) v

/-- Block `j` of `n` taken by a cell: its work, and whether the run is poisoned in it so far. -/
def cellBlock (wide : Bool) (n : Nat) (k : CellWork × Bool) (x : Nat × Blk × Blk) : CellWork × Bool :=
  let (j, a, b) := x
  let k' : CellWork × Bool :=
    if wide then ((List.zipWith FVal.mul a.elems b.elems).foldl CellWork.add k.1, k.2 || a.poison || b.poison)
    else
      let (v, s, p) := pairValue a b
      ({ k.1.add v with acc := s }, k.2 || p)
  if j % 16 = 15 || j + 1 = n then (k'.1.close, k'.2) else k'

/-- A cell's whole run over a row of A and a column of B. -/
def runCell (wide : Bool) (a b : List Blk) : CellWork × Bool :=
  ((List.range a.length).zip (a.zip b)).foldl (cellBlock wide a.length) (CellWork.reset, false)

/-! ### Byte ranges (R145, R165) -/

/-- Core-store ranges (offset, length) that a run reads of one operand. -/
def operandRows (f blocks rows base stride sbase sstride : Nat) : List (Nat × Nat) :=
  ((List.range rows).map fun r => (base + r * stride, fmtBytes f * blocks)) ++
    (if hasScale f then (List.range rows).map fun r => (sbase + r * sstride, blocks) else [])

/-- First column of a target. -/
def targetCol0 (t : Nat) : Nat := if t = 2 then 16 else 0

def rowsA (w : Word64) (base sbase : Nat) : List (Nat × Nat) :=
  operandRows (cfgFmtA w) (cfgBlocks w) 32 base (32 * bf w 42 29) sbase (32 * bf w 14 9)
def rowsB (w : Word64) (t base sbase : Nat) : List (Nat × Nat) :=
  operandRows (cfgFmtB w) (cfgBlocks w) (targetCols t) base (32 * bf w 28 15) sbase (32 * bf w 8 3)

/-- Ranges that a run on target `t` reads. -/
def RunOp.reads (r : RunOp) (t : Nat) : List (Nat × Nat) := rowsA r.cfg r.aBase r.aScale ++ rowsB r.cfg t r.bBase r.bScale

/-- The offsets at which bases and ranges break R145: a base not aligned to 32 bytes, the first byte of a range
outside core store. -/
def badOffsets (bases : List Nat) (rs : List (Nat × Nat)) : List Nat :=
  bases.filter (fun b => b % 32 ≠ 0) ++ rs.filterMap fun r => if 2 ^ 19 < r.1 + r.2 then some (max r.1 (2 ^ 19)) else none

/-! ### The queues -/

def Arr.cfgOf (a : Arr) (t : Nat) : Word64 := NMap.get a.cfg t Arr.cfgReset
def Arr.setQueue (a : Arr) (t : Nat) (q : List ArrOp) : Arr := { a with queues := NMap.set a.queues t q [] }

/-- A target fits the array's mode (ARRAY_MODE). -/
def Arr.modeOk (a : Arr) (t : Nat) : Bool := if a.split then t = 1 || t = 2 else t = 0
/-- A group may use a target of the array (R153, ARRAY_OWNER). -/
def Arr.ownerOk (a : Arr) (t g : Nat) : Bool := if a.split && t = 1 then a.own0 = g else if a.split && t = 2 then a.own1 = g else true

/-- Checks of an array instruction in order of their codes, ARRAY_ADDRESS naming the lowest offset (R167, R202). -/
def arrayCheck (fmt : Bool) (offs : List Nat) (mode owner poison : Bool) : Option Eff :=
  if !fmt then some (.exc Exc.arrayFormat allLanes 0)
  else match offs with
  | o :: t => some (.exc Exc.arrayAddress allLanes (t.foldl min o))
  | [] =>
    if !mode then some (.exc Exc.arrayMode allLanes 0)
    else if !owner then some (.exc Exc.arrayOwner allLanes 0)
    else if poison then some (.exc Exc.poisonedControl allLanes 0)
    else none

/-- An array instruction offered (R662): it parks while another group's mx.split of the core is pending. -/
def State.issueArray (s : State) (c g : Nat) (legal : Bool) (body : State → Eff) : Host.Outcome State Fault Refusal :=
  s.issue c g 1 legal [] [] fun s =>
    if (s.core c).arr.pendSplit.isSome then .park .splitPending else body s

/-- An entry put at the end of a queue, or the group parked when it holds 4 (R164). -/
def State.enqueueArr (s : State) (c t : Nat) (o : Nat → ArrOp) : Eff :=
  let k := s.core c
  if 4 ≤ (k.arr.queue t).length then .park .arrayFull
  else .next (s.setCore c { k with arr := k.arr.setQueue t (k.arr.queue t ++ [o k.nextId]), nextId := k.nextId + 1 })

/-! ### The instructions -/

/-- TARGET of mx.run and mx.drain. -/
def fTarget (w : IWord) : Nat := bf w 40 39

/-- MX_CFG (R144, R163, R167). -/
def execMxCfg (c g : Nat) (w : IWord) (s : State) : Host.Outcome State Fault Refusal :=
  s.issueArray c g (plainGroup w && fMod w = 0 && regs w 1 32 && fImm w = 0) fun s =>
    let a := (s.core c).arr
    let v := (s.grp c g).sreg (fSrc1 w)
    let t := cfgTarget v.val
    match arrayCheck (v.poison || cfgOk v.val) [] (v.poison || a.modeOk t) (v.poison || a.ownerOk t g) v.poison with
    | some e => e
    | none => .next (s.modArr c fun a => { a with cfg := NMap.set a.cfg t (cfgStored v.val) Arr.cfgReset })

/-- MX_RUN (R141, R145, R163, R226): a poisoned base is not tested (R202). DESIGN CHOICE (log entry 103): the scale base of a
format without a scale plane is not tested either; nothing reads it. -/
def execMxRun (c g : Nat) (w : IWord) (s : State) : Host.Outcome State Fault Refusal :=
  s.issueArray c g (plainGroup w && regs w 1 32 && lowRR w 32 1 && fTarget w ≠ 3 && !bit w 36) fun s =>
    let a := (s.core c).arr
    let x := s.grp c g
    let t := fTarget w
    let cfg := a.cfgOf t
    let va := x.sreg (fSrc1 w)
    let vb := x.sreg (fSrc2 w)
    let (ab, asc) := (bf va.val 18 0, bf va.val 50 32)
    let (bb, bsc) := (bf vb.val 18 0, bf vb.val 50 32)
    let basesOf (f base sbase : Nat) : List Nat := if hasScale f then [base, sbase] else [base]
    let offs := (if va.poison then [] else badOffsets (basesOf (cfgFmtA cfg) ab asc) (rowsA cfg ab asc)) ++
      (if vb.poison then [] else badOffsets (basesOf (cfgFmtB cfg) bb bsc) (rowsB cfg t bb bsc))
    match arrayCheck (cfgOk cfg) offs (a.modeOk t) (a.ownerOk t g) (va.poison || vb.poison) with
    | some e => e
    | none =>
      s.enqueueArr c t fun id => .run
        { id := id, group := g, job := x.job.getD 0, cfg := cfg, bank := b2n (bit w 38), add := bit w 37, aBase := ab,
          aScale := asc, bBase := bb, bScale := bsc, epoch := s.grpEpoch x, mark := 0 } false

/-- MX_DRAIN (R148, R163, R226). DESIGN CHOICE (log entry 126): a stride that is no multiple of 32 bytes raises ARRAY_ADDRESS as one below
the minimum does (R167), and a stride that is refused names the base. -/
def execMxDrain (c g : Nat) (w : IWord) (s : State) : Host.Outcome State Fault Refusal :=
  s.issueArray c g (plainGroup w && regs w 1 32 && lowRR w 1 1 && fTarget w ≠ 3 && bf w 37 36 = 0) fun s =>
    let a := (s.core c).arr
    let x := s.grp c g
    let t := fTarget w
    let v := x.sreg (fSrc1 w)
    let base := bf v.val 18 0
    let stride := bf v.val 50 32
    let d (id : Nat) : DrainOp :=
      { id := id, group := g, job := x.job.getD 0, bank := b2n (bit w 38), base := base, stride := stride, epoch := s.grpEpoch x }
    let offs := if v.poison then []
      else (if stride % 32 ≠ 0 || decide (stride < 4 * targetCols t) then [base] else []) ++ badOffsets [base] ((d 0).writes t)
    match arrayCheck true offs (a.modeOk t) (a.ownerOk t g) v.poison with
    | some e => e
    | none => s.enqueueArr c t fun id => .drain (d id) false

/-- The array after a split takes effect (R152). -/
def Arr.applySplit (a : Arr) (p : PendSplit) : Arr :=
  { a with split := p.split, own0 := if p.split then p.own0 else 0, own1 := if p.split then p.own1 else 0, cfg := [],
           work := mapCanon a.work CellWork.reset fun _ k => { k with stack := [] }, pendSplit := none }

/-- MX_SPLIT (R151, R163): at once when no earlier array work remains, else the group waits for it. -/
def execMxSplit (c g : Nat) (w : IWord) (s : State) : Host.Outcome State Fault Refusal :=
  s.issueArray c g (plainGroup w && regs w 1 1 && modOnly w 0x10 && bf w 7 4 = 0 && bf w 31 12 = 0) fun s =>
    let a := (s.core c).arr
    let p : PendSplit := { group := g, split := bit w 40, own0 := bf w 3 0, own1 := bf w 11 8 }
    let held (n : Nat) : Bool := (s.grp c n).job.isSome
    if p.split && !(held p.own0 && held p.own1) then .exc Exc.arrayOwner allLanes 0
    else if a.queues.isEmpty then .next (s.modArr c fun a => a.applySplit p)
    else .placed ((s.modArr c fun a => { a with pendSplit := some p }).modGrp c g fun x => { x with run := .parked .splitWait })

/-! ### Events -/

/-- A core and a target of its array. -/
def badArray (c t : Nat) : Bool := decide (384 ≤ c) || decide (3 ≤ t)

/-- The entries before the first one that satisfies `p`, that one, and those after it. -/
def splitOn (p : ArrOp → Bool) : List ArrOp → Option (List ArrOp × ArrOp × List ArrOp)
  | [] => none
  | o :: t => if p o then some ([], o, t) else (splitOn p t).map fun x => (o :: x.1, x.2.1, x.2.2)

def ArrOp.isRun : ArrOp → Bool
  | .run _ _ => true
  | .drain _ _ => false
def ArrOp.started : ArrOp → Bool
  | .run _ b => b
  | .drain _ b => b
def ArrOp.bank : ArrOp → Nat
  | .run r _ => r.bank
  | .drain d _ => d.bank

/-- The sectors that a run of core `c` reads. -/
def RunOp.sectors (r : RunOp) (c t : Nat) : List Nat :=
  ((r.reads t).flatMap fun x => upFrom (storeAddr c x.1 / 32) ((x.1 % 32 + x.2 + 31) / 32)).eraseDups

/-- ARRAY_RUN_START (R140, R165): the next run starts its operand cycles when no bulk stream stalls the array and
no earlier drain writes a byte that it reads; none of a job starts in a slip (R72). -/
def execArrayRunStart (c t : Nat) (s : State) : Host.Outcome State Fault Refusal :=
  if badArray c t then .refused .noSuchUnit
  else
    let k := s.core c
    match splitOn (fun o => o.isRun && !o.started) (k.arr.queue t) with
    | some (before, .run r _, after) =>
      let clash := before.any fun o => match o with
        | .drain d _ => rangesMeet (d.writes t) (r.reads t)
        | .run _ _ => false
      if clash || k.bulk ≠ 0 || s.slipped r.job || !s.coreAlive c then .next s
      else .next (s.setCore c { k with arr := k.arr.setQueue t (before ++ .run { r with mark := s.storeLog.length } true :: after) })
    | _ => .next s

/-- Cells of a target. -/
def targetCells (t : Nat) : List (Nat × Nat) :=
  (List.range 32).flatMap fun i => (upFrom (targetCol0 t) (targetCols t)).map fun j => (i, j)

/-- Key of a cell's bank value. -/
def cellKey (b i j : Nat) : Nat := 1024 * b + 32 * i + j

/-- The bank writes of a run's result (R141, R155, R156): `res` gives each cell's work and whether a product or a
half fault poisons it; a poisoned cell's value is undefined, `free` (log entry 14). -/
def Arr.writeBank (a : Arr) (r : RunOp) (t : Nat) (res : Nat → Nat → CellWork × Bool) (free : Nat → Word32) : Arr :=
  (targetCells t).foldl (fun a x =>
    let (i, j) := x
    let (k, p) := res i j
    let key := cellKey r.bank i j
    let poison := p || (r.add && NMap.get a.bankPoison key false)
    let v := closeFold k.stack
    let v := if r.add then addW (NMap.get a.bank key 0) v else v
    { a with work := NMap.set a.work (32 * i + j) { k with stack := [] } CellWork.reset,
             bank := NMap.set a.bank key (if poison then free (32 * i + j) else v) 0,
             bankPoison := NMap.set a.bankPoison key poison false }) a

/-- Epoch, job number and partition that a record about a job names. -/
def State.recJob (s : State) (j : Nat) : Word32 × Nat :=
  match s.job j with
  | some b => (b.number, partOf j)
  | none => (0, 0)

/-- The HALF_FAULT records of a run (R156, R157). -/
def State.halfFaults (s : State) (c t : Nat) (r : RunOp) (err : ArrayError) : State :=
  let (num, p) := s.recJob r.job
  let rec1 (s : State) (h : Nat) : State :=
    s.raise { unit := coreRef s.device c, cls := 0x04, job := num, epoch := r.epoch, part := p,
              syndrome := h + 2 * r.bank + 4 * b2n (s.core c).arr.split }
  let s := if err.half0 && t ≠ 2 then rec1 s 0 else s
  if err.half1 && t ≠ 1 then rec1 s 1 else s

/-- Whether a mismatch is one that the array can find in a run: the checksums cover the codes up to 0xA, the duplicated stage every
run (R158, R160). -/
def mismatchFits (m : CheckMismatch) (r : RunOp) : Bool := m.check % 3 = 2 || decide (cfgFmtA r.cfg ≤ 10)

/-- The ARRAY_CHECK record of a mismatch; the job's current step is suspect (R161, R547). -/
def State.arrayMismatch (s : State) (c t : Nat) (r : RunOp) (m : CheckMismatch) : State :=
  let (num, p) := s.recJob r.job
  let epoch := match s.job r.job with
    | some b => b.epoch
    | none => r.epoch
  let row := if m.check = 1 then 0xFF else m.row % 32
  let col := if m.check = 0 then 0xFF else m.column % 32
  let s := s.suspect r.job epoch c 0x03
  s.raise { unit := coreRef s.device c, cls := 0x03, job := num, epoch := epoch, part := p,
            syndrome := m.check % 3 + row * 2 ^ 8 + col * 2 ^ 16 + t * 2 ^ 24 + r.bank * 2 ^ 26 + m.block % 1024 * 2 ^ 32 }

/-- A sector as a run takes it that has had other versions since the run started: byte `k` is that of version `pick k`, the last of
which is the sector as it stands. -/
def Sector.amid (x : Sector) (old : List (List Byte × Bool)) (pick : Nat → Nat) : Sector :=
  let vs := old ++ [(x.data, x.poison)]
  let from_ (k : Nat) : List Byte × Bool := vs.getD (pick k % vs.length) (x.data, x.poison)
  { x with data := (List.range 32).map (fun k => (from_ k).1.getD k 0), bad := false,
           tag := tagByte ((List.range 32).any fun k => (from_ k).2) (bit x.tag 6) }

/-- The sectors that a run reads, each read once (R651). Of a sector that was written since the run started, each byte is as it
stood at some moment of the run, a free choice: the cycle that consumes it is not known to the model. -/
def State.readRun (s : State) (c t : Nat) (r : RunOp) : NMap Sector × State :=
  let (m, s) := s.readEach .store (r.sectors c t)
  let log := s.storeLog.drop r.mark
  let old (i : Nat) : List (List Byte × Bool) := (log.filter fun x => x.1 = i).map (·.2)
  if m.all fun x => (old x.1).isEmpty then (m, s)
  else
    (m.zipIdx.map fun x => (x.1.1, if (old x.1.1).isEmpty then x.1.2 else x.1.2.amid (old x.1.1) fun k => (s.freeAt 16 (32 * x.2 + k)).toNat),
      s.used (32 * m.length))

/-- Rows of blocks of an operand. -/
def operandBlocks (m : NMap Sector) (c f blocks rows base stride sbase sstride : Nat) : List (List Blk) :=
  (List.range rows).map fun r => (List.range blocks).map fun j =>
    rowBlock m f (storeAddr c (base + r * stride)) (storeAddr c (sbase + r * sstride)) j

/-- ARRAY_RUN_END (R131, R139, R141, R155 to R161, R164): the first run of the queue, once started, writes its
result when no earlier drain of its bank remains. -/
def execArrayRunEnd (c t : Nat) (err : ArrayError) (s : State) : Host.Outcome State Fault Refusal :=
  if badArray c t then .refused .noSuchUnit
  else
    let k := s.core c
    match splitOn ArrOp.isRun (k.arr.queue t) with
    | some (before, .run r true, after) =>
      if before.any (fun o => o.bank = r.bank) || k.bulk ≠ 0 || !s.coreAlive c then .next s
      else
        let (m, s) := s.readRun c t r
        let w := r.cfg
        let ra := operandBlocks m c (cfgFmtA w) (cfgBlocks w) 32 r.aBase (32 * bf w 42 29) r.aScale (32 * bf w 14 9)
        let rb := operandBlocks m c (cfgFmtB w) (cfgBlocks w) (targetCols t) r.bBase (32 * bf w 28 15) r.bScale (32 * bf w 8 3)
        let wide := decide (11 ≤ cfgFmtA w)
        let fault (j : Nat) : Bool := if t = 0 then err.half0 || err.half1 else if j < 16 then err.half0 else err.half1
        let res (i j : Nat) : CellWork × Bool :=
          let (q, p) := runCell wide (ra.getD i []) (rb.getD (j - targetCol0 t) [])
          (q, p || fault j)
        let s0 := s
        let s := s.modArr c fun a => (a.setQueue t (before ++ after)).writeBank r t res fun n => s0.freeAt 32 n
        let s := ((s.used 1024).modCore c fun k => { k with cnt := k.cnt.add cntArrayBusy (runCycles w) }).halfFaults c t r err
        let s := (err.mismatches.filter fun x => mismatchFits x r).foldl (fun s x => s.arrayMismatch c t r x) s
        .next (s.trimLog.unpark (· = c) Park.isArray)
    | _ => .next s

/-- ARRAY_DRAIN_START (R149, R165): after every earlier run into its bank has written, and after every earlier run
that reads a byte it writes. -/
def execArrayDrainStart (c t : Nat) (s : State) : Host.Outcome State Fault Refusal :=
  if badArray c t then .refused .noSuchUnit
  else
    let k := s.core c
    match splitOn (fun o => !o.isRun && !o.started) (k.arr.queue t) with
    | some (before, .drain d _, after) =>
      let clash := before.any fun o => match o with
        | .run r _ => r.bank = d.bank || rangesMeet (d.writes t) (r.reads t)
        | .drain _ _ => false
      if clash || k.bulk ≠ 0 || s.slipped d.job || !s.coreAlive c then .next s
      else .next (s.setCore c { k with arr := k.arr.setQueue t (before ++ .drain d true :: after) })
    | _ => .next s

/-- The sectors that a drain writes: core-store offset, bytes, poison (R148, R150). -/
def Arr.drainSectors (a : Arr) (d : DrainOp) (t : Nat) : List (Nat × List Byte × Bool) :=
  (List.range 32).flatMap fun i => (List.range (targetCols t / 8)).map fun b =>
    let cells := (upFrom (targetCol0 t + 8 * b) 8).map fun j => cellKey d.bank i j
    (d.base + i * d.stride + 32 * b, cells.flatMap fun k => leBytes 4 (NMap.get a.bank k 0).toNat,
      cells.any fun k => NMap.get a.bankPoison k false)

/-- Work `id` of a core's array done: posts of its groups wait for it no more (R420). -/
def Core.arrayDone (k : Core) (id : Nat) : Core :=
  k.mapGroups fun _ x => { x with posts := x.posts.map fun p => { p with waits := p.waits.filter fun y => y ≠ id } }

/-- ARRAY_DRAIN_END (R148 to R150, R164, R527). -/
def execArrayDrainEnd (c t : Nat) (s : State) : Host.Outcome State Fault Refusal :=
  if badArray c t then .refused .noSuchUnit
  else
    let k := s.core c
    match splitOn (fun o => !o.isRun) (k.arr.queue t) with
    | some (before, .drain d true, after) =>
      if k.bulk ≠ 0 || !s.coreAlive c then .next s
      else
        let xs := k.arr.drainSectors d t
        let s := xs.foldl (fun s x => s.putSector .store (storeAddr c x.1 / 32) x.2.1 x.2.2 false) s
        let s := if xs.any fun x => x.2.2 then s.suspect d.job d.epoch c 0x02 else s
        let s := s.modCore c fun k => { k with arr := k.arr.setQueue t (before ++ after) }.arrayDone d.id
        .next (s.unpark (· = c) Park.isArray)
    | _ => .next s

/-- MX_SPLIT_EFFECT (R151, R152, R184, R662): when the array's earlier work is done. -/
def execMxSplitEffect (c : Nat) (s : State) : Host.Outcome State Fault Refusal :=
  if 384 ≤ c then .refused .noSuchUnit
  else
    let a := (s.core c).arr
    match a.pendSplit with
    | none => .next s
    | some p =>
      if s.clocksStopped || !a.queues.isEmpty then .next s
      else
        let s := (s.modArr c fun a => a.applySplit p).modGrp c p.group fun x =>
          if x.parkedFor (fun r => decide (r = .splitWait)) then x.wake true else x
        .next (s.unpark (· = c) fun r => decide (r = .splitPending))

/-- BULK_STREAM_END (R147): a bulk stream over a core's port ends; with the last one runs and drains resume. -/
def execBulkStreamEnd (c : Nat) (s : State) : Host.Outcome State Fault Refusal :=
  if 384 ≤ c then .refused .noSuchUnit else .next (s.modCore c fun k => { k with bulk := k.bulk - 1 })

end Sys2Proof.Machine
end

