-- ==== Sys2Proof/Machine/Control.lean ====
section
/-!
DEFINITION. Control instructions, class 0x7 (R174, R175, R198, R218, R230): latency S, pipe 0, group-level,
layout RI.
-/

namespace Sys2Proof.Machine

open Sys2Proof

/-- Fields that every control instruction leaves 0 but for DST of `nd` and SRC1 of `n1` registers (1 where
unused). -/
def lowControl (w : IWord) (nd n1 : Nat) : Bool := plainGroup w && fMod w = 0 && regs w nd n1

/-- A branch target in IMM32[13:0]; IMM32[31:14] is reserved. -/
def targetOk (w : IWord) : Bool := bf w 31 14 = 0

/-- A taken branch to an index, or FETCH_FAULT for one outside the job's stream; `u` is the state that the
instruction leaves beside the program counter. -/
def branchTo (c g : Nat) (s u : State) (pc : Nat) : Eff :=
  if s.inStream c g pc then .jump u pc else .exc Exc.fetch allLanes 0

/-- A branch on a condition of the group. -/
def branchIf (c g : Nat) (w : IWord) (s : State) (taken : Bool) : Eff :=
  if taken then branchTo c g s s (bf w 13 0) else .next s

/-- JMP (R218). -/
def execJmp (c g : Nat) (w : IWord) (s : State) : Host.Outcome State Fault Refusal :=
  s.issue c g 0 (lowControl w 1 1 && targetOk w) [] [] fun s => branchIf c g w s true

/-- M AND pk, pk in SRC1. -/
def Grp.anyLanes (x : Grp) (w : IWord) : Word32 := x.mask &&& x.preg (fSrc1 w)

/-- BR_ANY (R175, R218): taken when M AND pk is not 0. -/
def execBrAny (c g : Nat) (w : IWord) (s : State) : Host.Outcome State Fault Refusal :=
  s.issue c g 0 (lowControl w 1 8 && targetOk w) [] [] fun s => branchIf c g w s ((s.grp c g).anyLanes w ≠ 0)

/-- BR_ALL (R175, R218): taken when M AND NOT pk is 0. -/
def execBrAll (c g : Nat) (w : IWord) (s : State) : Host.Outcome State Fault Refusal :=
  s.issue c g 0 (lowControl w 1 8 && targetOk w) [] [] fun s =>
    let x := s.grp c g
    branchIf c g w s (x.mask &&& ~~~(x.preg (fSrc1 w)) = 0)

/-- BR_NONE (R175, R218): taken when M AND pk is 0. -/
def execBrNone (c g : Nat) (w : IWord) (s : State) : Host.Outcome State Fault Refusal :=
  s.issue c g 0 (lowControl w 1 8 && targetOk w) [] [] fun s => branchIf c g w s ((s.grp c g).anyLanes w = 0)

/-- A branch on a scalar: a poisoned one raises POISONED_CONTROL. -/
def branchScalar (c g : Nat) (w : IWord) (cond : Word64 → Bool) (s : State) : Eff :=
  let a := (s.grp c g).sreg (fSrc1 w)
  if a.poison then .exc Exc.poisonedControl allLanes 0 else branchIf c g w s (cond a.val)

/-- BR_Z (R218). -/
def execBrZ (c g : Nat) (w : IWord) (s : State) : Host.Outcome State Fault Refusal :=
  s.issue c g 0 (lowControl w 1 32 && targetOk w) [] [] fun s => branchScalar c g w (· = 0) s

/-- BR_NZ (R218). -/
def execBrNz (c g : Nat) (w : IWord) (s : State) : Host.Outcome State Fault Refusal :=
  s.issue c g 0 (lowControl w 1 32 && targetOk w) [] [] fun s => branchScalar c g w (· ≠ 0) s

/-- CALL (R218): sd = PC + 1, then a jump. -/
def execCall (c g : Nat) (w : IWord) (s : State) : Host.Outcome State Fault Refusal :=
  s.issue c g 0 (lowControl w 32 1 && targetOk w) [] [] fun s =>
    let u := s.modGrp c g fun x => x.setSreg (fDst w) (sclean (BitVec.ofNat 64 (x.pc.toNat + 1)))
    branchTo c g s u (bf w 13 0)

/-- JMP_R (R218): PC = sa[13:0]; sa[63:14] must be 0. -/
def execJmpR (c g : Nat) (w : IWord) (s : State) : Host.Outcome State Fault Refusal :=
  s.issue c g 0 (lowControl w 1 32 && fImm w = 0) [] [] fun s =>
    let a := (s.grp c g).sreg (fSrc1 w)
    if a.poison then .exc Exc.poisonedControl allLanes 0 else branchTo c g s s a.val.toNat

/-- MASK_PUSH (R174): push M, then M = M AND pk. -/
def execMaskPush (c g : Nat) (w : IWord) (s : State) : Host.Outcome State Fault Refusal :=
  s.issue c g 0 (lowControl w 1 8 && fImm w = 0) [] [] fun s =>
    let x := s.grp c g
    if 16 ≤ x.stack.length then .exc Exc.maskOverflow allLanes 0
    else .next (s.setGrp c g { x with stack := x.mask :: x.stack, mask := x.anyLanes w })

/-- MASK_ELSE (R174): M = top AND NOT M. -/
def execMaskElse (c g : Nat) (w : IWord) (s : State) : Host.Outcome State Fault Refusal :=
  s.issue c g 0 (lowControl w 1 1 && fImm w = 0) [] [] fun s =>
    let x := s.grp c g
    match x.stack with
    | [] => .exc Exc.maskUnderflow allLanes 0
    | t :: _ => .next (s.setGrp c g { x with mask := t &&& ~~~x.mask })

/-- MASK_POP (R174): M = top; pop. -/
def execMaskPop (c g : Nat) (w : IWord) (s : State) : Host.Outcome State Fault Refusal :=
  s.issue c g 0 (lowControl w 1 1 && fImm w = 0) [] [] fun s =>
    let x := s.grp c g
    match x.stack with
    | [] => .exc Exc.maskUnderflow allLanes 0
    | t :: r => .next (s.setGrp c g { x with mask := t, stack := r })

/-- What a group still has outstanding at a cheap point (R198): a gather or scatter, a descriptor or lookup not
accepted, array work queued in a half of its job. A replay core has enqueued under the name of its suspect core (R539). -/
def State.busyAtCheap (s : State) (c g : Nat) : Bool :=
  let x := s.grp c g
  let sc := s.idCore (x.job.getD 0) c
  let cl := s.cluster (sc / 8)
  x.slots.any (fun k => k.2.kind ≠ .zero) ||
    cl.dma.any (fun q => q.2.any fun d => !d.accepted && d.core = sc && d.group = g) ||
    cl.lookWait.any (fun l => match l.source with
      | .prog _ core group _ => core = sc && group = g
      | .host _ => false) ||
    (s.core c).arr.queues.any fun q => q.2.any fun o => x.job = some o.job

/-- A job whose groups have all stopped at the cheap point of its pending pre-emption, or ended before it, starts to save
(R199, R518); the pre-emption of one whose groups have all ended is discarded (R520). -/
def State.checkStopped (s : State) (j : Nat) : State :=
  match s.job j with
  | none => s
  | some b => match b.pendCheap with
    | none => s
    | some n =>
      let gs := (s.jobGroups j).map fun x => (s.grp x.1 x.2).run
      if !gs.all fun r => r = .stopped n || r = .ended then s
      else s.setJob j (some (if gs.contains (.stopped n) then { b with phase := .saving n } else { b with pendCheap := none }))

/-- CHEAP_MARK (R198 to R200): with a pre-emption pending for cheap point n the group stops after it. -/
def execCheapMark (c g : Nat) (w : IWord) (s : State) : Host.Outcome State Fault Refusal :=
  s.issue c g 0 (lowControl w 1 1 && bf w 31 16 = 0) [] [] fun s =>
    let n := bf w 15 0
    if s.busyAtCheap c g then .exc Exc.cheapPoint allLanes 0
    else match (s.grp c g).job with
    | none => .next s
    | some j => match (s.job j).bind (·.pendCheap) with
      | none => .next s
      | some m =>
        if m = n then
          .placed ((s.modGrp c g fun x => { x with run := .stopped n, pc := x.pc + 1 }).checkStopped j)
        else .next s

/-- END (R230): the group issues nothing more for the job. -/
def execEndGroup (c g : Nat) (w : IWord) (s : State) : Host.Outcome State Fault Refusal :=
  s.issue c g 0 (lowControl w 1 1 && fImm w = 0) [] [] fun s =>
    let t := s.modGrp c g fun x => { x with run := .ended }
    match (s.grp c g).job with
    | some j => .placed (t.checkStopped j)
    | none => .placed t

end Sys2Proof.Machine
end

