-- ==== Sys2Proof/Machine/Sync.lean ====
section
/-!
DEFINITION. Semaphores, tick waits, commits and submissions, classes 0x8 and 0x9 (R184, R227 to R229, R362,
R417 to R421, R656, R657, R659, R665).
-/

namespace Sys2Proof.Machine

open Sys2Proof

/-- Semaphore and count of sem.wait and sem.post. -/
def fSem (w : IWord) : Nat := bf w 7 0
def fCount (w : IWord) : Nat := bf w 23 8

/-- Reserved fields of the immediate of sem.wait and sem.post: IMM32[31:24], and a count of 0. -/
def semOk (w : IWord) : Bool := bf w 31 24 = 0 && fCount w ≠ 0

/-- SEM_WAIT (R184, R418, R419): passes when the count is there and no group waits ahead, else joins the queue. -/
def execSemWait (c g : Nat) (w : IWord) (s : State) : Host.Outcome State Fault Refusal :=
  s.issue c g 1 (lowControl w 1 1 && semOk w) [] [] fun s =>
    let cl := s.idCore ((s.grp c g).job.getD 0) c / 8
    let k := s.cluster cl
    let n := fSem w
    let cnt := (NMap.get k.sem n 0).toNat
    let q := NMap.get k.semQ n []
    if q.isEmpty && decide (fCount w ≤ cnt) then
      .next (s.setCluster cl { k with sem := NMap.set k.sem n (BitVec.ofNat 32 (cnt - fCount w)) 0 })
    else
      let s := s.setCluster cl { k with semQ := NMap.set k.semQ n (q ++ [{ core := c, group := g, count := fCount w }]) [] }
      .placed (s.modGrp c g fun x => { x with run := .parked (.sem n (fCount w)) })

/-- What a post names, by s[SRC1]: a cluster of this device or of another, or nothing that R656 allows. -/
inductive PostTarget where
  | own (cl : Nat)
  | other (dev cl : Nat)
  | bad
deriving DecidableEq, Repr

/-- The target of a post (R656). -/
def State.postTarget (s : State) (j cl : Nat) (v : Word64) : PostTarget :=
  if v = 0 then .own cl
  else if bf v 63 32 ≠ 0 then .bad
  else match unitOf (BitVec.ofNat 32 (bf v 31 0)) with
  | .cluster d i =>
    if d ≠ s.device then .other d i
    else if (s.partClusters (partOf j)).contains i then .own i else .bad
  | _ => .bad

/-- A post that cannot be delivered (R656): a SYNC record, and the task ends. -/
def State.postRefused (s : State) (j c dev sem count : Nat) : State :=
  let (num, p) := s.recJob j
  let ep := match s.job j with
    | some b => b.epoch
    | none => 0
  let s := s.raise { unit := clusterRef s.device (c / 8), cls := 0x09, job := num, epoch := ep, part := p,
                     syndrome := sem + 2 ^ 8 + count * 2 ^ 32 + dev * 2 ^ 96 }
  s.stopJob j { status := Status.remoteRefused, unit := devRef dev } []

/-- The operations of a group that a post waits for (R420): scatters and zeros not yet visible, drains not yet
written. -/
def State.postWaits (s : State) (c g : Nat) : List Nat :=
  let x := s.grp c g
  (x.slots.filterMap fun k => if k.2.kind = .gather then none else some k.2.id) ++
    (s.core c).arr.queues.flatMap fun q => q.2.filterMap fun o => if !o.isRun && o.group = g then some o.id else none

/-- SEM_POST (R420, R656): the post is entered and takes effect at SEM_POST_EFFECT. -/
def execSemPost (c g : Nat) (w : IWord) (s : State) : Host.Outcome State Fault Refusal :=
  s.issue c g 1 (lowControl w 1 32 && semOk w) [] [] fun s =>
    let x := s.grp c g
    let a := x.sreg (fSrc1 w)
    let j := x.job.getD 0
    if a.poison then .exc Exc.poisonedControl allLanes 0
    else
      let enter (d cl : Nat) : Eff :=
        let p : Post := { dev := d, cluster := cl, sem := fSem w, count := fCount w, waits := s.postWaits c g }
        .next (s.setGrp c g { x with posts := x.posts ++ [p] })
      match s.postTarget j (s.idCore j c / 8) a.val with
      | .bad => .exc Exc.semaphore allLanes 0
      | .own cl => enter s.device cl
      | .other d cl =>
        if (s.portToward d 0).isNone then .placed (s.postRefused j c d (fSem w) (fCount w)) else enter d cl

/-- SEM_POST_EFFECT (R414, R418, R420, R421): post `i` of a group, whose earlier stores are visible and earlier drains
written, takes effect in its own cluster, or sets out for another one. -/
def execSemPostEffect (c g i : Nat) (s : State) : Host.Outcome State Fault Refusal :=
  if 384 ≤ c ∨ 16 ≤ g then .refused .noSuchUnit
  else
    let x := s.grp c g
    match x.posts[i]?, x.job with
    | some p, some j =>
      if s.clocksStopped || !p.waits.isEmpty then .next s
      else
        let s := s.setGrp c g { x with posts := listDrop x.posts i }
        if p.dev = s.device && p.cluster = s.idCore j c / 8 then .next (s.post p.cluster p.sem p.count (some j))
        else .next { s with postsDue := s.postsDue ++
          [{ due := s.tick + 6, dev := p.dev, cluster := p.cluster, sem := p.sem, count := p.count, number := (s.recJob j).1,
             src := s.device, core := some c }] }
    | _, _ => .next s

/-- A post that has come to where it was sent, 6 ticks after (R414): to a sync unit of this device, which drops it when the partition
of its semaphore holds no such job (R422), or to the ports, to leave for its device (R656). -/
def State.landPost (s : State) (p : PostDue) : State :=
  if p.dev = s.device then
    match (s.clusterPart p.cluster).bind fun n => s.partJob n p.number with
    | some (j, _) => s.post p.cluster p.sem p.count (some j)
    | none => if p.src = s.device then s else s.sendRefuse p.src p.number 1
  else if (s.portToward p.dev 0).isNone then
    match s.jobNumbered p.number, p.core with
    | some j, some c => s.postRefused j c p.dev p.sem p.count
    | _, _ => s
  else s.sendPost p.dev p.number (semPostTokens p.dev p.cluster p.sem p.count p.src p.number) false

/-- Posts whose 6 ticks have passed. -/
def State.landPosts (s : State) : State :=
  (s.postsDue.filter fun p => decide (p.due ≤ s.tick)).foldl State.landPost
    { s with postsDue := s.postsDue.filter fun p => decide (s.tick < p.due) }

/-- TICK_WAIT (R184): parks until STICK reaches s[SRC1] + IMM32. -/
def execTickWait (c g : Nat) (w : IWord) (s : State) : Host.Outcome State Fault Refusal :=
  s.issue c g 1 (lowControl w 1 32) [] [] fun s =>
    let x := s.grp c g
    let a := x.sreg (fSrc1 w)
    let t := a.val + imm64 w
    if a.poison then .exc Exc.poisonedControl allLanes 0
    else if t.toNat ≤ s.grpNow x then .next s
    else .placed (s.setGrp c g { x with run := .parked (.tick t) })

/-- TICK_WAIT_REACHED (R184): STICK has reached the target of a parked group. -/
def execTickWaitReached (c g : Nat) (s : State) : Host.Outcome State Fault Refusal :=
  if 384 ≤ c ∨ 16 ≤ g then .refused .noSuchUnit
  else
    let x := s.grp c g
    if x.parkedFor fun r => match r with
        | .tick t => decide (t.toNat ≤ s.grpNow x)
        | _ => false
    then .next (s.setGrp c g (x.wake true))
    else .next s

/-- COMMIT (R229): the group's end of the current step. -/
def execCommit (c g : Nat) (w : IWord) (s : State) : Host.Outcome State Fault Refusal :=
  s.issue c g 1 (lowControl w 1 1 && fImm w = 0) [] [] fun s => .next (s.modGrp c g fun x => { x with committed := true })

/-! ### Submissions -/

/-- A 64-byte block of core store as words, and whether a sector of it was poisoned. -/
def State.readBlock (s : State) (c off : Nat) : List Word64 × Bool × State :=
  let (b, p, s) := s.readBytes .store (storeAddr c off) 64
  ((List.range 8).map fun i => BitVec.ofNat 64 (fromLe ((b.drop (8 * i)).take 8)), p, s)

/-- Whether a block's offset breaks R227. -/
def blockOffsetBad (v : Word64) : Bool := v.toNat % 32 ≠ 0 || decide (2 ^ 19 < v.toNat + 64)

/-- Fields of a descriptor (R362). -/
def Desc.word (d : Desc) (i : Nat) : Word64 := d.words.getD i 0
def Desc.srcCs (d : Desc) : Bool := bit (d.word 0) 60
def Desc.dstCs (d : Desc) : Bool := bit (d.word 1) 60
def Desc.srcCore (d : Desc) : Nat := bf (d.word 0) 63 61
def Desc.dstCore (d : Desc) : Nat := bf (d.word 1) 63 61
def Desc.src (d : Desc) : Nat := bf (d.word 0) 51 0
def Desc.dst (d : Desc) : Nat := bf (d.word 1) 51 0
def Desc.length (d : Desc) : Nat := bf (d.word 2) 63 32
def Desc.sem (d : Desc) : Nat := bf (d.word 2) 31 24
def Desc.wcet (d : Desc) : Nat := bf (d.word 2) 23 0
def Desc.layer (d : Desc) : Nat := bf (d.word 3) 63 48
def Desc.operator (d : Desc) : Nat := bf (d.word 3) 47 32
def Desc.elastic (d : Desc) : Bool := bit (d.word 3) 3
def Desc.fixed (d : Desc) : Bool := bit (d.word 3) 2
def Desc.jobNumber (d : Desc) : Word32 := BitVec.ofNat 32 (bf (d.word 4) 63 32)
def Desc.epoch (d : Desc) : Word32 := BitVec.ofNat 32 (bf (d.word 4) 31 0)

/-- One endpoint of a descriptor is well formed: alignment, core-store offset and range. -/
def endpointOk (w : Word64) (len : Nat) : Bool :=
  bf w 51 0 % 32 = 0 && (!bit w 60 || (bf w 51 19 = 0 && decide (bf w 18 0 + len ≤ 2 ^ 19)))

/-- Whether a virtual endpoint lies in a remote window. -/
def State.remoteEnd (s : State) (part : Nat) (w : Word64) : Bool :=
  !bit w 60 && (match s.leafAt part (bf w 51 0) with
    | some l => l.kind = 3
    | none => false)

/-- Whether a descriptor is one that R362 lets be queued: no reserved value, in a reserved field or elsewhere; what the module fills
itself is not looked at. -/
def State.descOk (s : State) (part : Nat) (ws : List Word64) : Bool :=
  let w (i : Nat) : Word64 := ws.getD i 0
  let len := bf (w 2) 63 32
  bf (w 0) 59 52 = 0 && bf (w 1) 59 52 = 0 && bf (w 3) 31 4 = 0 && bf (w 3) 1 0 = 0 && bf (w 5) 63 2 = 0 && w 6 = 0 && w 7 = 0 &&
    !(bit (w 0) 60 && bit (w 1) 60) && len % 32 = 0 && decide (32 ≤ len) && decide (len ≤ 2 ^ 28) &&
    decide (1 ≤ bf (w 2) 23 0) && endpointOk (w 0) len && endpointOk (w 1) len &&
    (!bit (w 3) 3 || s.remoteEnd part (w 0) || s.remoteEnd part (w 1))

/-- Whether the job owns DMA queue `q` of cluster `cl` (R657). -/
def State.ownsQueue (s : State) (j cl q : Nat) : Bool :=
  match s.job j with
  | none => false
  | some b => match s.jobImage b with
    | none => false
    | some img => img.dmaQueues.contains (cl, q)

/-- The words of a queued descriptor with the fields that the module fills (R362). -/
def fillDesc (ws : List Word64) (num epoch : Word32) : List Word64 :=
  listSet (listSet ws 4 (BitVec.ofNat 64 (num.toNat * 2 ^ 32 + epoch.toNat))) 5 2

/-- DMA_ENQ (R227, R362, R657, R659): what R362 tests lies in the descriptor's first sector, so poison in the second does not hide
it (R202). -/
def execDmaEnq (c g : Nat) (w : IWord) (s : State) : Host.Outcome State Fault Refusal :=
  s.issue c g 1 (lowControl w 1 32 && bf w 31 2 = 0) [] [] fun s =>
    let x := s.grp c g
    let a := x.sreg (fSrc1 w)
    let j := x.job.getD 0
    let cl := s.idCore j c / 8
    let q := bf w 1 0
    let ds := NMap.get (s.cluster cl).dma q []
    if !a.poison && blockOffsetBad a.val then .exc Exc.storeAddress allLanes a.val.toNat
    else if !s.ownsQueue j cl q then .exc Exc.queue allLanes 0
    else if a.poison then .exc Exc.poisonedControl allLanes 0
    else if s.drainPending c g [(a.val.toNat, 64)] then .wait
    else
      let (ws, p, t) := s.readBlock c a.val.toNat
      if !(s.store.sector (storeAddr c a.val.toNat / 32)).poison && !s.descOk (partOf j) ws then .exc Exc.queue allLanes 0
      else if p then .exc Exc.poisonedControl allLanes 0
      else if 64 ≤ ds.length then .park (.dmaFull cl q)
      else
        let d : Desc := { id := 8 * (t.core c).nextId + c % 8, words := fillDesc ws (t.grpNumber x) (t.grpEpoch x), job := j, core := c, group := g,
                          accepted := false, due := 0, held := false, tokenPosted := false, moved := false, begun := false, leaves := [],
                          order := 0, data := [], stream := none }
        let t := t.modCore c fun k => { k with nextId := k.nextId + 1 }
        .next (t.modCluster cl fun k => { k with dma := NMap.set k.dma q (NMap.get k.dma q [] ++ [d]) [] })

/-- The template of an image that an emb.sub names. -/
def State.template (s : State) (j t : Nat) : Option TemplateImg :=
  match s.job j with
  | none => none
  | some b => match s.jobImage b with
    | none => none
    | some img => img.templates[t]?

/-- EMB_SUB (R227, R231, R657, R665): the parameter block is copied and the lookup submitted. With the engine's
queue full the group parks and keeps its place in the order of those that wait. -/
def execEmbSub (c g : Nat) (w : IWord) (s : State) : Host.Outcome State Fault Refusal :=
  s.issue c g 1 (lowControl w 1 32 && bf w 31 12 = 0) [] [] fun s =>
    let x := s.grp c g
    let a := x.sreg (fSrc1 w)
    let j := x.job.getD 0
    let sc := s.idCore j c
    let k := s.cluster (sc / 8)
    if !a.poison && blockOffsetBad a.val then .exc Exc.storeAddress allLanes a.val.toNat
    else if (s.template j (bf w 11 0)).isNone then .exc Exc.queue allLanes 0
    else if a.poison then .exc Exc.poisonedControl allLanes 0
    else if s.drainPending c g [(a.val.toNat, 64)] then .wait
    else
      let (ws, p, t) := s.readBlock c a.val.toNat
      let r (ws : List Word64) : LookReq :=
        { source := .prog j sc g (bf w 11 0), part := partOf j, words := ws, epoch := t.grpEpoch x }
      let place := k.lookWait.findIdx fun y => y = r []
      let room := decide (k.lookups.length + place < 8)
      if p then .exc Exc.poisonedControl allLanes 0
      else if room then
        .next (t.modCluster (sc / 8) fun k =>
          { k with lookWait := if place < k.lookWait.length then listSet k.lookWait place (r ws) else k.lookWait ++ [r ws] })
      else .parkAt (if place < k.lookWait.length then s
        else s.modCluster (sc / 8) fun k => { k with lookWait := k.lookWait ++ [r []] }) (.engineFull (sc / 8))

end Sys2Proof.Machine
end

