-- ==== Sys2Proof/Machine/Dma.lean ====
section
/-!
DEFINITION. The DMA engines (R362 to R364, R406, R532, R655, R659): acceptance, transfer, completion; elastic
streams that a transfer opens (R398); and the record of a missed WCET (R84, R643).
-/

namespace Sys2Proof.Machine

open Sys2Proof

/-! ### WCET misses -/

/-- What a WCET_MISS record says. -/
structure MissArgs where
  unit : Word32
  job : Option Nat
  epoch : Word32
  kind : Nat
  group : Nat := 0
  queue : Nat := 0
  due : Nat
  base : Nat
  core : Option Nat
  opcode : BitVec 16 := 0xFFFF
  layer : BitVec 16 := 0xFFFF
  operator : BitVec 16 := 0xFFFF
  part : Nat

/-- BASE of a record about a job: replay counter or schedule time (R547). -/
def State.missBase (s : State) (j : Nat) : Nat :=
  match s.job j with
  | some b => if b.replayTick.isSome then 2 else 0
  | none => 0

/-- An operation missed its WCET (R84): the record, and the step suspect for the core that awaited it (R528). -/
def State.wcetMiss (s : State) (a : MissArgs) : State :=
  let num := match a.job with
    | some j => (s.recJob j).1
    | none => 0
  let s := s.raise { unit := a.unit, cls := 0x05, job := num, epoch := a.epoch, part := a.part, opcode := a.opcode, layer := a.layer, operator := a.operator,
                     syndrome := a.kind + a.base * 2 ^ 8 + a.group * 2 ^ 16 + a.queue * 2 ^ 20 + a.due % 2 ^ 64 * 2 ^ 64 }
  match a.job, a.core with
  | some j, some c => s.suspect j a.epoch c 0x05
  | _, _ => s

/-! ### Endpoints -/

/-- The core whose store stands for that of core `c` for job `j`: its replay core while a replay runs (R539). -/
def State.storeCore (s : State) (j c : Nat) : Nat :=
  match s.job j with
  | none => c
  | some b => match b.slip, s.jobImage b with
    | some (.replay _), some img => if b.replaying.contains c then (replayOf img c).getD c else c
    | _, _ => c

/-- Source and destination of a descriptor. -/
def State.descSrc (s : State) (cl : Nat) (d : Desc) : Endpoint :=
  if d.srcCs then .store (s.storeCore d.job (8 * cl + d.srcCore)) d.src else .va (partOf d.job) d.src
def State.descDst (s : State) (cl : Nat) (d : Desc) : Endpoint :=
  if d.dstCs then .store (s.storeCore d.job (8 * cl + d.dstCore)) d.dst else .va (partOf d.job) d.dst

/-- Leaves of an endpoint's range, or the first refused page. -/
def State.endLeaves (s : State) (cl : Nat) (e : Endpoint) (len : Nat) (write : Bool) : Except (Refuse × Nat) (List Leaf) :=
  match e with
  | .store _ _ => .ok []
  | .va part a => s.translateBy (.dma cl) part a len write

/-- Whether a DMA engine can translate an endpoint: its sequencer serves misses, or its cache holds every page (R20, R360). -/
def State.endServed (s : State) (cl : Nat) (e : Endpoint) (len : Nat) : Bool :=
  match e with
  | .store _ _ => true
  | .va part a => !s.walkStopped (.dma cl) || s.allCached (.dma cl) part a len

/-- Core stores that a descriptor streams to or from (R362, R147). -/
def Endpoint.stores : Endpoint → List Nat
  | .store c _ => [c]
  | .va _ _ => []

/-- Whether the route of a stream number from device `a` to device `b` crosses a link of revision 2; `m` bounds the hops. -/
def Fabric.crossesRev2 (f : Fabric) (b stream : Nat) : Nat → Nat → Bool
  | 0, _ => false
  | m + 1, a =>
    if a = b then false
    else match f.route a b stream with
    | none => false
    | some p => match (f.neighbours a).find? fun x => x.1 = p with
      | none => false
      | some (_, c) =>
        (f.links.any fun l => ((l.devA = a && l.portA = p) || (l.devB = a && l.portB = p)) && l.revMax = 2) || Fabric.crossesRev2 f b stream m c

/-- Whether a route toward a device crosses a revision-2 link (R406): one of this device's own ports by its revision, a later one by
the description. DESIGN CHOICE (log entry 128): of the two links to a neighbour, either counts. -/
def State.rev2Toward (s : State) (d : Nat) : Bool :=
  [0, 1].any fun n =>
    (match s.fabric.route s.device d n with
    | some p => (s.port p).rev = 2
    | none => false) || s.fabric.crossesRev2 d n s.fabric.devices.length s.device

/-- Whether a leaf leads through a revision-2 link (R406). -/
def State.viaRev2 (s : State) (l : Leaf) : Bool :=
  match l.target l.va with
  | .remote d _ _ => s.rev2Toward d
  | _ => false

/-- The page that R406 refuses: the first PROTECTED one of the ranges when a route crosses a revision-2 link. -/
def State.rev2Refusal (s : State) (ls : List Leaf) : Option Nat :=
  if ls.any s.viaRev2 then (ls.find? (·.prot)).map (·.va) else none

/-! ### Completion tokens and the end of a descriptor -/

/-- Descriptor `id` of queue `q` replaced, or removed. -/
def State.setDesc (s : State) (cl q id : Nat) (f : Desc → Option Desc) : State :=
  s.modCluster cl fun k =>
    { k with dma := NMap.set k.dma q ((NMap.get k.dma q []).filterMap fun d => if d.id = id then f d else some d) [] }

/-- A descriptor finished: its queue entry frees, and groups that wait for it are ready (R184, R659). -/
def State.finishDesc (s : State) (cl q id : Nat) : State :=
  (s.setDesc cl q id fun _ => none).unpark (fun _ => true) (Park.isDma cl q)

/-- A descriptor's completion token (R228). -/
def State.descToken (s : State) (cl : Nat) (d : Desc) : State := s.post cl d.sem 1 (some d.job)

/-! ### Elastic streams of this device (R398) -/

/-- The lowest stream number that this device does not use. -/
def State.freeStream (s : State) : Nat :=
  firstOr 0 (fun n => !(s.ports.any fun p => p.2.txStreams.any fun t => t.src = some s.device && t.stream = n)) (List.range 65536)

/-- The three tokens of STREAM_OPEN (R416). -/
def streamOpenTokens (dst stream window : Nat) (mcast rel : Bool) (job : Word32) (len base : Nat) : List Word64 :=
  [token 0x1B (dst * 2 ^ 46 + stream * 2 ^ 30 + window * 2 ^ 22 + b2n mcast * 2 ^ 21 + b2n rel * 2 ^ 20),
   token 0x1B (job.toNat * 2 ^ 24 + len % 2 ^ 24), token 0x1B (len / 2 ^ 24 * 2 ^ 54 + base * 2 ^ 20)]

/-- An elastic stream opened toward a window of another device and its sectors queued at the port of its route; none
where no port leads there, and none of a pool without credits (R509). -/
def State.openStream (s : State) (dev window base : Nat) (rel : Bool) (job epoch : Word32) (layer operator : BitVec 16)
    (prov : Bool) (pool : Option Nat) (xs : List (BitVec 256 × Byte)) : Option State :=
  let n := s.freeStream
  if pool.any fun q => recCredits (s.part q).recWords = 0 then none
  else match s.portToward dev n with
  | none => none
  | some p =>
    let t : TxStream :=
      { src := some s.device, stream := n, dst := dev, mcast := false, job := job, epoch := epoch, layer := layer, operator := operator,
        prov := prov, length := xs.length, next := 0, sectors := xs.zipIdx.map fun x => (x.2, x.1), pool := pool, via := none }
    let s := s.sendTokens p .e (streamOpenTokens dev n window false rel job xs.length base)
    some (s.modPort p fun k => { k with txStreams := k.txStreams ++ [t] })

/-- The PROTECTED tag of sector `i` of an endpoint (R377). -/
def State.protAt (s : State) (e : Endpoint) (i : Nat) : Bool :=
  match e with
  | .store c a => bit (s.readSector .store (storeAddr c (a + 32 * i) / 32)).1.tag 6
  | .va part a => (s.readVa none part (a + 32 * i) 1).1.any fun x => bit x.tag 6

/-- A sector of a stream with its tag byte. -/
def streamSector (x : List Byte × Bool) (prot : Bool) : BitVec 256 × Byte := (BitVec.ofNat 256 (fromLe x.1), tagByte x.2 prot)

/-! ### Acceptance (R363, R364, R406, R532, R655) -/

/-- A descriptor refused for a page (R364): no byte moves, the record, the end of the task. -/
def State.refuseDesc (s : State) (cl q : Nat) (d : Desc) (cause va side : Nat) : State :=
  let s := s.raise
    { unit := clusterRef s.device cl, cls := 0x07, job := d.jobNumber, epoch := d.epoch, part := partOf d.job,
      layer := BitVec.ofNat 16 d.layer, operator := BitVec.ofNat 16 d.operator,
      syndrome := engineRef (clusterRef s.device cl) 2 (q * 2 ^ 40) + cause * 2 ^ 64 + side * 2 ^ 68, address := va }
  s.stopJob d.job { status := Status.translationFault, unit := clusterRef s.device cl } []

/-- Whether a leaf is a page of HBM or Deck. -/
def Leaf.isLocal (l : Leaf) : Bool := decide (l.kind < 2)

/-- Whether a leaf is a host page. -/
def Leaf.isHost (l : Leaf) : Bool := l.kind = 2

/-- PATHS of writes to pages: device memory, host memory, and another device's memory over the fabric (R467, R482). -/
def pathsOf (ls : List Leaf) : Nat :=
  (if ls.any Leaf.isLocal then 2 else 0) + (if ls.any Leaf.isHost then 1 else 0) +
    if ls.any fun l => !l.isLocal && !l.isHost then 16 else 0

/-- EPOCH and PROV as the engine fills them at acceptance (R362): the job's step, and that what it moves is provisional, as every value
of a step that has not committed is (R530). -/
def acceptWords (ws : List Word64) (b : Job) : List Word64 :=
  let w4 := setBf (ws.getD 4 0) 31 0 b.epoch.toNat
  listSet (listSet ws 4 w4) 5 (setBf (ws.getD 5 0) 1 1 (b2n (decide (b.nextCommit.toNat ≤ b.epoch.toNat))))

/-- POISON as the engine fills it once the sectors have moved (R362). -/
def movedWords (ws : List Word64) (xs : Sectors) : List Word64 := listSet ws 5 (setBf (ws.getD 5 0) 0 0 (b2n (xs.any (·.2))))

/-- The EGRESS region in which a virtual address of a partition lies, with the offset in it. -/
def State.egressOf (s : State) (part va : Nat) : Option (Nat × Nat) :=
  (s.regions.findSome? fun x => match x.2 with
    | none => none
    | some r =>
      let base := bf r.w0 51 16 * 65536
      if bit r.w0 63 && bit r.w0 62 && bf r.w0 59 56 = part && decide (base ≤ va) && decide (va < base + bf r.w1 39 20 * 65536)
      then some (x.1, va - base) else none)

/-- DMA_ACCEPT: the first descriptor of a queue that its engine has not accepted is translated and accepted or
refused. A destination in host memory is held until the epoch commits, its token posted at once under Elastic
release. None is accepted in a slip of its job (R72), or with the clusters' clocks stopped (R447). -/
def execDmaAccept (cl q i : Nat) (s : State) : Host.Outcome State Fault Refusal :=
  if 48 ≤ cl ∨ 4 ≤ q then .refused .noSuchUnit
  else
    let ds := NMap.get (s.cluster cl).dma q []
    match ds[i]? with
    | none => .next s
    | some d =>
      if s.clocksStopped || d.accepted || s.slipped d.job || (ds.take i).any fun x => !x.accepted then .next s
      else match s.job d.job with
      | none => .next s
      | some b =>
        let src := s.descSrc cl d
        let dst := s.descDst cl d
        if !(s.endServed cl src d.length && s.endServed cl dst (s.destLength src dst d.length)) then .next s
        else match s.endLeaves cl src d.length false with
        | .error e => .next (s.refuseDesc cl q d e.1.cause e.2 0)
        | .ok ls =>
          match s.endLeaves cl dst (s.destLength src dst d.length) true with
          | .error e => .next (s.refuseDesc cl q d e.1.cause e.2 1)
          | .ok ld =>
            match s.rev2Refusal (ls ++ ld) with
            | some va => .next ((s.used 1).refuseDesc cl q d (s.freeOf [1, 2, 3, 4] 0) va 0)
            | none =>
              let held := ld.any Leaf.isHost
              let s := if held then s
                else (src.stores ++ dst.stores).foldl (fun s c => s.modCore c fun k => { k with bulk := k.bulk + 1 }) s
              let order := s.fresh
              let s := ((s.used 1).keepLeaves (.dma cl) (ls ++ ld)).setDesc cl q d.id fun x =>
                some { x with accepted := true, order := order, due := b.now + d.wcet, held := held, tokenPosted := held && !d.fixed,
                              leaves := ls ++ ld, words := acceptWords x.words b }
              if !held then .next s
              else
                let d' : Desc := { d with accepted := true, order := order, due := b.now + d.wcet, held := held, leaves := ls ++ ld,
                                          words := acceptWords d.words b }
                let s := s.hold d.job (.hostCopy cl d' (s.egressOf (partOf d.job) d.dst))
                .next (if d.fixed then s else s.descToken cl d)

/-! ### Transfer -/

/-- The window of another device in which a destination lies. -/
def State.remoteDst (s : State) (e : Endpoint) : Option (Nat × Nat × Nat) :=
  match e with
  | .store _ _ => none
  | .va part a => match s.leafAt part a with
    | none => none
    | some l => match l.target a with
      | .remote d w o => some (d, w, o)
      | _ => none

/-- The step of a descriptor made suspect when a sector that it writes is poisoned (R527, R528). -/
def State.suspectData (s : State) (d : Desc) (xs : Sectors) : State :=
  if xs.any (·.2) then s.suspect d.job d.epoch d.core 0x02 else s

/-- The Ethernet send that a descriptor's write into an EGRESS region causes, held until its epoch commits (R501,
R532). -/
def State.holdSend (s : State) (d : Desc) (xs : Sectors) : State :=
  if d.dstCs then s
  else match s.egressOf (partOf d.job) d.dst with
  | none => s
  | some (n, off) => s.hold d.job (.ethSend d.epoch n off (xs.flatMap (·.1)) d.order)

/-- Paths of a descriptor's destination. -/
def State.descPaths (s : State) (d : Desc) : Nat :=
  if d.dstCs then 0
  else match (s.under d.leaves).translate (partOf d.job) d.dst d.length true with
  | .ok ls => pathsOf ls
  | .error _ => 0

/-- A descriptor's data delivered at a local destination, under the translation of its acceptance (R370). -/
def State.deliverDesc (s : State) (cl : Nat) (d : Desc) (xs : Sectors) : State :=
  let t := (s.under d.leaves).putTo (some cl) (s.descDst cl d) (s.descSrc cl d) xs
  let t : State := { t with leaves := s.leaves }
  ((t.markPath d.job (s.descPaths d)).suspectData d xs).holdSend d xs

/-- A transfer's DMA trace record (R591). -/
def State.traceDma (s : State) (cl : Nat) (d : Desc) : State :=
  s.trace { part := partOf d.job, unit := clusterRef s.device cl, type := 0x07, cls := 0, op := d.operator, layer := d.layer,
            job := d.jobNumber.toNat, epoch := d.epoch.toNat, payload := d.length * 2 ^ 32 + b2n d.fixed }

/-- DMA_COMPLETE (R81, R82, R228, R398): an accepted descriptor's transfer finishes. Under Elastic release its data
is delivered and its token posted; under Fixed release the data is kept for the WCET tick. An elastic transfer to
another device is read and leaves as a stream, and finishes when its last sector has left (`State.streamSent`); a scheduled one
leaves in the frames that the slot tables name. -/
def execDmaComplete (cl q i : Nat) (remote : List Byte) (poisoned : Bool) (s : State) : Host.Outcome State Fault Refusal :=
  if 48 ≤ cl ∨ 4 ≤ q then .refused .noSuchUnit
  else match (NMap.get (s.cluster cl).dma q [])[i]? with
  | none => .next s
  | some d =>
    if s.clocksStopped || !d.accepted || d.held || d.moved || d.stream.isSome then .next s
    else
      let src := s.descSrc cl d
      let dst := s.descDst cl d
      let finish (s : State) : State := (s.descToken cl d).finishDesc cl q d.id
      let count (s : State) : State := (src.stores ++ dst.stores).foldl (fun s c => s.event c 0x0C (d.length / 32)) (s.traceDma cl d)
      let (xs, t) := (s.under d.leaves).takeFrom (some cl) src dst d.length remote poisoned
      let t := { t with leaves := s.leaves }
      match (s.under d.leaves).remoteDst dst with
      | some (dev, w, o) =>
        if d.elastic then
          match t.openStream dev w o d.fixed d.jobNumber d.epoch (BitVec.ofNat 16 d.layer) (BitVec.ofNat 16 d.operator) true
              (some (partOf d.job)) (xs.zipIdx.map fun x => streamSector x.1 (s.protAt src x.2)) with
          | none => .next s
          | some u =>
            let u := ((((count u).markPath d.job 16).suspectData d xs).holdSend d xs)
            .next (u.setDesc cl q d.id fun x => some { x with stream := some s.freeStream, words := movedWords x.words xs })
        else
          let u := ((((count t).markPath d.job 16).suspectData d xs).holdSend d xs)
          .next (if d.fixed then u.setDesc cl q d.id fun x => some { x with moved := true, words := movedWords x.words xs } else finish u)
      | none =>
        let t := count t
        if d.fixed && decide ((match s.job d.job with | some b => b.now | none => 0) < d.due) then
          .next (t.setDesc cl q d.id fun x =>
            some { x with moved := true, words := movedWords x.words xs, data := xs.map fun y => (BitVec.ofNat 256 (fromLe y.1), y.2) })
        else .next (finish (t.deliverDesc cl d xs))

/-- A descriptor's elastic stream has left its port whole (R228): its token posts under Elastic release, at its WCET tick under Fixed. -/
def State.streamSent (s : State) (n : Nat) : State :=
  match s.clusters.findSome? fun x => x.2.dma.findSome? fun y => (y.2.find? fun d => d.stream = some n).map fun d => (x.1, y.1, d) with
  | none => s
  | some (cl, q, d) =>
    if d.fixed then s.setDesc cl q d.id fun x => some { x with moved := true, stream := none }
    else (s.descToken cl d).finishDesc cl q d.id

/-- Sectors of an own stream that have not left poisoned (R84). -/
def State.poisonStream (s : State) (n : Nat) : State :=
  let spoil (t : TxStream) : TxStream :=
    if t.src = some s.device && t.stream = n then { t with sectors := t.sectors.map fun x => (x.1, x.2.1, x.2.2 ||| 0x80) } else t
  s.mapPorts fun _ k => { k with txStreams := k.txStreams.map spoil }

/-- A source that a scheduled transfer has not sent by its WCET tick: what the slot tables take from it in the rest of the step leaves
poisoned (R84). -/
def State.noteLate (s : State) (cl : Nat) (d : Desc) : State :=
  let (c, a) : Option Nat × Nat := match s.descSrc cl d with
    | .store c off => (some c, off)
    | .va _ a => (none, a)
  s.modJob d.job fun b => { b with lateSrc := b.lateSrc.filter (fun x => x.1 = b.epoch) ++ [(d.epoch, c, a, d.length)] }

/-- The data kept for the WCET tick. -/
def Desc.kept (d : Desc) : Sectors := d.data.map fun y => (leBytes 32 y.1.toNat, y.2)

/-- The WCET tick of a descriptor (R81, R83, R84, R655): under Fixed release what was moved is handed over; a held
one posts its token; one that has not finished is delivered poisoned, with its record. -/
def State.descDue (s : State) (cl q : Nat) (d : Desc) : State :=
  let finish (s : State) : State := (s.descToken cl d).finishDesc cl q d.id
  if d.held then
    if d.tokenPosted then s
    else (s.setDesc cl q d.id fun x => some { x with tokenPosted := true }).descToken cl d
  else if d.moved then finish (if d.data.isEmpty then s else s.deliverDesc cl d d.kept)
  else
    let s := s.wcetMiss { unit := clusterRef s.device cl, job := some d.job, epoch := d.epoch, kind := 4, queue := q, due := d.due,
                          base := s.missBase d.job, core := some d.core, layer := BitVec.ofNat 16 d.layer,
                          operator := BitVec.ofNat 16 d.operator, part := partOf d.job }
    let n := ((s.under d.leaves).destLength (s.descSrc cl d) (s.descDst cl d) d.length) / 32
    let bad : Sectors := (List.range n).map fun k => (leBytes 32 (s.freeAt 256 k).toNat, true)
    let s := s.used n
    match (s.under d.leaves).remoteDst (s.descDst cl d) with
    | none => finish { (s.under d.leaves).writeEnd (some cl) (s.descDst cl d) bad with leaves := s.leaves }
    | some (dev, w, o) =>
      if !d.elastic then finish (s.noteLate cl d)
      else match d.stream with
      | some n => finish (s.poisonStream n)
      | none => finish ((s.openStream dev w o d.fixed d.jobNumber d.epoch (BitVec.ofNat 16 d.layer) (BitVec.ofNat 16 d.operator) true
        (some (partOf d.job)) (bad.map fun x => streamSector x false)).getD s)

/-- A held copy performed at the commit of its epoch (R532): its engine reads the source now, in the core that runs the stream (R539),
and writes the host page, under the translation of its acceptance (R370). From a core store it is a bulk stream, which BULK_STREAM_END
ends (R147, R582). -/
def State.performCopy (s : State) (cl : Nat) (d : Desc) : Sectors × State :=
  let src := s.descSrc cl d
  let dst := s.descDst cl d
  let (xs, t) := (s.under d.leaves).takeFrom (some cl) src dst d.length [] false
  let t : State := { t.putTo (some cl) dst src xs with leaves := s.leaves }
  (xs, src.stores.foldl (fun (s : State) c => (s.event c 0x0C (d.length / 32)).modCore c fun k => { k with bulk := k.bulk + 1 }) (t.traceDma cl d))

end Sys2Proof.Machine
end

