-- ==== Sys2Proof/Machine/TableOps.lean ====
section
/-!
DEFINITION. Tables as the engines read them: rows, strides, shards, versions, patches, the row of a pin, and
the decoding of stored rows (R237 to R241, R255, R267, R283, R660).
-/

namespace Sys2Proof.Machine

open Sys2Proof

/-! ### Descriptors and layout -/

/-- Fields of a descriptor's word W0 (R237). -/
def w0Format (w : Word64) : Nat := bf w 62 60
def w0Sub (w : Word64) : Nat := 4 * 2 ^ bf w 59 58
def w0Dim (w : Word64) : Nat := bf w 57 47 + 1
def w0Rows (w : Word64) : Nat := bf w 39 0

/-- Bytes of a stored row (R239). -/
def rowBytesOf (w : Word64) : Nat :=
  let d := w0Dim w
  match w0Format w with
  | 0 => 4 * d
  | 1 => 2 * d
  | 2 => d
  | 3 => d
  | 4 => d + 4
  | 5 => 17 * d / 32
  | _ => d / w0Sub w

/-- Stride of rows of `n` bytes (R240). -/
def strideOf (n : Nat) : Nat :=
  if n < 32 then firstOr 32 (fun k => decide (n ≤ k)) [1, 2, 4, 8, 16, 32] else (n + 31) / 32 * 32

def Table.dim (t : Table) : Nat := w0Dim t.w0
def Table.rows (t : Table) : Nat := w0Rows t.w0
def Table.rowBytes (t : Table) : Nat := rowBytesOf t.w0
def Table.stride (t : Table) : Nat := strideOf t.rowBytes
def Table.sharded (t : Table) : Bool := bit t.w1 63
/-- Rows per shard. -/
def Table.shardRows (t : Table) : Nat := 2 ^ bf t.w1 62 57
def Table.shardCount (t : Table) : Nat := bf t.w1 56 47 + 1
def Table.defaultOff (t : Table) : Nat := bf t.w2 56 32
def Table.codebookOff (t : Table) : Nat := bf t.w2 24 0

/-- Shard of a row (R255). -/
def Table.shardOf (t : Table) (i : Nat) : Nat := i / t.shardRows % t.shardCount
/-- Whether device `d` owns row `i` (R255). -/
def Table.owns (t : Table) (d i : Nat) : Bool := !t.sharded || t.shards.getD (t.shardOf i) 1024 = d
/-- Shard-map entries that name device `d`. -/
def Table.shares (t : Table) (d : Nat) : Nat := (t.shards.filter (· = d)).length
/-- Local index of row `i` on device `d` (R660). -/
def Table.localIndex (t : Table) (d i : Nat) : Nat :=
  if !t.sharded then i
  else
    let sh := t.shardOf i
    (i / (t.shardRows * t.shardCount) * t.shares d + ((t.shards.take sh).filter (· = d)).length) * t.shardRows + i % t.shardRows

/-- LOCAL_ROWS of device `d` (R660): one more than the greatest local index of a row that it owns. -/
def Table.localRows (t : Table) (d : Nat) : Nat :=
  if !t.sharded then t.rows
  else
    let lap := t.shardRows * t.shardCount
    let full := t.rows / lap
    let rest := t.rows % lap
    let m := t.shares d
    let ends := ((List.range t.shardCount).filter fun sh => t.shards.getD sh 1024 = d && decide (sh * t.shardRows < rest)).map
      fun sh => (full * m + ((t.shards.take sh).filter (· = d)).length) * t.shardRows + min t.shardRows (rest - sh * t.shardRows)
    ends.foldl max (full * m * t.shardRows)

/-! ### Versions, pins, patches -/

/-- The slot whose state is active. -/
def Table.activeSlot (t : Table) : Option Nat := (List.range 4).find? fun i => (t.slot i).st = .active
/-- The slot with a version number that is not free; of two with one number, the one to which a JOB_REMAP gave it (R283). -/
def Table.slotOf (t : Table) (v : Nat) : Option Nat :=
  (List.range 4).find? fun i => (t.slot i).st ≠ .free && (t.slot i).version.toNat = v && !(t.slot i).dead

/-- The pin that a job or lookup takes in this tick: the active version and CE of every table (R249, R274). -/
def State.takePins (s : State) : List Pin :=
  s.tables.filterMap fun x => match x.2 with
    | none => none
    | some t => t.activeSlot.map fun i => { table := x.1, version := t.active, ce := t.ce, slot := i }

/-- The slot of a version still there to serve a request with its pin. -/
def Table.pinSlot (t : Table) (v : Byte) : Nat := (t.slotOf v.toNat).getD 0

/-- Whether epoch `a` stands below epoch `b` (R80). -/
def epochLt (a b : Word32) : Bool := decide (0 < (b - a).toInt)

/-- The patch that a pin selects for a row (R283): the greatest tag above the version's FOLD_EPOCH and not above
the pin's epoch. -/
def State.patchOf (s : State) (table index : Nat) (fold e : Word32) : Option Overlay :=
  (s.overlay.filter fun o => o.table = table && o.index = index && (match o.tag with
    | some t => epochLt fold t && !epochLt e t
    | none => false)).foldl (fun m o => match m with
    | none => some o
    | some p => if epochLt (p.tag.getD 0) (o.tag.getD 0) then some o else some p) none

/-- Device-physical address of a row under a pin, and whether a patch gives it. -/
def State.rowPlace (s : State) (tn : Nat) (t : Table) (v : Byte) (ce : Word32) (index : Nat) : Nat × Bool :=
  let sl := t.slot (t.pinSlot v)
  match s.patchOf tn index sl.foldEpoch ce with
  | some o => (t.patchBase + o.place * t.stride, true)
  | none => (sl.base + t.localIndex s.device index * t.stride, false)

/-! ### Reading rows -/

/-- Sectors of a line of HBM that a cluster reads for a table row, `ks` of its four, and whether the cache held it
(R290, R292). -/
def State.rowLine (s : State) (cl : Nat) (tag : Nat × Byte) (la : Nat) (ks : List Nat) : List Sector × Bool × State :=
  match s.regionAt cl (128 * la) with
  | none =>
    let (m, s) := s.readEach .hbm (ks.map fun k => 4 * la + k)
    (m.map (·.2), false, s)
  | some r =>
    let hit := ((s.cluster cl).findLine r la (some tag)).isSome
    let (l, s) := s.demandLine cl r la (some tag)
    let (xs, s) := ks.foldl (fun (acc : List Sector × State) k =>
      let (x, s) := acc.2.lineSector cl l k
      (acc.1 ++ [x], s)) ([], s)
    (xs, hit, s)

/-- Sectors from sector `i` to `last`, line by line from line `la`, `n` lines. -/
def State.rowLines (s : State) (cl : Nat) (tag : Nat × Byte) (i last : Nat) : Nat → Nat → List Sector × Bool × State
  | _, 0 => ([], true, s)
  | la, n + 1 =>
    let ks := (List.range 4).filter fun k => decide (i ≤ 4 * la + k) && decide (4 * la + k ≤ last)
    let (x, h, s) := s.rowLine cl tag la ks
    let (y, h', s) := State.rowLines s cl tag i last (la + 1) n
    (x ++ y, h && h', s)

/-- A row under a pin as a cluster's engine fetches it (R248, R283): its bytes, whether it is poisoned, and
whether the Deck cache served it. -/
def State.readRow (s : State) (cl tn : Nat) (t : Table) (v : Byte) (ce : Word32) (index : Nat) :
    List Byte × Bool × Bool × State :=
  let (a, patch) := s.rowPlace tn t v ce index
  if patch then
    let (b, p, s) := s.readBytes .hbm a t.rowBytes
    (b, p, false, s)
  else
    let last := (a + t.rowBytes - 1) / 32
    let (xs, hit, s) := s.rowLines cl (tn, v) (a / 32) last (a / 128) (last / 4 + 1 - a / 128)
    (((sectorBytes xs).drop (a % 32)).take t.rowBytes, xs.any (·.poison), hit, s)

/-! ### Decoding rows (R241) -/

/-- An FP32 value of a value. -/
def toFp32 (v : FVal) : Word32 := BitVec.ofNat 32 (fp32.result v false).code

/-- An element of format `f` decoded to FP32. -/
def widen (f : FFmt) (code : Nat) : Word32 := BitVec.ofNat 32 (convertLane (.flt f) (.flt fp32) false false code).code

/-- `n` bytes of a row from offset `o` as a number. -/
def rowNat (b : List Byte) (o n : Nat) : Nat := fromLe ((b.drop o).take n)

/-- Element `e` of a row that is not CQ8: its value, and whether its block is invalid (R104). -/
def rowElem (w : Word64) (b : List Byte) (e : Nat) : Word32 × Bool :=
  let d := w0Dim w
  match w0Format w with
  | 0 => (BitVec.ofNat 32 (rowNat b (4 * e) 4), false)
  | 1 => (BitVec.ofNat 32 (rowNat b (2 * e) 2 * 2 ^ 16), false)
  | 2 => (widen e4m3 (rowNat b e 1), false)
  | 3 => (widen e5m2 (rowNat b e 1), false)
  | 4 => (toFp32 ((intVal (Machine.signed 8 (rowNat b e 1))).mul (fp32.decode (rowNat b d 4))), false)
  | _ =>
    match decodeElem 10 (rowNat b (d / 2 + e / 32) 1) (rowNat b (16 * (e / 32)) 16) (e % 32) with
    | some v => (toFp32 v, false)
    | none => (0, true)

/-- The values of a CQ8 row's codes from a cluster's codebooks, sub-vector by sub-vector (R112, R113). DESIGN CHOICE (log entry
103): no check refuses codebooks that run past the slice, so such a lookup reads on at the Deck addresses that follow. -/
def State.cq8Row (s : State) (cl off g : Nat) : Nat → List Byte → List (Word32 × Bool) × State
  | _, [] => ([], s)
  | j, c :: t =>
    let (b, p, s) := s.readBytes .deck (deckAddr cl (off + j * 512 * g + c.toNat * 2 * g)) (2 * g)
    let (r, s) := State.cq8Row s cl off g (j + 1) t
    (((List.range g).map fun k => (BitVec.ofNat 32 (rowNat b (2 * k) 2 * 2 ^ 16), p)) ++ r, s)

/-- A stored row decoded to FP32, each element with its poison (R241). Elements of an invalid P4-32 block are
poisoned and their values free. -/
def State.decodeRow (s : State) (cl : Nat) (t : Table) (b : List Byte) : List (Word32 × Bool) × State :=
  if w0Format t.w0 = 6 then s.cq8Row cl t.codebookOff (w0Sub t.w0) 0 b
  else
    ((List.range t.dim).map fun e =>
      let (v, p) := rowElem t.w0 b e
      (if p then s.freeAt 32 e else v, p), s.used t.dim)

/-- A table's default row in a cluster's scratch (R238). -/
def State.defaultRow (s : State) (cl : Nat) (t : Table) : List (Word32 × Bool) × State :=
  let (xs, s) := s.readSectors .deck (deckAddr cl t.defaultOff / 32) (t.dim / 8)
  (xs.flatMap fun x => (List.range 8).map fun k => (BitVec.ofNat 32 (rowNat x.data (4 * k) 4), x.poison), s)

end Sys2Proof.Machine
end

