-- ==== Sys2Proof/Machine/Lookups.lean ====
section
/-!
DEFINITION. The embedding engines (chapter 07): acceptance, sort and checks, rows, pooling, hand-over, prefetch,
and the rows that other devices ask for.
-/

namespace Sys2Proof.Machine

open Sys2Proof

/-! ### The parameter block (R234) -/

def Lookup.word (l : Lookup) (i : Nat) : Word64 := l.words.getD i 0
def Lookup.listVa (l : Lookup) : Nat := bf (l.word 0) 51 0
def Lookup.bags (l : Lookup) : Nat := bf (l.word 1) 56 32
def Lookup.count (l : Lookup) : Nat := bf (l.word 1) 24 0
def Lookup.wcet (l : Lookup) : Nat := bf (l.word 2) 63 40
def Lookup.sem (l : Lookup) : Nat := bf (l.word 2) 39 32
def Lookup.dim (l : Lookup) : Nat := bf (l.word 2) 20 10 + 1
def Lookup.dest (l : Lookup) : Nat := bf (l.word 2) 9 8
def Lookup.outCore (l : Lookup) : Nat := bf (l.word 2) 7 5
def Lookup.hasNext (l : Lookup) : Bool := bit (l.word 2) 4
def Lookup.fixed (l : Lookup) : Bool := bit (l.word 2) 3
def Lookup.half (l : Lookup) : Bool := bit (l.word 2) 2
def Lookup.pool (l : Lookup) : Nat := bf (l.word 2) 1 0
def Lookup.outAddr (l : Lookup) : Nat := bf (l.word 3) 51 0
def Lookup.outStride (l : Lookup) : Nat := bf (l.word 4) 63 32
def Lookup.accOff (l : Lookup) : Nat := bf (l.word 4) 24 0
def Lookup.workVa (l : Lookup) : Nat := bf (l.word 5) 51 0
def Lookup.nextVa (l : Lookup) : Nat := bf (l.word 6) 51 0
def Lookup.nextCount (l : Lookup) : Nat := bf (l.word 7) 56 32
def Lookup.statusOff (l : Lookup) : Nat := bf (l.word 7) 18 0
/-- Bytes of an output element. -/
def Lookup.elemBytes (l : Lookup) : Nat := if l.half then 2 else 4
/-- Bytes of the output from its base (R235). -/
def Lookup.outLength (l : Lookup) : Nat := l.outStride * (l.bags - 1) + l.dim * l.elemBytes

/-- Whether a count lies from 1 to 2^24. -/
def countOk (n : Nat) : Bool := decide (1 ≤ n) && decide (n ≤ 2 ^ 24)

/-- The first case of R244, and R235 but for overlaps. DESIGN CHOICE (log entry 127): a set bit of a field marked "reserved: write 0,
read 0" is such a case (R15 has a module ignore the bit of a register). -/
def State.blockOk (s : State) (cl : Nat) (l : Lookup) : Bool :=
  bf (l.word 0) 63 52 = 0 && bf (l.word 1) 63 57 = 0 && bf (l.word 1) 31 25 = 0 && bf (l.word 2) 31 21 = 0 &&
    bf (l.word 3) 63 52 = 0 && bf (l.word 4) 31 25 = 0 && bf (l.word 5) 63 52 = 0 && bf (l.word 6) 63 52 = 0 &&
    bf (l.word 7) 63 57 = 0 && bf (l.word 7) 31 19 = 0 && countOk l.bags && countOk l.count && decide (1 ≤ l.wcet) &&
    l.dim % 16 = 0 && decide (l.dest ≤ 1) && l.listVa % 32 = 0 && l.outAddr % 32 = 0 && l.workVa % 32 = 0 &&
    l.accOff % 32 = 0 && l.statusOff % 32 = 0 && l.outStride % 32 = 0 && decide (l.dim * l.elemBytes ≤ l.outStride) &&
    (!l.hasNext || countOk l.nextCount) && decide (l.accOff + l.bags * l.dim * 4 ≤ s.scratchEnd cl) &&
    (if l.dest = 0 then bf (l.word 3) 51 19 = 0 && decide (l.outAddr + l.outLength ≤ 2 ^ 19) else decide (l.outAddr + l.outLength ≤ 2 ^ 52))

/-- Translation for an engine that reaches no bounce page (R245, R573). -/
def State.translateEngine (s : State) (part va len : Nat) (write : Bool) : Except (Refuse × Nat) (List Leaf) :=
  match s.translate part va len write with
  | .error e => .error e
  | .ok ls => match ls.find? fun l => l.isHost && l.prot with
    | some l => .error (.unmapped, max (pageOf va) l.va)
    | none => .ok ls

/-- The ranges of a lookup with whether the engine writes them (R245). -/
def Lookup.ranges (l : Lookup) : List (Nat × Nat × Bool) :=
  [(l.listVa, 16 * l.count, false), (l.workVa, 16 * l.count, true)] ++
    (if l.dest = 1 then [(l.outAddr, l.outLength, true)] else [])

/-- The leaves of a lookup's ranges as its engine translates them, with the first refused page, if any (R245, R359, R406). -/
def State.lookupLeaves (s : State) (cl : Nat) (l : Lookup) : List Leaf × Option Nat :=
  let rs := l.ranges.map fun r => (s.under (s.cached (.emb cl))).translateEngine l.part r.1 r.2.1 r.2.2
  let ls := rs.flatMap fun r => match r with
    | .ok ls => ls
    | .error _ => []
  match rs.filterMap (fun r => match r with
    | .error e => some e.2
    | .ok _ => none) with
  | p :: _ => (ls, some p)
  | [] => (ls, s.rev2Refusal ls)

/-- Target of a virtual address as one number, the spaces apart. -/
def State.flatTarget (s : State) (part va : Nat) : Nat :=
  match s.leafAt part va with
  | none => 2 ^ 70 + va
  | some l => match l.target va with
    | .hbm a => a
    | .deck a => 2 ^ 60 + a
    | .host a => 2 ^ 61 + a
    | .remote d w o => 2 ^ 62 + d * 2 ^ 42 + w * 2 ^ 34 + o

/-- The pieces, within 64 KiB pages, of a virtual range as flat target ranges; `n` bounds the pages. -/
def State.flatRange (s : State) (part : Nat) : Nat → Nat → Nat → List (Nat × Nat)
  | 0, _, _ => []
  | n + 1, va, len =>
    if len = 0 then []
    else
      let k := min len (65536 - va % 65536)
      (s.flatTarget part va, k) :: State.flatRange s part n (va + k) (len - k)

/-- A range's targets. -/
def State.flatAll (s : State) (part va len : Nat) : List (Nat × Nat) := s.flatRange part (len / 65536 + 2) va len

/-- Whether the list or the work area overlaps the accumulator area or a virtual output (R235, R244). -/
def State.lookupOverlap (s : State) (cl : Nat) (l : Lookup) : Bool :=
  let a := s.flatAll l.part l.listVa (16 * l.count) ++ s.flatAll l.part l.workVa (16 * l.count)
  let b := (2 ^ 60 + deckAddr cl l.accOff, l.bags * l.dim * 4) ::
    (if l.dest = 1 then s.flatAll l.part l.outAddr l.outLength else [])
  rangesMeet a b

/-- A cluster's dirty lines of a virtual range written back: a completion waits for them (R480). -/
def State.cleanRange (s : State) (cl part va len : Nat) : State :=
  let ts := s.flatAll part va len
  s.cleanLines cl fun l => rangesMeet [(128 * l.addr, 128)] ts

/-- The virtual ranges that a lookup writes. -/
def Lookup.written (l : Lookup) : List (Nat × Nat) := (l.ranges.filter fun r => r.2.2).map fun r => (r.1, r.2.1)

/-- The paths that a lookup writes (R482): its accumulator area in Deck, and the pages of its work area and output. -/
def Lookup.paths (l : Lookup) : Nat := 2 ||| pathsOf (l.leaves.filter fun f => l.written.any fun r => f.meets r.1 r.2)

/-! ### Acceptance (R231, R245, R247, R249, R665) -/

/-- Service-clock cycles of a sort of `n` entries (R247). -/
def sortCycles (n : Nat) : Nat := (n + 47) / 48 + 2048

/-- Counter numbers of an embedding engine. -/
def ecLookups : Nat := 0
def ecKeys : Nat := 1
def ecDistinct : Nat := 2
def ecHits : Nat := 3
def ecRemote : Nat := 4
def ecOverflow : Nat := 5
def ecDefaulted : Nat := 6
def ecBusy : Nat := 7

/-- An engine counter raised. -/
def State.engCount (s : State) (cl i n : Nat) : State := s.modCluster cl fun k => { k with engCnt := k.engCnt.add i n }

/-- SHARED of a counter set (R589). -/
def CntSet.shared (c : CntSet) : Bool := decide (2 ≤ c.jobs.length)

/-- Jobs that count in a set from now on. -/
def CntSet.joined (c : CntSet) (present : List (Nat × Word32)) : CntSet := { c with jobs := (c.jobs ++ present).eraseDups }

/-- A job as SHARED tells it from another: partition and number. -/
def State.ident (s : State) (j : Nat) : Nat × Word32 := (partOf j, match s.job j with
  | some b => b.number
  | none => 0)

/-- The jobs that count on a core, on the slice of a cluster, in a cluster's engine. -/
def State.coreJobs (s : State) (c : Nat) : List (Nat × Word32) :=
  (((s.core c).groups.filterMap fun x => x.2.job).eraseDups).map s.ident
def State.sliceJobs (s : State) (cl : Nat) : List (Nat × Word32) := ((upFrom (8 * cl) 8).flatMap s.coreJobs).eraseDups
def State.engineJobs (s : State) (cl : Nat) : List (Nat × Word32) :=
  ((s.cluster cl).lookups.filterMap fun l => match l.source with
    | .prog j _ _ _ => some (s.ident j)
    | .host _ => none).eraseDups

/-- A counter set's interval closed by a command's start (R585, R587): under SCOPE 0b01 its values and tags become
the closing snapshot and it counts from 0; its tags are the command's in either scope. `present` are the jobs that count on. -/
def CntSet.begin_ (c : CntSet) (stamp : Word64) (t : CntTags) (present : List (Nat × Word32)) : CntSet :=
  if c.scope then { c with vals := [], tags := t, jobs := present, closing := some (c.vals, c.tags, c.shared, stamp) }
  else { c with tags := t, jobs := (c.jobs ++ present).eraseDups }

/-- Tags of a command that starts work. -/
def Cmd.tags (k : Cmd) (job : Word32) : CntTags :=
  { opcode := k.opcode, seq := k.seq, job := job, layer := k.layer, operator := k.operator }

/-- STICK of a lookup's job, or 0. -/
def State.lookupNow (s : State) (l : Lookup) : Nat :=
  match l.source with
  | .prog j _ _ _ => (match s.job j with
    | some b => b.now
    | none => 0)
  | .host _ => l.time

/-- The pins under which a lookup reads (R249). -/
def State.lookupPins (s : State) (l : Lookup) : List Pin :=
  match l.source with
  | .prog j _ _ _ => (match s.job j with
    | some b => b.pins
    | none => [])
  | .host _ => l.pins

/-- A lookup of a request as the engine accepts it. -/
def State.newLookup (s : State) (cl id : Nat) (r : LookReq) : Lookup :=
  let start := max (11 * s.tick) (s.cluster cl).sorterFree
  let pins := match r.source with
    | .host _ => s.takePins
    | .prog _ _ _ _ => []
  let l : Lookup :=
    { source := r.source, part := r.part, words := r.words, epoch := r.epoch, id := id, pins := pins, startTick := s.tick, due := 0,
      leaves := [], page := none, time := 0, sortEnd := 0, phase := .sorting, entries := [], todo := [], rows := [], acc := [], counts := [], poisoned := [],
      distinct := 0, defaulted := 0, outOfRange := 0, hits := 0, remote := 0, overflow := 0, code := 0, listPoisoned := false,
      tokenPosted := false, late := false }
  { l with due := s.lookupNow l + l.wcet, sortEnd := start + sortCycles l.count }

/-- Whether a request belongs to a job that slips: its lookup does not start (R72). -/
def State.reqSlips (s : State) (r : LookReq) : Bool := match r.source with
  | .prog j _ _ _ => s.slipped j
  | .host _ => false

/-- A lookup as the engine accepts it: its block checked, its ranges translated (R244, R245). -/
def State.checkLookup (s : State) (cl : Nat) (l : Lookup) : Lookup :=
  let (ls, page) := s.lookupLeaves cl l
  let code := if !s.blockOk cl l then 1 else if page.isSome then 2 else if (s.under ls).lookupOverlap cl l then 1 else 0
  { l with code := code, leaves := ls, page := page }

/-- LOOKUP_ACCEPT: the engine takes the first waiting lookup into its queue of 8, but for those of jobs that slip. A request of a
parked group waits for the group to issue again; one that needs a walk waits where the sequencer has stopped (R20). -/
def execLookupAccept (cl : Nat) (s : State) : Host.Outcome State Fault Refusal :=
  if 48 ≤ cl then .refused .noSuchUnit
  else
    let k := s.cluster cl
    match k.lookWait.find? fun r => !s.reqSlips r with
    | none => .next s
    | some r =>
      let l := s.checkLookup cl (s.newLookup cl s.fresh r)
      if s.clocksStopped || r.words = [] || decide (8 ≤ k.lookups.length) then .next s
      else if s.walkStopped (.emb cl) && !(l.ranges.all fun x => s.allCached (.emb cl) l.part x.1 x.2.1) then .next s
      else
        let s := ((s.used 1).pinSlots true l.pins).keepLeaves (.emb cl) l.leaves
        let s := s.setCluster cl { k with lookWait := k.lookWait.erase r, lookups := k.lookups ++ [l], sorterFree := l.sortEnd }
        let s := match r.source with
          | .host c => s.modCluster cl fun k =>
            { k with engCnt := k.engCnt.begin_ s.stamp (Cmd.tags c 0) (s.engineJobs cl),
                     deckCnt := k.deckCnt.begin_ s.stamp (Cmd.tags c 0) (s.sliceJobs cl) }
          | .prog _ _ _ _ => s.modCluster cl fun k => { k with engCnt := k.engCnt.joined (s.engineJobs cl) }
        .next (s.engCount cl ecLookups 1)

/-! ### Hand-over (R231, R250, R252 to R254, R262 to R264, R472) -/

/-- The status block (R262). -/
def Lookup.status (l : Lookup) (poisonedBags : Nat) : Nat :=
  l.code + satN 32 l.distinct * 2 ^ 32 + satN 32 l.defaulted * 2 ^ 64 + satN 32 l.outOfRange * 2 ^ 96 + satN 32 l.hits * 2 ^ 128 +
    satN 32 l.remote * 2 ^ 160 + satN 32 l.overflow * 2 ^ 192 + satN 32 poisonedBags * 2 ^ 224

/-- Key of element `e` of a bag. -/
def accKey (bag e : Nat) : Nat := 2048 * bag + e

/-- The pooled FP32 value of an element (R251, R252). -/
def Lookup.value (l : Lookup) (bag e : Nat) : Word32 :=
  let n := NMap.get l.counts bag 0
  let a := NMap.get l.acc (accKey bag e) 0
  if l.pool = 1 && decide (0 < n) then toFp32 ((fp32.decode a.toNat).div (.fin false n 0)) else a

/-- Output bytes of a bag (R253). -/
def Lookup.bagBytes (l : Lookup) (bag : Nat) : List Byte :=
  (List.range l.dim).flatMap fun e =>
    if l.half then leBytes 2 (convertLane (.flt fp32) (.flt bf16) true false (l.value bag e).toNat).code
    else leBytes 4 (l.value bag e).toNat

/-- Whether output sector `k` of a bag carries poison. -/
def Lookup.sectorPoison (l : Lookup) (bag k : Nat) : Bool :=
  (upFrom (k * (32 / l.elemBytes)) (32 / l.elemBytes)).any fun e => l.poisoned.contains (accKey bag e)

/-- Bags that carry poison. -/
def Lookup.poisonedBags (l : Lookup) : Nat := ((l.poisoned.map (· / 2048)).eraseDups).length

/-- Sectors of a bag's output. -/
def Lookup.bagSectors (l : Lookup) (bag : Nat) : Sectors :=
  (toSectors (l.dim * l.elemBytes / 32) (l.bagBytes bag)).zipIdx.map fun x => (x.1, l.sectorPoison bag x.2)

/-- The core of the cluster that a lookup's output and status go to. -/
def State.lookupCore (s : State) (cl : Nat) (l : Lookup) : Nat :=
  match l.source with
  | .prog j _ _ _ => s.storeCore j (8 * cl + l.outCore)
  | .host _ => 8 * cl + l.outCore

/-- One bag's sectors put at their place; host pages of a job's lookup are held until its epoch commits (R532). -/
def State.putBag (s : State) (cl : Nat) (l : Lookup) (bag : Nat) (xs : Sectors) : State :=
  let a := l.outAddr + bag * l.outStride
  if l.dest = 0 then s.writeEnd (some cl) (.store (s.lookupCore cl l) a) xs
  else match l.source with
  | .host _ => s.writeEnd (some cl) (.va l.part a) xs
  | .prog j _ _ _ => xs.zipIdx.foldl (fun (s : State) x =>
      match ((s.leafAt l.part (a + 32 * x.2)).map fun f => f.target (a + 32 * x.2) : Option Target) with
      | some (Target.host h) => s.hold j (.hostWrite l.epoch h x.1.1)
      | _ => (s.writeEnd (some cl) (.va l.part (a + 32 * x.2)) [x.1]).markPath j 2) s

/-- The accumulator area with the values of a bag's elements, `v` (R254). -/
def State.putAcc (s : State) (cl : Nat) (l : Lookup) (bag : Nat) (v : Nat → Word32) : State :=
  ((List.range (l.dim / 8)).foldl (fun s k =>
    s.putSector .deck (deckAddr cl (l.accOff + bag * l.dim * 4) / 32 + k)
      ((upFrom (8 * k) 8).flatMap fun e => leBytes 4 (v e).toNat)
      ((upFrom (8 * k) 8).any fun e => l.poisoned.contains (accKey bag e)) false) s).deckCount cl dcScratch (l.dim / 8)

/-- A poisoned bag, its bytes undefined. -/
def State.badBag (s : State) (l : Lookup) : Sectors :=
  (List.range (l.dim * l.elemBytes / 32)).map fun k => (leBytes 32 (s.freeAt 256 k).toNat, true)

/-- The output of a lookup written, bag by bag (R250, R252 to R254), under the translation of its acceptance (R370). Into a core store
it goes as a bulk stream, which BULK_STREAM_END ends (R147, R254). -/
def State.writeLookup (s : State) (cl : Nat) (l : Lookup) : State :=
  let t := (List.range l.bags).foldl (fun s b =>
    if l.code = 0 then (s.putAcc cl l b (l.value b)).putBag cl l b (l.bagSectors b)
    else (s.used (l.dim / 8)).putBag cl l b (s.badBag l)) (s.under l.leaves)
  let t := { t with leaves := s.leaves }
  if l.dest = 0 then t.modCore (t.lookupCore cl l) fun k => { k with bulk := k.bulk + 1 } else t

/-- The LOOKUP record of a refused lookup (R245, R263). DESIGN CHOICE (log entry 127): it carries the first refused page in ADDRESS. -/
def State.raiseLookup (s : State) (cl : Nat) (l : Lookup) : State :=
  let (num, op, layer, operator) : Word32 × BitVec 16 × BitVec 16 × BitVec 16 := match l.source with
    | .prog j _ _ _ => ((s.recJob j).1, 0xFFFF, 0xFFFF, 0xFFFF)
    | .host k => (0, k.opcode, k.layer, k.operator)
  let page := if l.code = 2 then l.page.getD 0 else 0
  s.raise { unit := clusterRef s.device cl, cls := 0x06, code := l.code, opcode := op, layer := layer, operator := operator, job := num, epoch := l.epoch, part := l.part,
            syndrome := l.status 0 % 2 ^ 128, address := page }

/-- A host lookup's share of its command: with the last one the command completes, naming the lowest cluster that failed (R57, R233,
R472). -/
def State.lookupAnswer (s : State) (cl : Nat) (k : Cmd) (l : Lookup) : State :=
  let code := l.code
  match s.lookCmds.find? fun x => x.cmd = k with
  | none => s
  | some x =>
    let low := if code = 0 then x.code else if x.code = 0 then code else min x.code code
    let rest := s.lookCmds.filter fun y => y.cmd ≠ k
    let u := clusterRef s.device cl
    let unit := if code = 0 then x.unit else if x.code = 0 then u else if u.toNat < x.unit.toNat then u else x.unit
    let paths := x.paths ||| (if decide (1 ≤ code) && decide (code ≤ 5) then 0 else l.paths)
    if x.left ≤ 1 then
      { s with lookCmds := rest }.complete k
        { status := if x.aborted then Status.mappingWithdrawn else if low = 0 then Status.success else Status.lookupFailed, result := low,
          count := satN 32 (x.distinct + l.distinct), unit := unit, paths := paths }
    else { s with lookCmds := rest ++ [{ x with left := x.left - 1, code := low, distinct := x.distinct + l.distinct, unit := unit, paths := paths }] }

/-- Lookup `id` replaced or removed in its engine's queue. -/
def State.setLookup (s : State) (cl id : Nat) (f : Lookup → Option Lookup) : State :=
  s.modCluster cl fun k => { k with lookups := k.lookups.filterMap fun l => if l.id = id then f l else some l }

/-! ### Sort and checks (R236, R242 to R246, R255 to R257) -/

/-- An entry of the list from its 16 bytes (R236). -/
def entryOf (b : List Byte) : Entry :=
  let lo := fromLe (b.take 8)
  let hi := fromLe (b.drop 8)
  { table := lo / 2 ^ 52 % 2 ^ 12, index := lo % 2 ^ 40, bag := hi % 2 ^ 24, weight := BitVec.ofNat 32 (hi / 2 ^ 32) }

/-- The entries of a list of sectors, with those of poisoned sectors left out. -/
def entriesOf (xs : List Sector) (n : Nat) : List Entry :=
  ((xs.flatMap fun x => [(x.data.take 16, x.poison), (x.data.drop 16, x.poison)]).take n).filterMap fun p =>
    if p.2 then none else some (entryOf p.1)

/-- Sort key (R242). -/
def Entry.key (weighted : Bool) (e : Entry) : Nat :=
  ((e.table * 2 ^ 40 + e.index) * 2 ^ 24 + e.bag) * 2 ^ 32 + (if weighted then e.weight.toNat else 0)

/-- The missing-index marker. -/
def missing : Nat := 2 ^ 40 - 1

/-- The table that a pin list lets a lookup name (R249). -/
def State.pinnedTable (s : State) (pins : List Pin) (t : Nat) : Option (Pin × Table) :=
  match pins.find? fun p => p.table = t with
  | none => none
  | some p => (s.table t).map fun x => (p, x)

/-- The outcome code of a lookup's entries (R244). -/
def State.entryCode (s : State) (l : Lookup) (es : List Entry) : Nat :=
  let ps := s.lookupPins l
  if es.any fun e => (s.pinnedTable ps e.table).isNone then 3
  else if es.any fun e => match s.pinnedTable ps e.table with
    | some (_, t) => t.dim ≠ l.dim
    | none => false
  then 4
  else if es.any fun e => decide (l.bags ≤ e.bag) then 5
  else 0

/-- Distinct (table, index) pairs of a sorted list. -/
def distinctKeys (es : List Entry) : List (Nat × Nat) := (es.map fun e => (e.table, e.index)).eraseDups

/-- Whether a key takes the table's default row (R246). -/
def State.isDefault (s : State) (k : Nat × Nat) : Bool :=
  match s.table k.1 with
  | some t => decide (t.rows ≤ k.2) || k.2 = missing
  | none => true

/-- The device that owns a key's row when it is another one (R255). -/
def State.remoteOwner (s : State) (k : Nat × Nat) : Option Nat :=
  match s.table k.1 with
  | some t => if t.owns s.device k.2 then none else some (t.shards.getD (t.shardOf k.2) 0)
  | none => none

/-- The page for which R406 refuses a lookup once its list is read: the first PROTECTED one of its ranges, when rows come from an owner
that is reached through a revision-2 link (DEDUCED, log entry 128). -/
def State.farRefusal (s : State) (l : Lookup) (keys : List (Nat × Nat)) : Option Nat :=
  if keys.any fun k => (s.remoteOwner k).any s.rev2Toward then (l.leaves.find? (·.prot)).map (·.va) else none

/-- Capacity of scheduled slots that a lookup's template gives an owner (R257). DESIGN CHOICE (log entry 127): a host lookup has no
template, and so none. -/
def State.lookupCapacity (s : State) (l : Lookup) (dev : Nat) : Nat :=
  match l.source with
  | .host _ => 0
  | .prog j _ _ t => match s.template j t with
    | some x => ((x.capacity.find? fun c => c.1 = dev).map (·.2)).getD 0
    | none => 0

/-- The requests of the remote keys, in ascending key order, and how many overflow (R256, R257). -/
def State.askRows (s : State) (l : Lookup) (keys : List (Nat × Nat)) : List ShardMsg × Nat :=
  let far := keys.filterMap fun k => (s.remoteOwner k).map fun d => (d, k)
  let msgs := far.zipIdx.map fun x =>
    let before := ((far.take x.2).filter fun y => y.1 = x.1.1).length
    let (v, ce) := match (s.lookupPins l).find? fun p => p.table = x.1.2.1 with
      | some p => (p.version, p.ce)
      | none => (0, 0)
    ShardMsg.ask x.1.1 x.1.2.1 x.1.2.2 v ce (decide (before < s.lookupCapacity l x.1.1))
  (msgs, (msgs.filter fun m => match m with
    | .ask _ _ _ _ _ c => !c
    | .row _ _ _ _ _ _ => false).length)

/-! ### Pooling (R251) -/

/-- A sub-run pooled into a bag: its weight, its count, the row's values with their poison. -/
def Lookup.poolBag (l : Lookup) (bag n : Nat) (w : Word32) (row : List (Word32 × Bool)) (whole : Bool) : Lookup :=
  let first := NMap.get l.counts bag 0 = 0
  row.zipIdx.foldl (fun l x =>
    let key := accKey bag x.2
    let a := NMap.get l.acc key 0
    let v := if l.pool = 3 then (if first then fp32.canon x.1.1.toNat else (fp32.maxNum a.toNat x.1.1.toNat).code)
      else (fp32.fma w.toNat x.1.1.toNat a.toNat).code
    { l with acc := NMap.set l.acc key (BitVec.ofNat 32 v) 0,
             poisoned := if (whole || x.1.2) && !l.poisoned.contains key then l.poisoned ++ [key] else l.poisoned })
    { l with counts := NMap.set l.counts bag (NMap.get l.counts bag 0 + n) 0 }

/-- Weight of a sub-run (R251). -/
def runWeight (weighted : Bool) (es : List Entry) : Word32 :=
  if weighted then es.foldl (fun w e => BitVec.ofNat 32 (add32 w.toNat e.weight.toNat).code) 0
  else toFp32 (.fin false es.length 0)

/-- A row pooled into every bag of its key. -/
def Lookup.poolRow (l : Lookup) (k : Nat × Nat) (row : List (Word32 × Bool)) (whole : Bool) : Lookup :=
  let es := l.entries.filter fun e => e.table = k.1 && e.index = k.2
  ((es.map (·.bag)).eraseDups).foldl (fun l b =>
    let sub := es.filter (·.bag = b)
    l.poolBag b sub.length (runWeight (l.pool = 2) sub) row whole) l

/-- The row of a key that has arrived: its elements with their poison. -/
def Lookup.arrived (l : Lookup) (k : Nat × Nat) : Option (List (Word32 × Bool)) :=
  (l.rows.find? fun r => r.1 = k.1 && r.2.1 = k.2).map fun r => r.2.2.1.zip r.2.2.2

/-- A row pooled, and the accumulator area of the bags that it touched (R251, R254). -/
def State.poolInto (s : State) (cl : Nat) (l : Lookup) (k : Nat × Nat) (row : List (Word32 × Bool)) (whole : Bool) : Lookup × State :=
  let l' := l.poolRow k row whole
  let bags := ((l.entries.filter fun e => e.table = k.1 && e.index = k.2).map (·.bag)).eraseDups
  (l', bags.foldl (fun s b => s.putAcc cl l' b fun e => NMap.get l'.acc (accKey b e) 0) s)

/-- Pooling goes on while the next key's row is there, at most `n` keys (R251, R258). -/
def State.poolOn (s : State) (cl : Nat) : Nat → Lookup → Lookup × State
  | 0, l => (l, s)
  | n + 1, l =>
    match l.todo with
    | [] => (l, s)
    | k :: t =>
      if s.isDefault k then
        match s.table k.1 with
        | none => (l, s)
        | some tb =>
          let (row, s) := s.defaultRow cl tb
          let (l, s) := s.poolInto cl l k row (row.any (·.2))
          State.poolOn s cl n { l with todo := t }
      else match l.arrived k with
      | none => (l, s)
      | some row =>
        let (l, s) := s.poolInto cl l k row false
        State.poolOn s cl n { l with todo := t, rows := l.rows.filter fun r => !(r.1 = k.1 && r.2.1 = k.2) }

/-- Whether every lookup accepted before index `i` has pooled (R232). -/
def Cluster.pooledBefore (k : Cluster) (i : Nat) : Bool :=
  (k.lookups.take i).all fun l => l.phase = .written || (l.phase = .pooling && l.todo.isEmpty)

/-- The lookup at index `i` pools as far as its rows let it, once it may start. -/
def State.poolAt (s : State) (cl i : Nat) : State :=
  match (s.cluster cl).lookups[i]? with
  | none => s
  | some l =>
    if l.phase = .pooling && (s.cluster cl).pooledBefore i then
      let (l', s) := s.poolOn cl l.todo.length l
      s.setLookup cl l.id fun _ => some l'
    else s

/-- Every lookup of an engine pools as far as it can, in order. -/
def State.poolAll (s : State) (cl : Nat) : State :=
  (List.range (s.cluster cl).lookups.length).foldl (fun s i => s.poolAt cl i) s

/-- A lookup handed over: output (but for a refused one), status block, token, its entry free, its pin released; the
groups that wait for the room are ready (R184, R231, R262 to R264, R274); later lookups pool on. What a host lookup wrote is visible
before its command completes (R480). -/
def State.handOver (s : State) (cl : Nat) (l : Lookup) : State :=
  let refused := decide (1 ≤ l.code) && decide (l.code ≤ 5)
  let bad := if refused then 0 else if l.code = 0 then l.poisonedBags else l.bags
  let s := if refused then s else s.writeLookup cl l
  let s := match l.source with
    | .prog j c _ _ => if bad ≠ 0 then s.suspect j l.epoch c 0x02 else s
    | .host _ => s
  let s := if l.statusOff % 32 = 0 then
      s.putSector .store (storeAddr (s.lookupCore cl l) l.statusOff / 32) (leBytes 32 (l.status bad)) false false
    else s
  let s := ((s.setLookup cl l.id fun _ => none).pinSlots false l.pins).unpark (fun _ => true) (Park.isEngine cl)
  let s := s.poolAll cl
  let (op, lay, num) := match l.source with
    | .prog j _ _ _ => (0xFFFF, 0xFFFF, (s.recJob j).1.toNat)
    | .host k => (k.operator.toNat, k.layer.toNat, 0)
  let s := s.trace { part := l.part, unit := clusterRef s.device cl, type := 0x06, cls := 1, op := op, layer := lay, job := num,
                     epoch := l.epoch.toNat, payload := l.code * 2 ^ 56 + satN 32 l.distinct }
  match l.source with
  | .prog j _ _ _ => s.post cl l.sem 1 (some j)
  | .host k =>
    let s := if refused then s else l.written.foldl (fun s r => s.cleanRange cl l.part r.1 r.2) s
    (s.post cl l.sem 1 none).lookupAnswer cl k l

/-! ### Prefetch (R259 to R261) -/

/-- The version under which a prefetch reads a table (R260). -/
def Table.nextVersion (t : Table) : Byte :=
  match (List.range 4).find? fun i => (t.slot i).st = .flipCommitted with
  | some i => (t.slot i).version
  | none => t.active

/-- A key's base row brought into the cluster's cache. -/
def State.warmRow (s : State) (cl : Nat) (k : Nat × Nat) : State :=
  match s.table k.1 with
  | none => s
  | some t =>
    if decide (t.rows ≤ k.2) || !t.owns s.device k.2 then s
    else
      let v := t.nextVersion
      let a := (t.slot (t.pinSlot v)).base + t.localIndex s.device k.2 * t.stride
      let lines := upFrom (a / 128) ((a + t.rowBytes - 1) / 128 + 1 - a / 128)
      lines.foldl (fun s la =>
        match s.regionAt cl (128 * la) with
        | none => s
        | some r => (s.demandLine cl r la (some (k.1, v))).2) s

/-- The next batch's list read and its local rows brought into the cache, when the sorter is idle (R259). -/
def State.prefetch (s : State) (cl : Nat) (l : Lookup) : State :=
  let k := s.cluster cl
  if !l.hasNext || cacheMib k.deckCfg = 0 || k.lookups.any (fun x => x.phase = .sorting) then s
  else
    let lo := l.nextVa / 32 * 32
    let (bs, s) := (List.range ((l.nextVa % 32 + 16 * l.nextCount + 31) / 32)).foldl (fun (p : List (Byte × Bool) × State) i =>
      let va := lo + 32 * i
      let skip : List (Byte × Bool) := List.replicate 32 (0, true)
      match s.leafAt l.part va with
      | none => (p.1 ++ skip, p.2)
      | some f =>
        if f.isHost && f.prot then (p.1 ++ skip, p.2)
        else
          let (x, s) := p.2.readAt (some cl) (f.target va)
          (p.1 ++ x.data.map fun b => (b, x.poison), s)) ([], s)
    let es := (List.range l.nextCount).filterMap fun i =>
      let e := (bs.drop (l.nextVa % 32 + 16 * i)).take 16
      if e.any (·.2) then none else some (entryOf (e.map (·.1)))
    (distinctKeys (sortBy (Entry.key false) es)).foldl (fun s k => s.warmRow cl k) s

/-! ### The events -/

/-- Index of the lookup whose sort is in progress. -/
def Cluster.sortingIndex (k : Cluster) : Option Nat := k.lookups.findIdx? fun l => l.phase = .sorting

/-- A lookup that R244 refuses (R263, R264): its record; under Elastic release or with a WCET of 0 it is handed over at
once, under Fixed release at its WCET tick. -/
def State.refuseLookup (s : State) (cl : Nat) (l : Lookup) : State :=
  let s := s.raiseLookup cl l
  if l.fixed && l.wcet ≠ 0 then s.setLookup cl l.id fun _ => some { l with phase := .written }
  else s.handOver cl l

/-- The work area's bytes after a sort: the manual gives no content. -/
def State.scribble (s : State) (cl : Nat) (l : Lookup) : State :=
  let n := (16 * l.count + 31) / 32
  let t := ((s.used n).under l.leaves).writeVa (some cl) l.part l.workVa ((List.range n).map fun k => (leBytes 32 (s.freeAt 256 k).toNat, false))
  { t with leaves := s.leaves }

/-- The list of a lookup read under the translation of its acceptance and sorted, whether a sector of it is poisoned, and the outcome
code of its entries (R242, R244, R370). -/
def State.sortedList (s : State) (cl : Nat) (l : Lookup) : List Entry × Bool × Nat × State :=
  let (xs, t) := (s.under l.leaves).readVa (some cl) l.part l.listVa ((l.count + 1) / 2)
  let es := sortBy (Entry.key (l.pool = 2)) (entriesOf xs l.count)
  (es, xs.any (·.poison), s.entryCode l es, { t with leaves := s.leaves })

/-- LOOKUP_SORT_END (R242 to R247, R256, R257): the sort that the engine runs ends. The list is checked; a refused
lookup is recorded; the others ask for their remote rows and start to pool. -/
def execLookupSortEnd (cl : Nat) (s : State) : Host.Outcome State Fault Refusal :=
  if 48 ≤ cl then .refused .noSuchUnit
  else
    let k := s.cluster cl
    match k.sortingIndex with
    | none => .next s
    | some i =>
      match k.lookups[i]? with
      | none => .next s
      | some l =>
        if s.clocksStopped || decide (s.tick < l.sortEnd / 11) then .next s
        else if l.code ≠ 0 then .next (s.refuseLookup cl l)
        else
          let (es, bad, code, s) := s.sortedList cl l
          let s := s.engCount cl ecKeys l.count
          let keys := distinctKeys es
          let real := keys.filter fun k => !s.isDefault k
          if code ≠ 0 then .next (s.refuseLookup cl { l with code := code })
          else match s.farRefusal l real with
          | some va => .next (s.refuseLookup cl { l with code := 2, page := some va })
          | none =>
            let s := s.scribble cl l
            let defs := es.filter fun e => s.isDefault (e.table, e.index)
            let (msgs, late) := s.askRows l real
            let l' : Lookup :=
              { l with phase := .pooling, entries := es, todo := keys, distinct := keys.length, defaulted := defs.length,
                       outOfRange := (defs.filter fun e => e.index ≠ missing).length, remote := msgs.length, overflow := late,
                       listPoisoned := bad, code := if bad then 6 else 0 }
            let s := (List.range l.bags).foldl (fun s b => s.putAcc cl l b fun _ => 0) s
            let s := (s.setLookup cl l.id fun _ => some l').engCount cl ecDistinct keys.length
            let s := ((s.engCount cl ecDefaulted defs.length).engCount cl ecRemote msgs.length).engCount cl ecOverflow late
            let s := { s with shardOut := s.shardOut ++ msgs }
            .next ((s.poolAll cl).prefetch cl l')

/-- LOOKUP_ROW_ARRIVE (R241, R248 to R250, R256, R258): the row of a key of a lookup arrives, local or from its owner,
is decoded, and pooling goes on. -/
def execLookupRowArrive (cl i table index : Nat) (far : Option RowData) (s : State) : Host.Outcome State Fault Refusal :=
  if 48 ≤ cl then .refused .noSuchUnit
  else match (s.cluster cl).lookups[i]? with
  | none => .next s
  | some l =>
    let key := (table, index)
    if s.clocksStopped || l.phase ≠ .pooling || !l.todo.contains key || s.isDefault key || (l.arrived key).isSome then .next s
    else match s.pinnedTable (s.lookupPins l) table with
    | none => .next s
    | some (p, t) =>
      let got : Option (List Byte × Bool × Bool × State) :=
        if t.owns s.device index then some (s.readRow cl table t p.version p.ce index)
        else far.map fun r => (r.bytes, r.poisoned, false, s)
      match got with
      | none => .next s
      | some (b, bad, hit, s) =>
        let (row, s) := s.decodeRow cl t b
        let s := s.setLookup cl l.id fun l =>
          some { l with rows := l.rows ++ [(table, index, row.map (·.1), row.map fun x => x.2 || bad)], hits := l.hits + b2n hit }
        .next ((if hit then s.engCount cl ecHits 1 else s).poolAll cl)

/-- SHARD_REQUEST (R248, R256, R257, R283, R660): another device asks for a row under its lookup's pin; the row leaves in its
stored format, in the class of its request. The manual does not say which cluster's engine serves it: a free one (DESIGN CHOICE, log
entry 108). -/
def execShardRequest (dev table index : Nat) (pin : RowPin) (scheduled : Bool) (s : State) :
    Host.Outcome State Fault Refusal :=
  match s.table table with
  | none => .next s
  | some t =>
    if s.clocksStopped || !t.owns s.device index || decide (t.rows ≤ index) then .next s
    else
      let (b, bad, _, s) := (s.used 1).readRow ((s.freeAt 6 0).toNat % 48) table t pin.version pin.ce index
      .next { s with shardOut := s.shardOut ++ [.row dev table index b bad scheduled] }

/-- LOOKUP_COMPLETE (R231, R264): the first lookup that has pooled all its rows ends; Elastic release hands it over,
Fixed release holds it for its WCET tick. -/
def execLookupComplete (cl : Nat) (s : State) : Host.Outcome State Fault Refusal :=
  if 48 ≤ cl then .refused .noSuchUnit
  else match (s.cluster cl).lookups.find? fun l => l.phase = .pooling with
  | none => .next s
  | some l =>
    if s.clocksStopped || !l.todo.isEmpty then .next s
    else if l.fixed && decide (s.lookupNow l < l.due) then .next (s.setLookup cl l.id fun l => some { l with phase := .written })
    else .next (s.handOver cl l)

/-- The WCET tick of a lookup (R81, R84, R263, R266): what is ready is handed over; a late one hands over poisoned
output, with its record. One that is still being sorted is checked first: the lowest code that applies stands (R244, R263). -/
def State.lookupDue (s : State) (cl : Nat) (l : Lookup) : State :=
  if l.phase = .written then s.handOver cl l
  else
    let a : MissArgs := match l.source with
      | .prog j c _ _ => { unit := clusterRef s.device cl, job := some j, epoch := l.epoch, kind := 5, due := l.due, base := s.missBase j,
                           core := some c, part := l.part }
      | .host k => { unit := clusterRef s.device cl, job := none, epoch := l.epoch, kind := 6, due := l.due, base := 1, core := none,
                     opcode := k.opcode, layer := k.layer, operator := k.operator, part := l.part }
    let s := s.wcetMiss a
    let (code, s) : Nat × State :=
      if l.phase = .sorting && l.code = 0 then
        let (_, bad, code, s) := s.sortedList cl l
        (if code = 0 && bad then 6 else code, s)
      else (l.code, s)
    let l' := { l with late := true, code := if code = 0 then 7 else code }
    let s := if decide (1 ≤ l'.code) && decide (l'.code ≤ 5) then s.raiseLookup cl l' else s
    s.handOver cl l'

end Sys2Proof.Machine
end

