-- ==== Sys2Proof/Machine/Wcet.lean ====
section
/-!
DEFINITION. The WCET tick of an operation (R81 to R84, R193, R225, R264, R266, R664).
-/

namespace Sys2Proof.Machine

open Sys2Proof

/-- The record of a slot's miss (R84, R643), and the suspect step. -/
def State.slotMiss (s : State) (c g kind : Nat) (k : Slot) : State :=
  match (s.grp c g).job with
  | none => s
  | some j =>
    s.wcetMiss { unit := coreRef s.device c, job := some j, epoch := k.epoch, kind := kind, group := g, due := k.due,
                 base := s.missBase j, core := some c, part := partOf j }

/-- The slots of a group that have to act before slot `k`, directly or before another that has to, in issue order (R194). -/
def Grp.ahead (x : Grp) (k : Slot) : List (Nat × Slot) :=
  let earlier := (sortBy (fun y => y.2.id) (x.slots.filter fun y => decide (y.2.id < k.id))).reverse
  earlier.foldl (fun l y => if y.2.before k || l.any fun z => y.2.before z.2 then y :: l else l) []

/-- The lanes of a slot whose targets are on this device, as a word. -/
def Slot.localLanes (k : Slot) : Word32 := maskOf ((k.lanes.filter fun r => !r.target.isRemote).map (·.lane))

/-- The gathers and scatters of a group that come before slot `k` on some sector act now, in issue order, so that `k` may act at its
WCET tick (R194): the module does not fix the moment at which they do (R652). What a gather awaits from another device is left to it. -/
def State.actBefore (s : State) (c g : Nat) (k : Slot) : State :=
  ((s.grp c g).ahead k).foldl (fun s y =>
    match y.2.kind with
    | .scatter => (s.scatterEffect c g y.2 false).modGrp c g fun x => x.freeSlot y.1 y.2.id
    | _ =>
      let (z, t) := s.fetchLanes c y.2 { remote := [], lanes := y.2.localLanes }
      t.modGrp c g fun x => x.setSlot y.1 z) s

/-- A slot at its WCET tick: a gather's data handed over, poisoned when it has not arrived; a late scatter's sectors
written poisoned, after what comes before it; a late dk.zero recorded, once. -/
def State.slotDue (s : State) (c g i : Nat) (k : Slot) : State :=
  match k.kind with
  | .gather =>
    if k.arrived then s.deliver c g i k
    else
      let s := s.slotMiss c g 1 k
      let bad : Slot := { k with lanes := k.lanes.map fun r => { r with data := s.freeAt 32 r.lane, poison := true } }
      (s.used 32).deliver c g i bad
  | .scatter => (((s.actBefore c g k).slotMiss c g 2 k).scatterEffect c g k true).modGrp c g fun x => x.freeSlot i k.id
  | .zero =>
    if k.arrived then s
    else (s.slotMiss c g 3 k).modGrp c g fun x => x.setSlot i { k with arrived := true }

/-- WCET_TICK: the schedule or lookup time of an outstanding operation reaches its WCET tick (R81, R83, R84). A lookup whose WCET is 0
has none (R264). -/
def execWcetTick (o : OpRef) (s : State) : Host.Outcome State Fault Refusal :=
  match o with
  | .slot c g i =>
    if 384 ≤ c ∨ 16 ≤ g then .refused .noSuchUnit
    else match (s.grp c g).slot i with
    | none => .next s
    | some k => if s.grpNow (s.grp c g) < k.due then .next s else .next (s.slotDue c g i k)
  | .dma cl q i =>
    if 48 ≤ cl ∨ 4 ≤ q then .refused .noSuchUnit
    else match (NMap.get (s.cluster cl).dma q [])[i]? with
    | none => .next s
    | some d =>
      let now := match s.job d.job with
        | some b => b.now
        | none => 0
      if !d.accepted || decide (now < d.due) then .next s else .next (s.descDue cl q d)
  | .lookup cl i =>
    if 48 ≤ cl then .refused .noSuchUnit
    else match (s.cluster cl).lookups[i]? with
    | none => .next s
    | some l => if l.wcet = 0 || decide (s.lookupNow l < l.due) then .next s else .next (s.lookupDue cl l)

end Sys2Proof.Machine
end

