-- ==== Sys2Proof/Machine/Replay.lean ====
section
/-!
DEFINITION. Snapshots (R534), provisional output (R530 to R532, R538), and the replay of suspect steps (R536 to R545,
R663).
-/

namespace Sys2Proof.Machine

open Sys2Proof

/-! ### Snapshots (R534) -/

/-- The horizon H of an image, and the replay buffer of an epoch. -/
def bufferOf (img : Image) (e : Word32) : Nat := e.toNat % (img.horizon + 1)

/-- Device-wide cores that run streams of an image here, each once. -/
def State.streamCores (s : State) (img : Image) : List Nat := ((s.streams img).map (·.core)).eraseDups

/-- Groups of a core that a job holds. -/
def Core.groupsOf (k : Core) (j : Nat) : NMap Grp := k.groups.filter fun x => x.2.job = some j

/-- Core-store ranges read: what is corrected is written back and counted (R188, R332). -/
def State.noteStore (s : State) (c : Nat) (rs : List (Nat × Nat)) : State :=
  (rs.flatMap fun r => upFrom (storeAddr c r.1 / 32) (r.2 / 32)).foldl (fun s i => s.noteRead .store i (s.store.sector i)) s

/-- Core-store ranges as they are read now: offset, data, tags. -/
def State.grabStore (s : State) (c : Nat) (rs : List (Nat × Nat)) : List (Nat × List Byte × List Byte) :=
  rs.map fun r =>
    let secs := (upFrom (storeAddr c r.1 / 32) (r.2 / 32)).map s.store.sector
    (r.1, secs.flatMap (·.data), secs.map fun x => tagByte x.poison (bit x.tag 6))

/-- Core-store ranges put back. -/
def State.putStore (s : State) (c : Nat) (l : List (Nat × List Byte × List Byte)) : State :=
  l.foldl (fun s r =>
    (toSectors r.2.2.length r.2.1).zipIdx.foldl (fun s x =>
      s.putSector .store (storeAddr c r.1 / 32 + x.2) x.1 (bit (r.2.2.getD x.2 0) 7) (bit (r.2.2.getD x.2 0) 6)) s) s

/-- The snapshot of core `c` under the name of core `name`, for the step of epoch `e`. -/
def State.snapOf (s : State) (j name c : Nat) (e : Word32) (img : Image) : Snap :=
  { core := name, epoch := e, groups := (s.core c).groupsOf j, arr := (s.core c).arr,
    store := s.grabStore c ((img.snapStore.filter fun r => r.1 = name).map (·.2)) }

/-- The core that runs core `c`'s stream now: its replay core while its stream is replayed. -/
def Job.runner (b : Job) (img : Image) (c : Nat) : Nat := if b.replaying.contains c then (replayOf img c).getD c else c

/-- Counts of the semaphores of a job. -/
def State.semCounts (s : State) (img : Image) : List (Nat × Word32) :=
  img.sems.map fun x => (256 * x.1 + x.2, NMap.get (s.cluster x.1).sem x.2 0)

/-- Credits that a job's elastic streams have spent at each port and not had back (R534). -/
def State.creditCounts (s : State) (j : Nat) (n : Word32) : List (Nat × Nat) :=
  s.ports.map fun x => (x.1, sumN ((x.2.spent.filter fun y => y.1 = some (partOf j, n)).map (·.2)))

/-- Snapshots of every core of a job, the counts of its semaphores and of its credits, for the step of epoch `e`. Its bytes in the
cluster's Deck scratch have no stated layout: they are free values. -/
def State.snapshot (s : State) (j : Nat) (e : Word32) : State :=
  match s.job j with
  | none => s
  | some b => match s.jobImage b with
    | none => s
    | some img =>
      let s := (s.streamCores img).foldl (fun s c =>
        s.noteStore (b.runner img c) ((img.snapStore.filter fun r => r.1 = c).map (·.2))) s
      let new := (s.streamCores img).map fun c => s.snapOf j c (b.runner img c) e img
      let old := b.snaps.filter fun x => bufferOf img x.epoch ≠ bufferOf img e
      let s := s.setJob j (some { b with snaps := old ++ new,
                                         semSnaps := NMap.set b.semSnaps (bufferOf img e) (s.semCounts img) [],
                                         credSnaps := NMap.set b.credSnaps (bufferOf img e) (s.creditCounts j b.number) [] })
      (img.replayBufs.filter fun r => (s.streamCores img).contains r.1).foldl (fun s r =>
        let base := deckAddr (r.1 / 8) (r.2.1 + bufferOf img e * r.2.2) / 32
        ((List.range (r.2.2 / 32)).foldl (fun s k =>
          (s.putSector .deck (base + k) (leBytes 32 (s.freeAt 256 0).toNat) false false).used 1) s)) s

/-- Banks of a core put back: the whole array, or a half's columns. -/
def Arr.restore (a old : Arr) (half : Option Nat) : Arr :=
  let mine (k : Nat) : Bool := match half with
    | none => true
    | some h => k % 32 / 16 = h
  { a with bank := (List.range 2048).foldl (fun m k => if mine k then NMap.set m k (NMap.get old.bank k 0) 0 else m) a.bank,
           bankPoison := (List.range 2048).foldl (fun m k => if mine k then NMap.set m k (NMap.get old.bankPoison k false) false else m)
             a.bankPoison }

/-- The half of core `c` that a job's streams name. -/
def State.streamHalf (s : State) (img : Image) (c : Nat) : Option Nat :=
  match (s.streams img).filter fun t => t.core = c with
  | [t] => t.half
  | _ => none

/-- A snapshot put into core `c`: the job's groups, banks, core-store ranges. -/
def State.putSnap (s : State) (j c : Nat) (n : Snap) (half : Option Nat) : State :=
  let s := s.modCore c fun k =>
    let mine := n.groups.foldl (fun m x => NMap.set m x.1 x.2 Grp.reset) (k.groups.filter fun x => x.2.job ≠ some j)
    { k with groups := mine, arr := k.arr.restore n.arr half }
  s.putStore c n.store

/-! ### Held output (R532, R538) -/

def Held.epoch : Held → Word32
  | .hostWrite e _ _ => e
  | .hostCopy _ d _ => d.epoch
  | .ethSend e _ _ _ _ => e

/-- Epochs from `e` to `f`. -/
def epochsFrom (e f : Word32) : List Word32 := (List.range ((f - e).toNat + 1)).map fun i => e + BitVec.ofNat 32 i

/-- Whether an epoch lies at or above another (R80). -/
def epochGe (a b : Word32) : Bool := !epochLt a b

/-- CREDIT on a port (R397). -/
def State.sendCredit (s : State) (p n : Nat) : State := if n = 0 then s else s.sendTokens p .e [token 0x18 (n * 2 ^ 43)]

/-- The elastic sectors of a job's revoked epochs in this device's buffers discarded: those to send, those to pass on, whose credits go
back, and the streams into its windows (R538). -/
def State.discardStreams (s : State) (n : Word32) (hit : Word32 → Bool) : State :=
  let gone (t : TxStream) : Bool := t.job = n && t.src.isSome && hit t.epoch
  let back := s.ports.flatMap fun x => x.2.txStreams.filterMap fun t => if gone t then t.via.map fun q => (q, t.sectors.length) else none
  let s := s.mapPorts fun _ k => { k with txStreams := k.txStreams.filter fun t => !gone t }
  let s := back.foldl (fun (s : State) x => (s.modPort x.1 fun k => { k with rxHeld := k.rxHeld - x.2 }).sendCredit x.1 x.2) s
  let ended (r : RxStream) : Bool := r.job = n && r.epoch.any hit
  (s.rxStreams.filter fun r => ended r && r.admitted.isSome).foldl
    (fun (s : State) r => s.setWindow r.window { s.window r.window with open_ := (s.window r.window).open_ - 1 })
    { s with rxStreams := s.rxStreams.filter fun r => !ended r }

/-- What a job holds of the epochs from `e` discarded: host writes, held descriptors, Ethernet sends, and its elastic
sectors in this device's buffers (R538). -/
def State.discardFrom (s : State) (j : Nat) (e : Word32) : State :=
  match s.job j with
  | none => s
  | some b =>
    let s := s.setJob j (some { b with outs := b.outs.filter fun h => !epochGe h.epoch e })
    let s := s.mapClusters fun _ k =>
      { k with dma := mapCanon k.dma [] fun _ ds => ds.filter fun d => !(d.job = j && d.held && epochGe d.epoch e) }
    s.discardStreams b.number fun x => epochGe x e

/-- REVOKE (R416). -/
def revokeToken (job e : Word32) : Word64 := token 0x03 (job.toNat * 2 ^ 24 + e.toNat % 65536 * 2 ^ 8)

/-! ### Suspect cores (R545) -/

/-- Writes that a ring of 64 NVM pages bears (R621). -/
def ringWrites : Nat := 64 * 100000

/-- The cores removed as NVM records them: one write of the removal ring, which bears no more than R621 allows. -/
def State.recordRemoved (s : State) (l : List Nat) : State :=
  if s.nvm.removed = l || decide (ringWrites ≤ s.nvm.removals) then s
  else { s with nvm := { s.nvm with removed := l, removals := s.nvm.removals + 1 } }

/-- A core taken out of service (R545, R552): recorded in NVM, with its FIELD_TEST record; `segment` and `sig` are what
the test left. A job that has it as a replay core fails on this device (R544). -/
def State.removeCore (s : State) (c segment : Nat) (sig : Word64) : State :=
  let s := s.modCore c fun k => { k with removed := true, suspect := false, passed := false }
  let s := s.recordRemoved (if s.nvm.removed.contains c then s.nvm.removed else s.nvm.removed ++ [c])
  let s := s.raise { unit := coreRef s.device c, cls := 0x32, syndrome := c + segment * 2 ^ 16 + sig.toNat * 2 ^ 64 }
  let hit := s.heldJobs.filter fun j => match (s.job j).bind s.jobImage with
    | some img => img.replay.any fun x => x.2 = c
    | none => false
  if hit.isEmpty then s else s.failOpen hit

/-- A core marked suspect because a step is replayed for it, with its REPLAY record; one that was suspect already is
removed (R545). -/
def State.markSuspect (s : State) (j : Nat) (x : Suspect) (r : Nat) : State :=
  let k := s.core x.core
  let (num, p) := s.recJob j
  let s := s.raise { unit := coreRef s.device x.core, cls := 0x30, job := num, epoch := x.epoch, part := p,
                     syndrome := x.core + r * 2 ^ 16 + x.cause * 2 ^ 32 }
  let s := s.modCore x.core fun k => { k with suspect := true, suspects := satN 16 (k.suspects + 1) }
  if k.suspect then (s.used 1).removeCore x.core k.segment (s.freeAt 64 0) else s

/-! ### Slips -/

def SlipKind.rank : SlipKind → Nat
  | .replay _ => 0
  | .maintenance _ => 1
  | .squall => 2

/-- A slip put into its place in the order of R75, counted (FAB_SLIP_TOTAL) and traced. DESIGN CHOICE (log entry 104): each job's
slip counts, with its ticks, where one cause slips several jobs of the device. -/
def State.addSlip (s : State) (j : Nat) (k : SlipKind) (len : Nat) : State :=
  match s.job j with
  | none => s
  | some b =>
    let before := b.slips.takeWhile fun x => decide (x.kind.rank ≤ k.rank)
    let s := s.setJob j (some { b with slips := before ++ { kind := k, left := len } :: b.slips.drop before.length })
    let s := { s with slipCount := satN 24 (s.slipCount + 1) }
    s.trace { part := partOf j, unit := devRef s.device, type := 0x04, cls := 2, job := b.number.toNat, epoch := b.epoch.toNat,
              payload := k.rank * 2 ^ 62 + len }

/-- Schedule tick of the commit point that closes an epoch, and of the one that opens it. -/
def closeTick (img : Image) (e : Word32) : Option Nat := (img.steps[e.toNat]?).map (·.tick)
def openTick (img : Image) (e : Word32) : Nat := if e = 0 then 0 else (closeTick img (e - 1)).getD 0
/-- Length of a step. -/
def stepLength (img : Image) (e : Word32) : Nat := (closeTick img e).getD 0 - openTick img e

/-! ### Commit checks (R229) -/

/-- Groups of a job that have not executed commit at their commit point: each is recorded and the step is suspect (R229), one that
ended in the step without it among them. -/
def State.missedCommits (s : State) (j : Nat) (e : Word32) (tick : Nat) : State :=
  (s.jobGroups j).foldl (fun s x =>
    let k := s.grp x.1 x.2
    if k.committed then s
    else s.wcetMiss { unit := coreRef s.device x.1, job := some j, epoch := e, kind := 7, group := x.2, due := tick,
                      base := s.missBase j, core := some x.1, part := partOf j }) s

/-- The groups of a job at the start of a step. One that has ended, and so can commit no more (R230), counts as committed in every
later step (log entry 104). -/
def State.openStep (s : State) (j : Nat) : State :=
  (s.jobGroups j).foldl (fun s x => s.modGrp x.1 x.2 fun k => { k with committed := decide (k.run = .ended) }) s

/-! ### Replay -/

/-- Lookups and descriptors of a job of epochs from `e` discarded, to be issued again (R539). -/
def Cluster.discardFrom (k : Cluster) (j : Nat) (e : Word32) : Cluster :=
  { k with lookups := k.lookups.filter fun l => !(l.source.ofJob j && epochGe l.epoch e),
           lookWait := k.lookWait.filter fun l => !(l.source.ofJob j && epochGe l.epoch e),
           dma := mapCanon k.dma [] fun _ ds => ds.filter fun d => !(d.job = j && epochGe d.epoch e) }

/-- Semaphores of a job put back to recorded counts. -/
def State.restoreSems (s : State) (l : List (Nat × Word32)) : State :=
  l.foldl (fun s x => s.modCluster (x.1 / 256) fun k => { k with sem := NMap.set k.sem (x.1 % 256) x.2 0 }) s

/-- The latest spending of a pool for a job, `n` credits of it, no longer its own; the list is latest first. -/
def forgive (o : Nat × Word32) : Nat → List (Option (Nat × Word32) × Nat) → List (Option (Nat × Word32) × Nat)
  | _, [] => []
  | n, x :: t =>
    if n = 0 || x.1 ≠ some o then x :: forgive o n t
    else if x.2 ≤ n then (none, x.2) :: forgive o (n - x.2) t
    else (none, n) :: (x.1, x.2 - n) :: t

/-- The credits of a job's elastic streams put back to recorded counts (R539): the pool regains what the revoked epochs have spent.
DESIGN CHOICE (log entry 119): credits that have come back since stay back. -/
def State.restoreCredits (s : State) (j : Nat) (num : Word32) (l : List (Nat × Nat)) : State :=
  (s.creditCounts j num).foldl (fun (s : State) x =>
    let n := x.2 - (((l.find? fun y => y.1 = x.1).map (·.2)).getD 0)
    (s.modPort x.1 fun k => { k with spent := (forgive (partOf j, num) n k.spent.reverse).reverse }).modPart (partOf j) fun q =>
      { q with credUsed := NMap.modify q.credUsed x.1 0 (· - n) }) s

/-- Whether one replay core would replay two of some suspect cores (R544). -/
def twice (img : Image) (cs : List Nat) : Bool := !noDup (cs.filterMap (replayOf img))

/-- REPLAY_SLIP_START (R537 to R540, R544, R545, R663): at the commit point that closes epoch `f`, after a report on
epoch `e`, the slips for the epochs `e` to `f` are inserted; array work, held output, Ceilings of these epochs are
discarded; every core takes the snapshot of epoch `e`, that of a suspect core being run by its replay core, in the suspect core's issue mode. -/
def State.startReplay (s : State) (j : Nat) (e f : Word32) (img : Image) : State :=
  match s.job j with
  | none => s
  | some b =>
    let here := b.suspects.filter fun x => epochGe x.epoch e
    let cores := (here.map (·.core)).eraseDups.filter (· ≠ 384)
    if twice img cores then s.failOpen [j]
    else
      let s := here.foldl (fun s x =>
        if x.core ≠ 384 && (here.find? fun y => y.core = x.core) = some x then s.markSuspect j x ((replayOf img x.core).getD 0) else s) s
      let es := epochsFrom e f
      let s := s.discardFrom j e
      let s := s.mapCores fun _ k => { k with arr := { k.arr with queues := mapCanon k.arr.queues [] fun _ q => q.filter fun o => o.job ≠ j } }
      let s := s.mapClusters fun _ k => k.discardFrom j e
      let s := s.dropWaits fun c g => (s.grp c g).job = some j
      let s := s.restoreSems (NMap.get b.semSnaps (bufferOf img e) [])
      let s := s.restoreCredits j b.number (NMap.get b.credSnaps (bufferOf img e) [])
      let s := (s.jobGroups j).foldl (fun s x => s.modGrp x.1 x.2 Grp.release) s
      let s := (b.snaps.filter fun n => n.epoch = e).foldl (fun s n =>
        let c := if cores.contains n.core then (replayOf img n.core).getD n.core else n.core
        let k := s.core n.core
        let s := if c = n.core then s else s.modCore c fun x => { x with fixed := k.fixed, ring := k.ring }
        s.putSnap j c n (s.streamHalf img n.core)) s
      let s := s.modJob j fun b =>
        { b with epoch := e, replayTick := some (openTick img e), replaying := cores,
                 suspects := b.suspects.filter fun x => !epochGe x.epoch e, reported := [],
                 ceils := b.ceils.filter fun x => !(es.map (·.toNat)).contains x.1,
                 rerun := (b.rerun.filter fun x => !es.contains x.1) ++ es.map fun g => (g, e) }
      es.foldl (fun s g => s.addSlip j (.replay g) (stepLength img g)) s

/-- The state of each replay core put into its suspect core, and the replay core released (R541). -/
def State.copyBack (s : State) (j : Nat) (img : Image) : State :=
  match s.job j with
  | none => s
  | some b =>
    let s := b.replaying.foldl (fun s c =>
      let r := (replayOf img c).getD c
      let s := s.noteStore r ((img.snapStore.filter fun x => x.1 = c).map (·.2))
      let n := s.snapOf j c r b.epoch img
      let n := { n with store := s.grabStore r ((img.snapStore.filter fun x => x.1 = c).map (·.2)) }
      let s := s.putSnap j c n (s.streamHalf img c)
      if r = c then s else s.modCore r fun k => k.mapGroups fun _ x => if x.job = some j then x.release else x) s
    s.modJob j fun b => { b with replaying := [], replayTick := none }

/-- Whether a replay core of a job still has array work of it (R663). -/
def State.replayArrayBusy (s : State) (j : Nat) (b : Job) (img : Image) : Bool :=
  b.replaying.any fun c => match replayOf img c with
    | some r => (s.core r).arr.queues.any fun q => q.2.any fun o => o.job = j
    | none => false

/-- REPLAY_SLIP_END (R540 to R542): the slip of a replayed epoch ends. The epoch takes its Ceiling; the next epoch's
step opens; after the last, each replay core's state goes to its suspect core. -/
def execReplaySlipEnd (j : Nat) (s : State) : Host.Outcome State Fault Refusal :=
  match s.job j with
  | none => .next s
  | some b => match b.slips, s.jobImage b with
    | { kind := .replay g, left := 0 } :: rest, some img =>
      let last := match rest with
        | { kind := .replay _, left := _ } :: _ => false
        | _ => true
      if last && s.replayArrayBusy j b img then .next s
      else
        let s := (s.missedCommits j g ((closeTick img g).getD 0)).openStep j
        let sus := match s.job j with
          | some b => b.suspects.any fun x => x.epoch = g
          | none => false
        let s := s.modJob j fun b =>
          { b with epoch := g + 1, slips := rest, replayTick := some (openTick img (g + 1)) }.modCeil g fun _ =>
            { Ceil.reset with point := s.tick, due := some (s.tick + 6), suspect := sus }
        let s := s.snapshot j (g + 1)
        .next (if last then s.copyBack j img else s)
    | _, _ => .next s

end Sys2Proof.Machine
end

