-- ==== Sys2Proof/Machine/Commit.lean ====
section
/-!
DEFINITION. Commit points, releases, the commit of an epoch (R424 to R431, R529 to R533, R655), slip points and
maintenance windows (R342 to R347, R445, R446).
-/

namespace Sys2Proof.Machine

open Sys2Proof

/-! ### The commit of an epoch (R530 to R532) -/

/-- Link of an Ethernet message. -/
def EthMessage.link : EthMessage → Nat
  | .write l _ _ _ _ _ => l
  | .ack l _ _ => l
  | .nakAccess l _ _ => l
  | .nakInvalid l _ _ => l
  | .accept l _ => l
  | .reject l => l
  | .congestion l _ => l

/-- ETH_PORT at reset: PFC_PRIO 0b011. -/
def ethPortReset : Word64 := 0x60

/-- The port word in force. -/
def State.ethPortWord (s : State) (p : Nat) : Word64 := NMap.get s.ethPort p ethPortReset

/-- Whether a link exists under its port's settings (R488). -/
def State.linkUsed (s : State) (l : Nat) : Bool :=
  let w := s.ethPortWord (l / 2)
  bit w 0 && (l % 2 = 0 || bit w 1)

/-- What the module sends on Ethernet: it waits while the link's peer has paused the priority (R490). -/
def State.ethSend (s : State) (m : EthMessage) : State :=
  if NMap.get s.pfc m.link false then { s with ethWait := s.ethWait ++ [m] } else { s with ethOut := s.ethOut ++ [m] }

/-- RDMA_WRITE_SEND (R501): bytes written into an EGRESS region sent to its peer, with EPOCH as immediate when IMM is set. A link that its
port does not use carries nothing (R488; log entry 131). -/
def State.sendRegion (s : State) (n off : Nat) (bytes : List Byte) (e : Word32) : State :=
  match NMap.get s.regions n none with
  | none => s
  | some r =>
    if !s.linkUsed (bf r.w2 9 8) then s
    else s.ethSend (.write (bf r.w2 9 8) (bf r.w2 7 0) (BitVec.ofNat 32 (bf r.w2 63 32)) (r.w3 + BitVec.ofNat 64 off)
      bytes (if bit r.w0 60 then some e else none))

/-- A held output performed. -/
def State.performHeld (s : State) (h : Held) : State :=
  match h with
  | .hostWrite _ a b => s.hostWrite a b
  | .hostCopy cl d region =>
    let (xs, s) := s.performCopy cl d
    match region with
    | some (n, off) => s.sendRegion n off (xs.flatMap (·.1)) d.epoch
    | none => s
  | .ethSend e n off b _ => s.sendRegion n off b e

/-- The path of what a region sends (R501). -/
def State.regionPath (s : State) (n : Nat) : Nat := match NMap.get s.regions n none with
  | some r => if bf r.w2 9 8 < 2 then 4 else 8
  | none => 0

/-- The path that a held output takes (R482, R501). -/
def State.heldPath (s : State) (h : Held) : Nat :=
  match h with
  | .ethSend _ n _ _ _ => s.regionPath n
  | .hostCopy _ _ region => 1 + (match region with
    | some (n, _) => s.regionPath n
    | none => 0)
  | .hostWrite .. => 1

/-- Order of a held send among those of its epoch (R502). -/
def Held.order : Held → Nat
  | .ethSend _ _ _ _ o => o
  | .hostCopy _ d _ => d.order
  | _ => 0

/-- Held descriptors of a committed epoch: finished once their token is posted. -/
def State.freeHeld (s : State) (j : Nat) (e : Word32) : State :=
  (s.mapClusters fun _ k =>
    { k with dma := mapCanon k.dma [] fun _ ds => ds.filterMap fun d =>
        if d.job = j && d.held && d.epoch = e then (if d.tokenPosted then none else some { d with held := false, moved := true })
        else some d }).unparkFreed s

/-- EPOCH_COMMIT: the next epoch of job `j` commits: its held writes and sends go out, and a token boundary runs its
procedure (R316, R501, R530, R532, R655). -/
def State.commitEpoch (s : State) (j : Nat) : State :=
  match s.job j with
  | none => s
  | some b => match s.jobImage b with
    | none => s
    | some img =>
      let e := b.nextCommit
      let point := (b.ceil e).point
      let here := b.outs.filter fun h => h.epoch = e
      let s := s.setJob j (some
        { b with outs := b.outs.filter fun h => h.epoch ≠ e, nextCommit := e + 1, ceils := NMap.erase b.ceils e.toNat,
                 suspects := b.suspects.filter fun x => x.epoch ≠ e, rerun := b.rerun.filter fun x => x.1 ≠ e })
      let s := (sortBy Held.order here).foldl (fun (s : State) h => (s.markPath j (s.heldPath h)).performHeld h) s
      let s := s.freeHeld j e
      match img.gen, img.steps[e.toNat]? with
      | some _, some st => if st.boundary then (s.markPath j 2).boundary (partOf j) point (devRef s.device) b.number e else s
      | _, _ => s

/-- Whether a step never commits because the job's task ends with it or before it (R204, R522). -/
def Job.ends (b : Job) (e : Word32) : Bool := match b.ending with
  | some x => epochGe e x.epoch
  | none => false

/-- Epochs whose release has been applied commit in ascending order, up to one that is suspect or not yet released
(R531); `n` bounds them. -/
def State.commitReady (s : State) (j : Nat) : Nat → State
  | 0 => s
  | n + 1 =>
    match s.job j with
    | none => s
    | some b =>
      let c := b.ceil b.nextCommit
      match c.release with
      | some (_, false, false) => if c.applied && !b.ends b.nextCommit then (s.commitEpoch j).commitReady j n else s
      | _ => s

/-- Schedule ticks still to run: how a job that stops at the first commit point from now is marked (R543). -/
def Job.stopNow (b : Job) (status : Nat) : Job := b.stopFrom b.stick status

/-- CEILING_RELEASE_APPLY (R426, R431, R530, R531, R538, R543): at the tick that a release names it is applied. -/
def execCeilingReleaseApply (j : Nat) (epoch : Word32) (s : State) : Host.Outcome State Fault Refusal :=
  match s.job j with
  | none => .next s
  | some b => match s.jobImage b, (b.ceil epoch).release with
    | some img, some (t, sus, fail) =>
      if s.tick < t || (b.ceil epoch).applied then .next s
      else
        let s := s.setJob j (some (b.modCeil epoch fun c => { c with applied := true }))
        let s := s.trace { part := partOf j, unit := devRef s.device, type := 0x03, cls := 2, job := b.number.toNat,
                           epoch := epoch.toNat, payload := b2n sus }
        let s := if sus && s.isRoot img then s.sendAll (s.jobKids img) .u [revokeToken b.number epoch] else s
        if fail then .next s
        else if sus then
          let s := s.discardFrom j epoch
          match b.rerun.find? fun x => x.1 = epoch with
          | some x =>
            let s := s.raise { unit := devRef s.device, cls := 0x31, job := b.number, epoch := epoch, part := partOf j,
                               syndrome := x.2.toNat + epoch.toNat * 2 ^ 32 }
            .next (s.modJob j fun b => b.stopNow Status.jobAborted)
          | none => .next (s.modJob j fun b => { b with reported := b.reported ++ [epoch] })
        else .next (s.commitReady j (img.horizon + 2))
    | _, _ => .next s

/-- REVOKE (R538): the token passed down the tree, and what the job holds of the revoked epochs discarded; a device that only passes
its streams on discards their sectors. -/
def execRevoke (port : Nat) (t : Word64) (s : State) : Host.Outcome State Fault Refusal :=
  if 16 ≤ port then .refused .noSuchUnit
  else
    let s := s.sendAll s.childPorts .u [t]
    let n : Word32 := BitVec.ofNat 32 (bf t 55 24)
    match s.jobNumbered n with
    | none => .next (s.discardStreams n fun x => decide ((x.toNat + 65536 - bf t 23 8) % 65536 < 32768))
    | some j => match s.job j with
      | none => .next s
      | some b =>
        let e := b.nextCommit + BitVec.ofNat 32 ((bf t 23 8 + 65536 - b.nextCommit.toNat % 65536) % 65536)
        .next (s.discardFrom j e)

/-! ### Commit points -/

/-- The earliest epoch reported suspect whose report has reached the units: 6 ticks after its release (R426, R537). -/
def State.dueReport (s : State) (b : Job) : Option Word32 :=
  (b.reported.filter fun e => match (b.ceil e).release with
    | some (t, _, _) => decide (t + 6 ≤ s.tick)
    | none => false).foldl (fun m e => match m with
    | none => some e
    | some f => if epochLt e f then some e else some f) none

/-- Whether a job runs or stands at a cheap point that it has reached. -/
def Job.inStep (b : Job) : Bool :=
  match b.phase with
  | .running => true
  | .saving _ => true
  | _ => false

/-- COMMIT_POINT (R229, R424, R430, R528, R529, R534, R537): the step epoch advances, groups that have not committed
are recorded, snapshots are taken, and the Ceiling begins, unless a report starts a replay instead of the next step. A stop that falls due ends
the job. -/
def execCommitPoint (j : Nat) (s : State) : Host.Outcome State Fault Refusal :=
  match s.job j with
  | none => .next s
  | some b => match s.jobImage b with
    | none => .next s
    | some img => match closeTick img b.epoch with
      | none => .next s
      | some t =>
        if !b.inStep || b.replayTick.isSome || decide (b.stick < t) then .next s
        else match b.stopAt with
        | some (at_, st) =>
          if at_ ≤ t then .next (s.endJob j { status := st, unit := devRef s.device }) else .next (go b img t s)
        | none => .next (go b img t s)
where
  /-- The commit point of a job that goes on. -/
  go (b : Job) (img : Image) (t : Nat) (s : State) : State :=
    let e := b.epoch
    let s := (s.missedCommits j e t).openStep j
    let sus := match s.job j with
      | some b => b.suspects.any fun x => x.epoch = e
      | none => false
    let report := s.dueReport b
    let s := s.modJob j fun b =>
      let b := { b with epoch := e + 1 }
      if report.isSome then b
      else b.modCeil e fun c => { c with point := s.tick, due := some (s.tick + 6), suspect := c.suspect || sus }
    match report with
    | some r => s.startReplay j r e img
    | none => s.snapshot j (e + 1)

/-! ### Slip points (R445, R446) -/

/-- SLIP_SET (R416). -/
def slipSetToken (job : Word32) (index sev : Nat) : Word64 := token 0x13 (job.toNat * 2 ^ 24 + index % 256 * 2 ^ 16 + sev * 2 ^ 13)

/-- SLIP_SET_SEND (R445): the Ceiling root fixes the severity of the next slip point, T_DEPTH ticks before it. -/
def execSlipSetSend (j : Nat) (s : State) : Host.Outcome State Fault Refusal :=
  match s.job j with
  | none => .next s
  | some b => match s.jobImage b with
    | none => .next s
    | some img => match img.slipPoints[b.slipIdx]? with
      | none => .next s
      | some t =>
        if !s.isRoot img || b.stick + s.jobDepth img < t || (NMap.get b.slipSets (b.slipIdx % 256) 0) ≠ 0 then .next s
        else
          let s := s.sendAll (s.jobKids img) .sl [slipSetToken b.number b.slipIdx b.sevSince]
          .next (s.setJob j (some { b with sevSince := 0, slipSets := NMap.set b.slipSets (b.slipIdx % 256) (b.sevSince + 1) 0 }))

/-- SLIP_SET (R446): the severity of a slip point, passed down the tree. -/
def execSlipSet (port : Nat) (t : Word64) (s : State) : Host.Outcome State Fault Refusal :=
  if 16 ≤ port then .refused .noSuchUnit
  else
    let s := s.sendAll s.childPorts .sl [t]
    match s.jobNumbered (BitVec.ofNat 32 (bf t 55 24)) with
    | none => .next s
    | some j => .next (s.modJob j fun b => { b with slipSets := NMap.set b.slipSets (bf t 23 16) (bf t 15 13 + 1) 0 })

/-- Ticks of a Squall slip by severity. -/
def squallTicks (sev : Nat) : Nat := if sev = 0 then 0 else 100 * 4 ^ (sev - 1)

/-- SLIP_POINT (R74, R446): at a slip point the Squall slip that SLIP_SET fixed begins; without it the device fails for
the job. -/
def execSlipPoint (j : Nat) (s : State) : Host.Outcome State Fault Refusal :=
  match s.job j with
  | none => .next s
  | some b => match (s.jobImage b).bind fun img => img.slipPoints[b.slipIdx]? with
    | none => .next s
    | some t =>
      if !b.inStep || decide (b.stick < t) then .next s
      else
        let k := b.slipIdx % 256
        let v := NMap.get b.slipSets k 0
        let s := s.setJob j (some { b with slipIdx := b.slipIdx + 1, slipSets := NMap.set b.slipSets k 0 0 })
        if v = 0 then .next (s.failOpen [j])
        else if v = 1 then .next s
        else .next (s.addSlip j .squall (squallTicks (v - 1)))

/-- Whether some job's maintenance slip of a stack is in force. -/
def State.windowOpen (s : State) (n : Nat) : Bool :=
  s.heldJobs.any fun j => match s.job j with
    | some b => b.slips.any fun x => x.kind = .maintenance n
    | none => false

/-- SLIP_END (R70, R72, R75): the length of a Squall or maintenance slip has passed; the next slip or schedule time goes
on. -/
def execSlipEnd (j : Nat) (s : State) : Host.Outcome State Fault Refusal :=
  match s.job j with
  | none => .next s
  | some b => match b.slips with
    | { kind := .squall, left := 0 } :: rest => .next (s.setJob j (some { b with slips := rest }))
    | { kind := .maintenance n, left := 0 } :: rest =>
      let s := s.setJob j (some { b with slips := rest })
      .next (s.modStack n fun k => { k with inWindow := s.windowOpen n })
    | _ => .next s

/-! ### Maintenance of a stack (R343 to R347, R645) -/

/-- Device-physical address of byte 0 of a row of stack `n`. -/
def rowAddr (n row : Nat) : Nat :=
  let a := row % 2 ^ 20 * 1024
  n * 2 ^ 36 + a / 512 * 2 ^ 15 + row / 2 ^ 20 * 512

/-- Sectors of a row: two runs of 16, for 1 KiB lies in two 512-byte pieces of its pseudo-channel. -/
def rowSectors (n row : Nat) : List Nat := upFrom (rowAddr n row / 32) 16 ++ upFrom ((rowAddr n row + 2 ^ 15) / 32) 16

/-- ROW_REPAIR (R344): every sector of a row read, corrected, and written into the spare row; uncorrectable ones stay
poisoned. -/
def State.repairRow (s : State) (n row : Nat) : State :=
  let s := (rowSectors n row).foldl (fun s i =>
    let x := s.hbm.sector i
    let s := if x.corrected then s.hbmCorrected (32 * i) false none else if x.bad then s.hbmBad (32 * i) none else s
    if x.corrected || x.bad then s.putSector .hbm i x.data x.poison (bit x.tag 6) else s) s
  s.modStack n fun k => { k with repairs := k.repairs.filter (· ≠ row) }

/-- Work on a stack (R344): retraining when the drift indicators require it, which may lose the stack; else repairs of at
most `rows` rows in the order listed. The pseudo-channel of a failed retraining is a live value. -/
def State.maintain (s : State) (n rows : Nat) (m : Maintenance) : State :=
  if (s.stack n).lost then s
  else if m.drift then (if m.trained then s else (s.used 1).loseStack n ((s.freeAt 6 0).toNat) 0)
  else
    let todo := (s.stack n).repairs.take rows
    let s := todo.foldl (fun s r => s.repairRow n r) s
    if todo.isEmpty then s else s.modStack n fun k => { k with spares := m.spares }

/-- MAINTENANCE_WINDOW (R343 to R347): at a window's tick the slip begins on the units of every job that maps a page of the
stack, on whichever of its devices, and the stack is retrained or repaired. -/
def execMaintenanceWindow (j i : Nat) (m : Maintenance) (s : State) : Host.Outcome State Fault Refusal :=
  match s.job j with
  | none => .next s
  | some b => match (s.jobImage b).bind fun img => img.windows[i]? with
    | none => .next s
    | some w =>
      if !b.inStep || b.stick ≠ w.tick || b.slips.any (fun x => x.kind = .maintenance w.stack) then .next s
      else
        let own := match s.jobImage b with
          | some img => if img.hbmStacks.contains w.stack then [j] else []
          | none => []
        let js := (s.heldJobs.filter fun k => own.contains k || m.far.contains k || s.mapsStack (partOf k) w.stack).filter fun k =>
          match s.job k with
          | some b => b.onUnits
          | none => false
        let s := js.foldl (fun s k => s.addSlip k (.maintenance w.stack) w.length) s
        let s := s.modStack w.stack fun k => { k with inWindow := true }
        .next (s.maintain w.stack (w.length / 20000) m)

/-- RETRAIN_WITHOUT_WINDOW (R345): a stack that no job maps is retrained, or its listed rows repaired. -/
def execRetrainWithoutWindow (n : Nat) (m : Maintenance) (s : State) : Host.Outcome State Fault Refusal :=
  if 12 ≤ n then .refused .noSuchUnit
  else if !(s.jobsOnStack n).isEmpty then .next s
  else .next (s.maintain n (s.stack n).repairs.length m)

/-- Sectors of a stack. -/
def stackSectors : Nat := 2 ^ 31

/-- Ticks of wall time in an hour. -/
def hourTicks : Nat := 3600 * 100000000

/-- Wall time by which the scrubbers pace their passes: it stands still in Quiet (R339, R607). -/
def State.paceTime (s : State) : Nat := s.tick - s.quietTicks

/-- SCRUB_ACCESS (R336 to R340, R345, R346): the scrubber of a stack reads the oldest sector of the correction queue, or
the next of its pass, and rewrites one that was corrected or is uncorrectable. `seen` is what the stack
reports with the access. In Quiet it stands still (R607). -/
def execScrubAccess (n : Nat) (seen : ScrubSeen) (s : State) : Host.Outcome State Fault Refusal :=
  if 12 ≤ n then .refused .noSuchUnit
  else
    let k := s.stack n
    if k.lost || k.selfRefresh || s.quiet then .next s
    else
      let i := match k.corrQ with
        | i :: _ => i
        | [] => n * stackSectors + k.scrubAt
      let x := s.hbm.sector i
      let s := if x.corrected then s.hbmCorrected (32 * i) false (some seen.spares)
        else if x.bad then s.hbmBad (32 * i) (some seen.spares) else s
      let s := if x.corrected || x.bad then s.putSector .hbm i x.data x.poison (bit x.tag 6) else s
      let s := s.modStack n fun k => { k with ondie := satN 16 (k.ondie + seen.reports) }
      .next (s.modStack n fun k =>
        match k.corrQ with
        | _ :: t => { k with corrQ := t }
        | [] =>
          if k.scrubAt + 1 < stackSectors then { k with scrubAt := k.scrubAt + 1 }
          else
            let late := decide (bf s.hbmCtl 15 8 * hourTicks < s.paceTime - k.passStart)
            { k with scrubAt := 0, passStart := s.paceTime, passes := satN 32 (k.passes + 1), rowHits := [], lateFlag := k.lateFlag || late })

end Sys2Proof.Machine
end

