-- ==== Sys2Proof/Machine/Convert.lean ====
section
/-!
DEFINITION. Conversion instructions, class 0x3 (R114 to R117, R220, R221, R650): latency C, pipe 0, lane-wise,
layout CV.
-/

namespace Sys2Proof.Machine

open Sys2Proof

/-- Fields of layout CV (R209). -/
def fFrom (w : IWord) : Nat := bf w 19 16
def fTo (w : IWord) : Nat := bf w 15 12
def fSat (w : IWord) : Bool := bit w 11
def fRtz (w : IWord) : Bool := bit w 10

/-- Reserved fields of layout CV that are 0, SRC2 of `n2` registers (1 where it is not used). -/
def lowCV (w : IWord) (n2 : Nat) : Bool :=
  fCond w = 0 && fMod w = 0 && decide (fSrc2 w < n2) && fSrc3 w = 0 && bf w 9 0 = 0

/-- CV_CVT (R114 to R117): each active lane converted from FROM to TO, two different formats; RTZ only for an
integer target. -/
def execCvCvt (c g : Nat) (w : IWord) (s : State) : Host.Outcome State Fault Refusal :=
  let src := (elemOf (fFrom w)).getD (.int 32)
  let dst := (elemOf (fTo w)).getD (.int 32)
  s.issue c g 0 (lowCV w 1 && decide (fFrom w < 8) && decide (fTo w < 8) && fFrom w ≠ fTo w && (!fRtz w || decide (5 ≤ fTo w)))
      [fSrc1 w] [fDst w] fun s =>
    floatResult c g w [fSrc1 w] (fun x i =>
      let a := x.vlane (fSrc1 w) i
      (convertLane src dst (fSat w) (fRtz w) a.val.toNat, a.poison)) s

/-- An array block code of cv.enc and cv.dec: 0x4 to 0xA (R134). -/
def blockCode (n : Nat) : Bool := decide (4 ≤ n) && decide (n ≤ 10)

/-- The block that cv.enc makes of 32 values (R109, R115, R220). -/
def encodeBlock (code : Nat) (sat : Bool) (xs : List FVal) : BlockRes :=
  match mxGrid code with
  | some gr => encodeMx code gr sat xs
  | none => encodeP4 sat xs

/-- CV_ENC (R220, R650): the 32 lanes as one block; the plane goes to the active lanes of 0 to B/4 - 1 of vd and 0 to the
other active lanes (R169, R212), the scale or header byte to scalar SRC2. -/
def execCvEnc (c g : Nat) (w : IWord) (s : State) : Host.Outcome State Fault Refusal :=
  s.issue c g 0 (lowCV w 32 && decide (fFrom w < 3) && blockCode (fTo w) && !fRtz w) [fSrc1 w] [fDst w] fun s =>
    let x := s.grp c g
    let act := x.active (fGuard w)
    let src := (elemOf (fFrom w)).getD (.flt fp32)
    let xs := (List.range 32).map fun i => if bit act i then src.value (x.vlane (fSrc1 w) i).val.toNat else .fin false 0 0
    let p := (lanesOf act).any fun i => (x.vlane (fSrc1 w) i).poison
    let r := encodeBlock (fTo w) (fSat w) xs
    let fl : FRes := { code := 0, nanMade := r.nanMade, clamped := r.clamped }
    .next (((s.setFlags c g fl.flags).seeIf c g p (sumN ((lanesOf act).map (poisonedIn x [fSrc1 w])))).modGrp c g fun y =>
      (y.setLanes (fDst w) (lanesOf act) fun i =>
        { val := BitVec.ofNat 32 (if i < planeBytes (fTo w) / 4 then r.plane / 2 ^ (32 * i) else 0), poison := p }).setSreg
          (fSrc2 w) { val := BitVec.ofNat 64 r.head, poison := p })

/-- CV_DEC (R221): each active lane i receives element i of the block in va and sb, as FP32 or bfloat16. The
value of an element of an invalid P4-32 block is open: poisoned (R104, log entry 4). DESIGN CHOICE (log entry 103): an MX element
beyond the range of the target gives an infinity and sets OVERFLOW, as R94's rounding does; R117 and R221 state no result. -/
def execCvDec (c g : Nat) (w : IWord) (s : State) : Host.Outcome State Fault Refusal :=
  s.issue c g 0 (lowCV w 32 && blockCode (fFrom w) && (fTo w = 0 || fTo w = 2) && !fSat w && !fRtz w) [fSrc1 w] [fDst w]
      fun s =>
    let x := s.grp c g
    let n := planeBytes (fFrom w) / 4
    let head := bf (x.sreg (fSrc2 w)).val 7 0
    let plane := packPlane 32 ((List.range n).map fun i => (x.vlane (fSrc1 w) i).val.toNat)
    let p := (x.sreg (fSrc2 w)).poison || (List.range n).any fun i => (x.vlane (fSrc1 w) i).poison
    let f := if fTo w = 0 then fp32 else bf16
    let bad := mxGrid (fFrom w) = none && decide (head % 128 = 127)
    let ls := lanesOf (x.active (fGuard w))
    let res (i : Nat) : FRes × Bool :=
      match decodeElem (fFrom w) head plane i with
      | some v => (f.result v false, p)
      | none => ({ code := (s.freeAt 32 i).toNat % (2 * f.signBit) }, true)
    let t := ((if bad then s.used 32 else s).setFlags c g (flagsOf (ls.map fun i => (res i).1))).seeIf c g (p && !ls.isEmpty)
      (b2n (x.sreg (fSrc2 w)).poison + sumN ((List.range n).map (poisonedIn x [fSrc1 w])))
    .next (t.modGrp c g fun y =>
      y.setLanes (fDst w) ls fun i => { val := BitVec.ofNat 32 (res i).1.code, poison := (res i).2 })

end Sys2Proof.Machine
end

