-- ==== Sys2Proof/Machine/Certs.lean ====
section
/-!
DEFINITION. Digests, derivations and certificates (R558 to R561), the check of a peer's chain (R581).
-/

namespace Sys2Proof.Machine

open Sys2Proof

/-- The bytes of an ASCII string, without terminator. -/
def ascii (t : String) : List Byte := t.toList.map fun c => BitVec.ofNat 8 c.toNat

/-- A digest (R558). -/
def digestOf (b : List Byte) : List Byte := Config.shake256 b 64
def digestBytes (d : BitVec 512) : List Byte := leBytes 64 d.toNat
def digestWord (b : List Byte) : BitVec 512 := BitVec.ofNat 512 (fromLe b)

/-- A derivation of a key (R558). -/
def derive_ (domain : String) (inputs : List Byte) (n : Nat) : List Byte := padTo n (Config.shake256 (ascii domain ++ inputs) n)

/-! ### Images (R568) -/

/-- The bytes of an image that its signature covers, without the domain string: all but the signature, its last 1,280. -/
def imageCovered (image : List Byte) : List Byte := image.take (image.length - 1280)

/-- Whether the signature that ends an image verifies under a key. -/
def imageSignedBy (key image : List Byte) : Bool :=
  decide (1280 ≤ image.length) && Config.falconVerify key (ascii "TVF-IMAGE" ++ imageCovered image) (image.drop (image.length - 1280))

/-- Whether the signature of an image verifies under the key that it carries. -/
def imageSigned (image : List Byte) : Bool := imageSignedBy (Config.imageKey image) image

/-- Whether a firmware or scan image is signed by the product authority, whose certificate names the root digest in boot ROM. -/
def firmwareSigned (image : List Byte) : Bool := imageSignedBy (padTo 1793 Config.authorityKey) image

/-! ### The module's keys (R556, R559) -/

/-- Digest of a firmware image, over the bytes that its signature covers (R559). -/
def firmwareDigestOf (image : List Byte) : List Byte := padTo 64 (digestOf (imageCovered image))

/-- The 32-byte identity secret that the helper data in NVM gives (R556). -/
def secretOf (helper : List Byte) : List Byte := padTo 32 (Config.pufSecret helper)

/-- The seeds of the identity key, of the KEM key (`d ‖ z`) and of the attestation key under a firmware image (R559). -/
def identitySeed (secret : List Byte) : List Byte := derive_ "TVF-ID" secret 64
def kemSeed (secret : List Byte) : List Byte := derive_ "TVF-KEM" secret 64
def attestSeed (secret firmware : List Byte) : List Byte := derive_ "TVF-ATT" (secret ++ firmwareDigestOf firmware) 64

/-- DEVICE_ID: the digest of the identity public key (R559). -/
def deviceIdOf (secret : List Byte) : BitVec 512 := digestWord (digestOf (padTo 1793 (Config.falconKey (identitySeed secret))))

/-! ### Certificates (R560) -/

/-- Bytes 0 to 159 + KEY_LEN - 1 of a certificate. -/
def certBody (kind : Nat) (key issuer binding : List Byte) : List Byte :=
  [BitVec.ofNat 8 kind, 1] ++ leBytes 2 key.length ++ leBytes 4 0 ++ leBytes 8 (Config.certSerial kind key).toNat ++
    padTo 64 issuer ++ padTo 64 binding ++ leBytes 16 0 ++ key

/-- A certificate: its body and the issuer's signature over it. -/
def certOf (sign : List Byte → List Byte) (body : List Byte) : List Byte := body ++ padTo 1280 (sign (ascii "TVF-CERT" ++ body))

/-- The module's certificates (R559, R561). -/
def authorityCert : List Byte := certOf Config.rootSign (certBody 2 (padTo 1793 Config.authorityKey) Config.rootDigest [])
def identityCert (secret : List Byte) : List Byte :=
  certOf Config.authoritySign (certBody 3 (padTo 1793 (Config.falconKey (identitySeed secret))) (digestOf (padTo 1793 Config.authorityKey)) [])
def attestationCert (secret firmware : List Byte) : List Byte :=
  certOf (Config.falconSign (identitySeed secret))
    (certBody 4 (padTo 1793 (Config.falconKey (attestSeed secret firmware))) (digestBytes (deviceIdOf secret)) (firmwareDigestOf firmware))
def kemCert (secret : List Byte) : List Byte :=
  certOf (Config.falconSign (identitySeed secret)) (certBody 5 (padTo 1568 (Config.kemKey (kemSeed secret))) (digestBytes (deviceIdOf secret)) [])

/-- The public key that a certificate carries. -/
def certKey (c : List Byte) : List Byte := (c.drop 160).take (fromLe ((c.drop 2).take 2))

/-- A certificate of a KIND that the holder of a key issued: its fields, and the signature. -/
def certOk (c : List Byte) (kind len : Nat) (issuer : List Byte) : Bool :=
  let body := c.take (160 + len)
  c.length = 1440 + len && c.take 2 = [BitVec.ofNat 8 kind, 1] && fromLe ((c.drop 2).take 2) = len && fromLe ((c.drop 4).take 4) = 0 &&
    (c.drop 16).take 64 = digestOf issuer && (kind = 4 || fromLe ((c.drop 80).take 64) = 0) && fromLe ((c.drop 144).take 16) = 0 &&
    Config.falconVerify issuer (ascii "TVF-CERT" ++ body) (c.drop (160 + len))

/-! ### A peer's certificates (R581) -/

/-- What an end sends: its identity, attestation and KEM certificates. -/
def ownChain (secret firmware : List Byte) : List Byte := identityCert secret ++ attestationCert secret firmware ++ kemCert secret

/-- The three certificates that a peer sent. -/
def chainParts (b : List Byte) : List Byte × List Byte × List Byte :=
  (b.take 3233, (b.drop 3233).take 3233, (b.drop 6466).take 3008)

/-- Whether a peer's certificates chain to the root digest in boot ROM, through the product authority's certificate, and name the
device that the fabric description lists. -/
def chainOk (b : List Byte) (id : BitVec 512) : Bool :=
  let (c, a, k) := chainParts b
  (authorityCert.drop 16).take 64 = Config.rootDigest && certOk c 3 1793 (certKey authorityCert) &&
    digestOf (certKey c) = digestBytes id && certOk a 4 1793 (certKey c) && certOk k 5 1568 (certKey c)

end Sys2Proof.Machine
end

