-- ==== Sys2Proof/Machine/Host.lean ====
section
/-!
DEFINITION. How a host command starts and is checked (R17, R463 to R466, R479, R580, R607, R648), and what its meaning
answers with.
-/

namespace Sys2Proof

open Sys2Proof.Machine

/-- Parameter word `i`; words from LEN read 0 (R464). -/
def Cmd.par (k : Cmd) (i : Nat) : Word64 :=
  if k.len ≤ i then 0
  else match i with
  | 0 => k.p0
  | 1 => k.p1
  | 2 => k.p2
  | 3 => k.p3
  | 4 => k.p4
  | _ => k.p5

/-- Whether parameter words from `i` on are 0. -/
def Cmd.zeroFrom (k : Cmd) (i : Nat) : Bool := (upFrom i (6 - i)).all fun j => k.par j = 0

/-- A UNIT parameter in the low half of word `i`. -/
def Cmd.unitAt (k : Cmd) (i : Nat) : Word32 := BitVec.ofNat 32 (bf (k.par i) 31 0)

/-- Fields of a parameter word that are reserved from bit `lo` up are 0. -/
def Cmd.topZero (k : Cmd) (i lo : Nat) : Bool := decide ((k.par i).toNat < 2 ^ lo)

end Sys2Proof

namespace Sys2Proof.Machine

open Sys2Proof

/-- A row of the opcode table (R470): opcode, generation, PF, device; whether firmware runs it; whether it reads or
writes HBM or Deck or starts work on a cluster (R607). -/
structure OpRow where
  op : Nat
  gen : Nat
  pf : Bool := false
  dev : Bool := false
  fw : Bool := true
  mem : Bool := false
deriving DecidableEq, Repr

/-- What a command's meaning answers: its completion now, or the state in which it stays outstanding. -/
inductive Reply where
  | done (s : State) (a : Answer)
  | later (s : State)

/-- A refusal that changes nothing. -/
def refuse (s : State) (status : Nat) : Reply := .done s { status := status }

/-- Function of a command's queue. -/
def State.cmdFn (s : State) (k : Cmd) : Nat := (s.queue k.queue).fn

/-- Whether the reserved header fields of a packet are 0 and no header field holds a reserved value (R463, R465). -/
def headerOk (k : Cmd) (row : OpRow) : Bool :=
  decide (k.len ≤ 6) && !bit k.hdr 96 &&
    (match k.gen with
    | 1 => bf k.hdr 106 97 = 0 && bf k.hdr 63 32 = 0
    | 2 => bf k.hdr 63 32 = 0 && (decide (bf k.hdr 102 99 < 8) || bf k.hdr 102 99 = 15) && (!row.dev || bf k.hdr 106 103 = 0)
    | _ => (decide (bf k.hdr 102 99 < 8) || bf k.hdr 102 99 = 15) && (!row.dev || bf k.hdr 106 103 = 0))

/-- R450: whether a virtual function may send the command. -/
def State.functionMay (s : State) (k : Cmd) (row : OpRow) : Bool :=
  s.cmdFn k = 0 || (!row.pf && (row.dev || s.cmdPart k + 1 = s.cmdFn k))

/-- Opcodes of the hardware path. -/
def hwOpcode (op : BitVec 16) : Bool := op = 0x0000 || op = 0x0002 || op = 0x0300 || op = 0x0301

/-- Whether an accepted command must still wait (R463, R479): a fenced one for every earlier command of its queue, a
firmware command for every earlier one to start. -/
def State.mustWait (s : State) (k : Cmd) : Bool :=
  let q := s.queue k.queue
  if !q.accepted.contains k then false
  else
    let before := q.accepted.takeWhile (· ≠ k)
    let later := (q.took.map (·.1)).dropWhile (· ≠ k)
    (k.fence && (!before.isEmpty || q.running.any fun x => !later.contains x)) ||
      (!hwOpcode k.opcode && before.any fun x => !hwOpcode x.opcode)

/-- A command started: taken from those accepted; one that no fetch brought counts as accepted now. -/
def State.takeCmd (s : State) (k : Cmd) : State :=
  s.modQueue k.queue fun q =>
    if q.st = .absent && !q.accepted.contains k then q
    else { q with accepted := q.accepted.erase k, running := q.running ++ [k] }

/-- Tick at which a command was accepted (R462). -/
def State.acceptTick (s : State) (k : Cmd) : Nat :=
  match (s.queue k.queue).took.find? fun x => x.1 = k with
  | some x => x.2
  | none => s.tick

/-- Whether the module is powered and its reference valid; without both it answers nothing (R597). -/
def State.on (s : State) : Bool := s.powered && s.refOk

/-- COMMAND_START (R591). -/
def State.traceStart (s : State) (k : Cmd) : State :=
  s.trace { part := s.cmdPart k, unit := devRef s.device, type := 0x01, cls := 2, op := k.operator.toNat, layer := k.layer.toNat,
            payload := k.opcode.toNat * 2 ^ 48 + k.seq.toNat }

/-- A debug access of some partitions (R565, R566). -/
def State.debugAccess (s : State) (ps : List Nat) : State :=
  let s := ps.foldl (fun s p => s.modPart p fun q => { q with dbg := satN 64 (q.dbg + 1) }) s
  { s with dbgCount := satN 40 (s.dbgCount + 1) }

/-- Opcodes that a module without keys refuses (R557). -/
def needsKeys (op : Nat) : Bool := op / 256 = 5 || op = 0x0400 || op = 0x0303 || op = 0x0704

/-- The first of the module's own conditions that a command fails: recovery (R623), missing keys (R557), failure of the
module (R447), a partition whose scrub runs (R580), Quiet (R607). -/
def State.moduleCheck (s : State) (k : Cmd) (row : OpRow) : Option Nat :=
  firstFail
    [(!s.recovery || row.op = 0x0000 || row.op = 0x0704, Status.deviceFailed),
     (s.idOk || !needsKeys row.op, Status.deviceFailed), (!(s.failedAll && row.mem), Status.deviceFailed),
     (row.dev || !(s.part (s.cmdPart k)).scrub, Status.partitionBusy),
     (!(s.quiet && row.mem), Status.partitionBusy)]

/-- A command completed by its own meaning: a launch's queue counts it (R524). -/
def State.completeCmd (s : State) (k : Cmd) (a : Answer) : State :=
  (if k.opcode = 0x0300 then s.countDone k (a.status = Status.success) else s).complete k a

/-- A launch counted as its queue accepts it (R524). -/
def State.countSubmit (s : State) (k : Cmd) : State :=
  if k.opcode = 0x0300 then s.modQueue k.queue fun h => { h with submitted := satN 64 (h.submitted + 1) } else s

/-- Cores of a resolved set or a unit, as (device, device-wide core) (R38). -/
def State.unitCores (s : State) : UnitName → List (Nat × Nat)
  | .core d c => [(d, c)]
  | .cluster d cl => (upFrom (8 * cl) 8).map fun c => (d, c)
  | .device d => (List.range 384).map fun c => (d, c)
  | .group n => (s.groupE n).cores
  | .reserved => []

/-- Device-wide indices of those of some cores that lie on this device. -/
def State.here (s : State) (l : List (Nat × Nat)) : List Nat := (l.filter fun x => x.1 = s.device).map (·.2)

/-- Clusters that hold one of some cores, in ascending order. -/
def clustersHolding (cs : List Nat) : List Nat := (List.range 48).filter fun cl => cs.any fun c => c / 8 = cl

/-- The partitions that a command of opcode group 0x06 touches (R565): those of the clusters that its UNIT reaches, every one when it
names the device, that of the core under test, else the header's. -/
def State.debugParts (s : State) (k : Cmd) : List Nat :=
  let at_ (cs : List Nat) : List Nat := (List.range 16).filter fun p => (clustersHolding cs).any fun cl => s.clusterPart cl = some p
  let op := k.opcode.toNat
  if op = 0x0604 then at_ [bf (k.par 0) 8 0]
  else if op < 0x0602 || 0x0605 < op then [s.cmdPart k]
  else match unitOf (k.unitAt 0) with
  | .device _ => List.range 16
  | u => if op = 0x0605 then [s.cmdPart k] else at_ (s.here (s.unitCores u))

/-- Every command of opcode group 0x06 that its queue accepted is a debug access, counted before it acts (R565, R566). -/
def State.countDebug (s : State) (k : Cmd) : State := if k.opcode.toNat / 256 = 6 then s.debugAccess (s.debugParts k) else s

/-- A host command: the checks of R466 in their order (`unit` says whether R648 allows its UNIT, `params` whether its
parameters carry no reserved value), the module's own conditions, and its meaning. -/
def State.runCmd (s : State) (k : Cmd) (row : OpRow) (unit params : Bool) (body : State → Reply) :
    Host.Outcome State Fault Refusal :=
  if k.opcode.toNat ≠ row.op || !s.on then .next s
  else if s.mustWait k then .next s
  else
    let s := if (s.queue k.queue).accepted.contains k then s else s.countSubmit k
    let s := ((s.takeCmd k).traceStart k).countDebug k
    match firstFail
      [(decide (k.gen ≠ 0), Status.invalidParameter), (decide (row.gen ≤ k.gen), Status.invalidOpcode),
       (headerOk k row, Status.invalidParameter), (s.functionMay k row && unit, Status.notPermitted),
       (params, Status.invalidParameter)] with
    | some st => .next (s.completeCmd k { status := st })
    | none => match s.moduleCheck k row with
      | some st => .next (s.completeCmd k { status := st })
      | none => match body s with
        | .done t a => .next (t.completeCmd k a)
        | .later t => .next t

/-- A reply of bytes into a host buffer of `len` bytes (R473). -/
def State.replyBytes (s : State) (addr len : Nat) (b : List Byte) (a : Answer) : Reply :=
  if len < b.length then .done s { status := Status.invalidParameter, result := b.length }
  else .done (s.hostWrite addr b) { a with paths := 1 }

/-- A host bus address parameter is aligned to 32 bytes. -/
def aligned32 (w : Word64) : Bool := w.toNat % 32 = 0

end Sys2Proof.Machine
end

