-- ==== Sys2Proof/Machine/HostQueue.lean ====
section
/-!
DEFINITION. Queues and rings (R456 to R462, R467, R468): doorbells, slot fetch, completions, admin queues, NOP,
QUEUE_CONTROL.
-/

namespace Sys2Proof.Machine

open Sys2Proof

/-! ### CRC-32C (R463; Castagnoli, as in RFC 3720) -/

/-- One bit of the reflected division. -/
def crcBit (r : Word32) : Word32 := if bit r 0 then (r >>> 1) ^^^ 0x82F63B78 else r >>> 1

/-- One byte. -/
def crcByte (r : Word32) (b : Byte) : Word32 := (List.range 8).foldl (fun r _ => crcBit r) (r ^^^ b.zeroExtend 32)

/-- CRC-32C of a message. -/
def crc32c (m : List Byte) : Word32 := ~~~(m.foldl crcByte 0xFFFFFFFF)

/-! ### Slots -/

/-- The packet of a slot. -/
def packetOf (q : Nat) (slot : BitVec 512) : Cmd :=
  let w (i : Nat) : Word64 := BitVec.ofNat 64 (bf slot (128 + 64 * i + 63) (128 + 64 * i))
  { queue := q, hdr := BitVec.ofNat 128 (bf slot 127 0), p0 := w 0, p1 := w 1, p2 := w 2, p3 := w 3, p4 := w 4, p5 := w 5 }

/-- R461: the CRC of bytes 4 to 63 and the sequence number. -/
def slotValid (h : HQueue) (slot : BitVec 512) : Bool :=
  (crc32c ((leBytes 64 slot.toNat).drop 4)).toNat = bf slot 31 0 && (packetOf 0 slot).seq = h.expect

/-- Opcodes of the table (R470). -/
def opcodes : List Nat :=
  upFrom 0x0000 9 ++ upFrom 0x0100 9 ++ upFrom 0x0200 13 ++ upFrom 0x0300 12 ++ upFrom 0x0400 4 ++ upFrom 0x0500 7 ++
    upFrom 0x0600 6 ++ upFrom 0x0700 5

/-- An entry that the module itself posts on a queue: STALE_SLOT or QUEUE_STATE (R460, R461). -/
def queueEntry (h : HQueue) (status count : Nat) : Completion :=
  { opcode := 0, seq := h.expect, status := BitVec.ofNat 16 status, result := 0, count := BitVec.ofNat 32 count, unit := 0,
    jobNumber := 0, job := 0xF, recType := 0, more := false, paths := 0, payload := none, noint := false }

/-- A queue stopped with a cause. -/
def HQueue.stop (h : HQueue) (cause : Nat) : HQueue := { h with st := .stopped, cause := cause, refetch := 0 }

/-- A tail taken over by a running queue, or the stop for one that lies beyond the ring (R460). -/
def HQueue.tailTo (h : HQueue) (tail count : Nat) : HQueue :=
  if ringSlots h.sq ≤ tail then { h.stop 3 with done := h.done ++ [queueEntry h Status.queueState count] }
  else { h with tail := tail }

/-- Whether a doorbell page is live: a virtual function's BAR0 reaches those of the queues bound to its partition (R451). -/
def State.pageLive (s : State) (b : Doorbell) : Bool :=
  (s.queue b.queue).st ≠ .absent && (b.fn = 0 || (s.queue b.queue).part + 1 = b.fn)

/-- SQ_TAIL (R460). -/
def execSqTail (b : Doorbell) (v : Word32) (s : State) : Host.Outcome State Fault Refusal :=
  if 1024 ≤ b.queue ∨ 17 ≤ b.fn then .refused .noSuchUnit
  else if !s.pageLive b then .next s
  else
    let q := b.queue
    let h := s.queue q
    let t := bf v 15 0
    match h.st with
    | .absent => .next s
    | .stopped => .next (s.modQueue q fun h => { h with tail := t })
    | .running => if t = h.tail then .next s else .next (s.modQueue q fun h => h.tailTo t v.toNat)

/-- CQ_HEAD (R467). -/
def execCqHead (b : Doorbell) (v : Word32) (s : State) : Host.Outcome State Fault Refusal :=
  if 1024 ≤ b.queue ∨ 17 ≤ b.fn then .refused .noSuchUnit
  else if !s.pageLive b then .next s
  else .next (s.modQueue b.queue fun h => { h with cqHead := bf v 15 0 })

/-- Whether the module fetches on a queue: it runs, a slot is available, and the firmware serves it (R460, R622,
R623). -/
def State.fetches (s : State) (q : Nat) : Bool :=
  let h := s.queue q
  h.st = .running && h.head ≠ h.tail && s.ready && (!s.recovery || q = 0)

/-- A valid slot accepted (R462); a packet that no opcode row serves completes at once (R466). -/
def State.acceptSlot (s : State) (q : Nat) (slot : BitVec 512) : State :=
  let k := packetOf q slot
  let s := s.modQueue q fun h =>
    { h with head := (h.head + 1) % max (ringSlots h.sq) 1, expect := h.expect + 1, refetch := 0, took := h.took ++ [(k, s.tick)],
             accepted := h.accepted ++ [k] }
  let s := s.countSubmit k
  if opcodes.contains k.opcode.toNat then s
  else
    let s := (s.countDebug k).modQueue q fun h => { h with accepted := h.accepted.erase k, running := h.running ++ [k] }
    s.complete k { status := if k.gen = 0 then Status.invalidParameter else Status.invalidOpcode }

/-- Whether HBM answers at a device-physical address: not in the reserved range, the table area or a lost stack (R326, R352,
R452). -/
def State.bar2Live (s : State) (a : Nat) : Bool :=
  decide (a < 12 * 2 ^ 36) && (decide (a < 0x0FC0000000) || decide (0x1000000000 ≤ a)) && !(s.stack (stackOf a)).lost

/-- The slot that a fetch returns: host memory's, or for a LOCAL ring what HBM holds at the head (R457); none when HBM does not answer
there or answers with poison. -/
def State.slotBits (s : State) (q : Nat) (slot : BitVec 512) : Option (BitVec 512) × State :=
  let h := s.queue q
  if !bit h.sq 11 then (some slot, s)
  else
    let a := ringBase h.sq + 64 * h.head
    if !s.bar2Live a then (none, s)
    else
      let (b, bad, s) := s.readBytes .hbm a 64
      (if bad then none else some (BitVec.ofNat 512 (fromLe b)), s)

/-- A queue whose ring cannot be read: it stops with STOP_CAUSE 0x04 (log entry 116). -/
def State.ringFailed (s : State) (q : Nat) : State := s.modQueue q fun h => h.stop 4

/-- SLOT_FETCH (R457, R461, R462): a fetched slot returns. -/
def execSlotFetch (q : Nat) (slot : BitVec 512) (s : State) : Host.Outcome State Fault Refusal :=
  if 1024 ≤ q then .refused .noSuchUnit
  else if !s.fetches q || (s.queue q).refetch ≠ 0 then .next s
  else match s.slotBits q slot with
  | (none, s) => .next (s.ringFailed q)
  | (some slot, s) =>
  if slotValid (s.queue q) slot then .next (s.acceptSlot q slot)
  else .next (s.modQueue q fun h => { h with refetch := 1, fetchTick := s.tick })

/-- SLOT_REFETCH (R461): one of the eight re-fetches returns, 100 ticks or more after the fetch before it; after the last the
queue stops as stale. -/
def execSlotRefetch (q : Nat) (slot : BitVec 512) (s : State) : Host.Outcome State Fault Refusal :=
  if 1024 ≤ q then .refused .noSuchUnit
  else if !s.fetches q || (s.queue q).refetch = 0 || decide (s.tick < (s.queue q).fetchTick + 100) then .next s
  else match s.slotBits q slot with
  | (none, s) => .next (s.ringFailed q)
  | (some slot, s) =>
  if slotValid (s.queue q) slot then .next (s.acceptSlot q slot)
  else .next (s.modQueue q fun h =>
    if h.refetch < 8 then { h with refetch := h.refetch + 1, fetchTick := s.tick }
    else { h.stop 2 with done := h.done ++ [queueEntry h Status.staleSlot h.head] })

/-! ### Completions -/

/-- The 32 bytes of an entry. -/
def Completion.bytes (e : Completion) (phase : Bool) (q : Nat) : List Byte :=
  let payload := match e.payload with
    | some p => p.toNat
    | none => e.unit.toNat * 2 ^ 96 + e.count.toNat * 2 ^ 64 + e.result.toNat
  leBytes 32 (b2n phase * 2 ^ 255 + q * 2 ^ 245 + e.paths.toNat * 2 ^ 240 + e.recType.toNat * 2 ^ 236 + b2n e.more * 2 ^ 235 +
    e.job.toNat * 2 ^ 224 + e.jobNumber.toNat * 2 ^ 192 + payload * 2 ^ 64 + e.seq.toNat * 2 ^ 32 + e.opcode.toNat * 2 ^ 16 +
    e.status.toNat)

/-- Whether a completion ring is full: its next slot is not released. -/
def HQueue.ringFull (h : HQueue) : Bool := (h.cqTail + 1) % max (ringSlots h.cq) 1 = h.cqHead % max (ringSlots h.cq) 1

/-- The oldest completion that a queue holds written to its ring, and its vector signalled; nothing while the ring is full. -/
def State.postOne (s : State) (q : Nat) : State :=
  let h := s.queue q
  match h.done with
  | [] => s
  | e :: rest =>
    if h.st = .absent || ringSlots h.cq = 0 || h.ringFull then s
    else
      let s := s.hostWrite (ringBase h.cq + 32 * h.cqTail) (e.bytes h.phase q)
      let next := (h.cqTail + 1) % ringSlots h.cq
      let s := s.modQueue q fun h => { h with done := rest, cqTail := next, phase := if next = 0 then !h.phase else h.phase }
      if e.noint then s else s.signal h.fn h.vector

/-- COMPLETION_POST (R467, R468). -/
def execCompletionPost (q : Nat) (s : State) : Host.Outcome State Fault Refusal :=
  if 1024 ≤ q then .refused .noSuchUnit else .next (s.postOne q)

/-! ### Admin queues (R458) -/

/-- A ring word with its reserved bits 0; `sq` keeps LOCAL (R15, R457). -/
def ringWord (v : Word64) (sq : Bool) : Word64 := v &&& (if sq then 0xFFFFFFFFFFFFF81F else 0xFFFFFFFFFFFFF01F)

/-- A queue as it starts: both rings at slot 0, its counters 0 (R458, R459, R524). What it accepted before runs on. -/
def HQueue.begin_ (h : HQueue) (tick fn part : Nat) (sq cq : Word64) (vector : Nat) (seq : Word32) : HQueue :=
  { HQueue.reset with st := .running, fn := fn, part := part, expect := seq, sq := sq, cq := cq, vector := vector,
                      took := h.took, accepted := h.accepted, running := h.running, orphans := h.orphans, done := h.done,
                      before := some (tick, [h.submitted, h.started, h.completed, h.aborted, h.preempted]) }

def State.adminOf (s : State) (f : Nat) : AdminRegs := NMap.get s.admin f AdminRegs.reset
def State.setAdmin (s : State) (f : Nat) (a : AdminRegs) : State := { s with admin := NMap.set s.admin f a AdminRegs.reset }

/-- Partition that function `f`'s admin queue is bound to (R449). -/
def adminPart (f : Nat) : Nat := f - 1

/-- HIF_AQ_CTRL_ENABLE (R458): starts queue f; the write is ignored while a ring word is unconfigured or the firmware is not ready. -/
def execHifAqCtrlEnable (f : Nat) (v : Word64) (s : State) : Host.Outcome State Fault Refusal :=
  if 17 ≤ f then .refused .noSuchUnit
  else if !bit v 0 || !s.on || (s.recovery && f ≠ 0) then .next s
  else
    let a := s.adminOf f
    if ringSlots a.sq = 0 || ringSlots a.cq = 0 then .next s
    else
      let s := s.setAdmin f { a with ctrl := v &&& 0xFFFFFFFFFFE00001 }
      .next (s.modQueue f fun h => h.begin_ s.tick f (adminPart f) a.sq a.cq (bf v 31 21) (BitVec.ofNat 32 (bf v 63 32)))

/-- HIF_AQ_CTRL_DISABLE (R458): the module stops fetching; accepted commands run on. -/
def execHifAqCtrlDisable (f : Nat) (v : Word64) (s : State) : Host.Outcome State Fault Refusal :=
  if 17 ≤ f then .refused .noSuchUnit
  else if bit v 0 || !s.on then .next s
  else
    let s := s.setAdmin f { s.adminOf f with ctrl := v &&& 0xFFFFFFFFFFE00000 }
    .next (s.modQueue f fun h => if h.st = .absent then h else h.stop 1)

/-! ### NOP and QUEUE_CONTROL -/

/-- NOP (R473). -/
def execNop (k : Cmd) (s : State) : Host.Outcome State Fault Refusal :=
  s.runCmd k { op := 0x0000, gen := 1, fw := false } true (k.zeroFrom 0) fun s => refuse s Status.success

/-- Fields of QUEUE_CONTROL. -/
def qcAction (k : Cmd) : Nat := bf (k.par 0) 63 56
def qcQueue (k : Cmd) : Nat := bf (k.par 0) 41 32
/-- Reserved values of a QUEUE_CONTROL that is no create: its create-only fields are not read. -/
def qcOk (k : Cmd) : Bool := bf (k.par 0) 55 42 = 0 && bf (k.par 3) 63 15 = 0 && k.zeroFrom 4

/-- Whether a ring word carries no reserved value; 0 slots are refused in a create. -/
def ringOk (v : Word64) (sq : Bool) : Bool :=
  v = ringWord v sq && decide (4 ≤ bf v 4 0) && decide (bf v 4 0 ≤ 16)

/-- Whether a queue exists for the issuing function. -/
def State.ownQueue (s : State) (k : Cmd) (q : Nat) : Bool := (s.queue q).st ≠ .absent && (s.queue q).fn = s.cmdFn k

/-- QUEUE_CONTROL, action create (R459), or a reserved action (R17). A queue of a virtual function is bound to its partition. -/
def execQueueControlCreate (k : Cmd) (s : State) : Host.Outcome State Fault Refusal :=
  if 2 ≤ qcAction k ∧ qcAction k ≤ 4 then .next s
  else
    let q := qcQueue k
    let fn := s.cmdFn k
    let ok := qcAction k = 1 && qcOk k && decide (17 ≤ q) && ringOk (k.par 1) true && ringOk (k.par 2) false && (fn = 0 || decide (bf (k.par 3) 14 4 < 64))
    s.runCmd k { op := 0x0002, gen := 1, fw := false } (fn = 0 || qcAction k ≠ 1 || bf (k.par 3) 3 0 + 1 = fn) ok fun s =>
      if (s.queue q).st ≠ .absent then refuse s Status.queueState
      else .done (s.modQueue q fun h => h.begin_ s.tick fn (bf (k.par 3) 3 0) (k.par 1) (k.par 2) (bf (k.par 3) 14 4)
        (BitVec.ofNat 32 (bf (k.par 0) 31 0))) { status := Status.success }

/-- Whether a queue has nothing more to complete but the command that destroys it: what it accepted has completed, every entry is in its
ring (R459). -/
def HQueue.drained (h : HQueue) (self : Option Cmd) : Bool :=
  h.running.all (fun x => some x = self) && h.accepted.isEmpty && h.done.isEmpty

/-- QUEUE_CONTROL, action destroy (R459): fetching stops; it completes after every accepted command of the queue. -/
def execQueueControlDestroy (k : Cmd) (s : State) : Host.Outcome State Fault Refusal :=
  if qcAction k ≠ 2 then .next s
  else
    let q := qcQueue k
    s.runCmd k { op := 0x0002, gen := 1, fw := false } true (qcOk k && decide (17 ≤ q)) fun s =>
      if !s.ownQueue k q || (s.queue q).destroying.isSome then refuse s Status.queueState
      else
        let s := s.modQueue q fun h => h.stop 1
        if (s.queue q).drained (some k) then
          .done ({ s with queues := NMap.erase s.queues q }) { status := Status.success }
        else .later (s.modQueue q fun h => { h with destroying := some k })

/-- QUEUE_CONTROL, action stop (R459). -/
def execQueueControlStop (k : Cmd) (s : State) : Host.Outcome State Fault Refusal :=
  if qcAction k ≠ 3 then .next s
  else
    s.runCmd k { op := 0x0002, gen := 1, fw := false } true (qcOk k) fun s =>
      if !s.ownQueue k (qcQueue k) then refuse s Status.queueState
      else .done (s.modQueue (qcQueue k) fun h => h.stop 1) { status := Status.success }

/-- QUEUE_CONTROL, action resume (R459, R460): fetching restarts at the stopped slot; a tail recorded meanwhile is acted
on. A queue that is being destroyed fetches no more (log entry 129). -/
def execQueueControlResume (k : Cmd) (s : State) : Host.Outcome State Fault Refusal :=
  if qcAction k ≠ 4 then .next s
  else
    s.runCmd k { op := 0x0002, gen := 1, fw := false } true (qcOk k) fun s =>
      if !s.ownQueue k (qcQueue k) || (s.queue (qcQueue k)).destroying.isSome then refuse s Status.queueState
      else .done (s.modQueue (qcQueue k) fun h => { h with st := .running, cause := 0 }.tailTo h.tail h.tail) { status := Status.success }

end Sys2Proof.Machine
end

