-- ==== Sys2Proof/Machine/Units.lean ====
section
/-!
DEFINITION. Which cores a command's UNIT reaches and when that refuses the command (R35, R36, R45, R51, R53, R54,
R57, R647, R648), and how a command asks for a two-phase mode change (R434, R440).
-/

namespace Sys2Proof.Machine

open Sys2Proof

/-! ### Units -/

/-- Whether a device number is part of the fabric (R34, R35). -/
def State.inFabric (s : State) (d : Nat) : Bool :=
  if s.assigned then s.fabric.devices.any (·.number = d) else d = 0

/-- R648 and R45: whether the units that a reference reaches here lie in partition `p`, and a group reached through a
device is not addressed by a virtual function. -/
def State.unitIn (s : State) (r : Word32) (p fn : Nat) : Bool :=
  (s.here (s.unitCores (unitOf r))).all (fun c => s.clusterPart (c / 8) = some p) &&
    (match unitOf r with
    | .group n => fn = 0 || !(s.groupE n).pfOnly
    | _ => true)

/-- Direct member groups of a group-table entry. -/
def GroupEntry.inner (e : GroupEntry) : List Nat :=
  e.members.filterMap fun m => match unitOf m with
    | .group n => some n
    | _ => none

/-- Whether group `n` is group `g` or nested in it, within `m` levels. -/
def State.nested (s : State) (n : Nat) : Nat → Nat → Bool
  | 0, g => g = n
  | m + 1, g => g = n || (s.groupE g).inner.any fun h => State.nested s n m h

/-- UNIT of a command in progress that names a group. -/
def targetGroup (r : Word32) : Option Nat :=
  match unitOf r with
  | .group g => some g
  | _ => none

/-- UNIT of the launch that a change carries. -/
def McContent.launchUnit : McContent → Option Word32
  | .launch _ _ _ _ u _ _ => some u
  | _ => none

/-- Units of the commands in progress that name a group: launches held, asked for as a mode change, prepared for another device's
mode change or queued in a batcher, lookups, ZERO_LINES whose work is queued, power changes that wait. -/
def State.targets (s : State) : List Word32 :=
  (s.heldJobs.filterMap fun j => (s.job j).map (·.unit)) ++
    (s.mcCoord.filterMap fun c => McContent.launchUnit c.content) ++
    ((s.mcPrep.filter fun p => p.coord ≠ s.device).filterMap fun p => p.content.bind McContent.launchUnit) ++
    s.parts.flatMap (fun p => p.2.batchQ.map fun b => BitVec.ofNat 32 (bf (b.cmd.par 1) 31 0)) ++
    (s.lookCmds.map fun k => BitVec.ofNat 32 (bf (k.cmd.par 1) 31 0)) ++
    ((s.hostWork.filter fun w => w.cmd.opcode = 0x0106).map fun w => w.cmd.unitAt 0) ++
    s.powerCmds.map fun k => k.2.unitAt 0

/-- OUTSTANDING of a group: commands in progress addressed to it directly or through an enclosing group. -/
def State.outstanding (s : State) (n : Nat) : Nat :=
  (s.targets.filter fun r => match targetGroup r with
    | some g => s.nested n (s.groupE g).depth g
    | none => false).length

/-- Removed cores among some, of this device. -/
def State.removedOf (s : State) (l : List (Nat × Nat)) : List Nat := (s.here l).filter fun c => (s.core c).removed

/-- The cores that a command's UNIT reaches, or the answer that refuses it: a device outside the fabric (R35), a group not
defined or resolving (R51), a unit of another device where the command acts on this one alone (R647), a removed core
(R36, R57). DESIGN CHOICE (log entry 99): a group defined nowhere answers INVALID_PARAMETER, and a removed core refuses a
reference that names it or a group that holds it, not one that names its cluster or device. -/
def State.resolve (s : State) (r : Word32) (locally : Bool) : Except Answer (List (Nat × Nat)) :=
  let u := unitOf r
  let dev := match u with
    | .core d _ => some d
    | .cluster d _ => some d
    | .device d => some d
    | _ => none
  let l := s.unitCores u
  let gone : List Nat := match u with
    | .core _ _ => s.removedOf l
    | .group _ => s.removedOf l
    | _ => []
  let st := match u with
    | .group n => (s.groupE n).st
    | _ => .defined
  let locked := match u with
    | .group n => s.lockedGroups.contains n
    | _ => false
  match firstFail
    [(decide (u ≠ .reserved), Status.invalidParameter), (dev.all fun d => s.inFabric d, Status.unitUnavailable),
     (!locked, Status.deviceFailed), (decide (st ≠ .free), Status.invalidParameter), (decide (st ≠ .resolving), Status.groupBusy),
     (!locally || l.all fun x => x.1 = s.device, Status.invalidParameter)] with
  | some st => .error { status := st }
  | none => match (sortBy id gone).head? with
    | some c => .error { status := Status.unitUnavailable, unit := coreRef s.device c, count := gone.length }
    | none => .ok l

/-! ### Two-phase mode changes (R434, R440) -/

/-- MC_REQUEST and MC_PREPARE (R416). -/
def mcToken (ty coord change kind : Nat) : Word64 := token ty (coord * 2 ^ 46 + change * 2 ^ 30 + kind * 2 ^ 24)

/-- WCET that the completion of a launch carries in RESULT, admitted or not (R85, R471); 0 for another change. -/
def State.contentResult (s : State) (c : McContent) : Nat :=
  match c with
  | .launch p d entry _ _ _ _ => ((s.images.findSome? fun x => match x.2 with
    | some l => if l.part = p && l.img.digest = d then some (l.img.wcets.getD entry 0) else none
    | none => none)).getD 0
  | _ => 0

/-- Some devices with those on their way to the root of the Ceiling tree, which combine and pass on what they send (R425, R426). -/
def State.withWay (s : State) (ds : List Nat) : List Nat :=
  if ds.all (· = s.device) then ds
  else (ds ++ (s.fabric.devices.map (·.number)).filter fun n => ds.any fun d => s.fabric.under n s.fabric.devices.length d).eraseDups

/-- Devices that a change involves (R41, R50, R55, R71, R517, R666): those of the group, those of the image with those on their way to
the Ceiling's root, every device of the fabric for a table, but for a failed one that
is replaced (R555). -/
def State.involved (s : State) (c : McContent) : List Nat :=
  let ofImage (p : Nat) (d : Option (BitVec 512)) (n : Option Nat) : List Nat :=
    (s.images.findSome? fun x => match x.2 with
      | some l => if l.part = p && (d = some l.img.digest || n = some x.1) then some (s.withWay l.img.devices) else none
      | none => none).getD []
  let ofJob (p : Nat) (n : Word32) : List Nat := ofImage p none ((s.partJobs p).findSome? fun j => match s.job j with
    | some b => if b.number = n then some b.image else none
    | none => none)
  match c with
  | .groupInstall _ home cores _ _ _ => (home :: cores.map (·.1)).eraseDups
  | .groupClear n => ((s.groupE n).home :: (s.groupE n).cores.map (·.1)).eraseDups
  | .launch p d _ _ _ _ _ => ofImage p (some d) none
  | .flip _ _ => s.fabric.devices.map (·.number)
  | .patchCommit _ => s.fabric.devices.map (·.number)
  | .preempt p n _ => ofJob p n
  | .resume p n => ofJob p n
  | .remap _ failed _ _ _ _ => (s.fabric.devices.map (·.number)).filter (· ≠ failed)

/-- Every command of a change completed with one answer; a launch's carries its WCET. -/
def State.answerAll (s : State) (c : McContent) (cmds : List Cmd) (a : Answer) : State :=
  cmds.foldl (fun s k => s.completeCmd k { a with result := if a.result = 0 then s.contentResult c else a.result }) s

/-- This device asks for a change (R434): it delivers the content to every other involved device; at the root the change joins
the root's queue, from elsewhere MC_REQUEST goes toward the root. With 64 changes queued the root is busy. While the root is
failed the commands end (R440). -/
def State.requestChange (s : State) (kind : Nat) (content : McContent) (cmds : List Cmd) : State :=
  if s.failedDevs.contains s.ceil.root then
    s.answerAll content cmds { status := Status.deviceFailed, unit := devRef s.ceil.root }
  else
    let n := s.mcNext
    let out := (s.involved content).filter (· ≠ s.device)
    let sent := out.map fun d => ({ dev := d, change := n, kind := kind, content := content } : McDelivery)
    let s : State := { s with mcNext := (n + 1) % 65536, mcOut := s.mcOut ++ sent }
    let coord (s : State) : State := { s with mcCoord := s.mcCoord ++ [{ change := n, kind := kind, content := content, cmds := cmds }] }
    if s.ceil.root = s.device then
      if 65 ≤ s.mcRoot.length then s.answerAll content cmds { status := Status.fabricBusy, unit := devRef s.ceil.root }
      else
        let s := coord s
        { s with mcRoot := s.mcRoot ++ [{ coord := s.device, change := n, kind := kind, content := some content, start := none }] }
    else (coord s).sendTokens s.ceil.parent .m [mcToken 0x08 s.device n kind]

end Sys2Proof.Machine
end

