-- ==== Sys2Proof/Machine/Groups.lean ====
section
/-!
DEFINITION. Unit groups (R38 to R53): GROUP_SET, GROUP_QUERY, GROUP_CLEAR.
-/

namespace Sys2Proof.Machine

open Sys2Proof

/-- The entry of group `n` in the fabric: this device's, or what its home device answers (`far`) where this device holds none. -/
def State.fabricGroup (s : State) (far : List (Nat × FarGroup)) (n : Nat) : GroupEntry :=
  if (s.groupE n).st ≠ .free then s.groupE n
  else match far.find? fun x => x.1 = n && x.2.home ≠ s.device with
    | some (_, f) =>
      { st := .defined, home := f.home, members := f.members, cores := f.cores, pfOnly := f.pfOnly, depth := f.depth, part := 0 }
    | none => GroupEntry.reset

/-- Depth of a group with some direct members (R43). -/
def State.depthOf (s : State) (far : List (Nat × FarGroup)) (ms : List Word32) : Nat :=
  (ms.map fun m => match unitOf m with
    | .group n => (s.fabricGroup far n).depth + 1
    | _ => 1).foldl max 1

/-- Resolved set of some direct members, each core once (R38, R39). -/
def State.resolved (s : State) (far : List (Nat × FarGroup)) (ms : List Word32) : List (Nat × Nat) :=
  (ms.flatMap fun m => match unitOf m with
    | .group n => (s.fabricGroup far n).cores
    | u => s.unitCores u).eraseDups

/-- Whether R45 applies to a group with some direct members. -/
def State.viaDevice (s : State) (far : List (Nat × FarGroup)) (ms : List Word32) : Bool :=
  ms.any fun m => match unitOf m with
    | .device _ => true
    | .group n => (s.fabricGroup far n).pfOnly
    | _ => false

/-- Entries in use of the group table (R41). -/
def State.groupCount (s : State) : Nat := (s.groups.filter fun x => x.2.st ≠ .free).length

/-- The one partition that holds some cores of this device (R44); 0 when there are none. -/
def State.onePart (s : State) (cs : List Nat) : Option Nat :=
  match cs with
  | [] => some 0
  | c :: t => match s.clusterPart (c / 8) with
    | none => none
    | some p => if t.all fun x => s.clusterPart (x / 8) = some p then some p else none

/-- A defined entry of group `n` (R40). Every device that holds one keeps the direct members, which R52 and R53 need; DIRECT and
the member list are the home's to answer. -/
def State.defineGroup (s : State) (n home : Nat) (cores : List (Nat × Nat)) (depth : Nat) (pf : Bool) (ms : List Word32) : State :=
  s.setGroupE n { st := .defined, home := home, members := ms, cores := cores, pfOnly := pf, depth := depth,
                  part := (s.onePart (s.here cores)).getD 0 }

/-- The first check of a GROUP_SET of group `n` that fails (R35, R36, R43, R46 to R49). DESIGN CHOICE (log entry 99): the order
of the checks is the model's; a number whose entry is resolving answers GROUP_EXISTS; a depth above 4,096 answers
INVALID_PARAMETER. -/
def State.groupSetFail (s : State) (far : List (Nat × FarGroup)) (n : Nat) (ms : List Word32) : Option Answer :=
  let e := s.fabricGroup far n
  let cores := s.resolved far ms
  let dev (m : Word32) : Bool := match unitOf m with
    | .core d _ => s.inFabric d
    | .cluster d _ => s.inFabric d
    | .device d => s.inFabric d
    | _ => true
  let undef (m : Word32) : Bool := match unitOf m with
    | .group g => (s.fabricGroup far g).st ≠ .defined
    | _ => false
  let gone := ms.flatMap fun m => match unitOf m with
    | .core d c => if d = s.device && (s.core c).removed then [c] else []
    | _ => []
  firstFail
    [(e.st = .free || e.home = s.device, ({ status := Status.notHome, unit := devRef e.home } : Answer)),
     (noDup ms && !ms.any (fun m => unitOf m = .reserved), { status := Status.invalidParameter }),
     (ms.all dev, { status := Status.unitUnavailable }),
     (gone.isEmpty, { status := Status.unitUnavailable, unit := coreRef s.device ((sortBy id gone).headD 0), count := gone.length }),
     (e.st = .free, { status := Status.groupExists }),
     (!ms.any undef, { status := Status.groupUndefined }),
     (decide (s.depthOf far ms ≤ 4096), { status := Status.invalidParameter }),
     (decide (s.groupCount < 4096), { status := Status.groupTableFull }),
     ((s.onePart (s.here cores)).isSome, { status := Status.invalidParameter })]

/-- GROUP_SET (R46 to R50). `g.far` is what other home devices answer about groups that have no entry here. Across devices the
entry resolves until its mode change is decided. DESIGN CHOICE (log entry 99): the device that receives the GROUP_SET of a number
defined nowhere is the new group's home. -/
def execGroupSet (g : GroupCmd) (s : State) : Host.Outcome State Fault Refusal :=
  let k := g.cmd
  let far := g.far
  let p := k.par 0
  let ok := bf p 63 42 = 0 && bf p 31 16 = 0 && bf p 15 0 ≠ 0xFFFF && aligned32 (k.par 1) && k.zeroFrom 2
  s.runCmd k { op := 0x0006, gen := 3, pf := true } true ok fun s =>
    let n := bf p 15 0
    let ms := (List.range (bf p 41 32 + 1)).map fun i => BitVec.ofNat 32 (fromLe (s.hostRead ((k.par 1).toNat + 4 * i) 4))
    match s.groupSetFail far n ms with
    | some a => .done s a
    | none =>
      let cores := s.resolved far ms
      let depth := s.depthOf far ms
      let pf := s.viaDevice far ms
      if s.lockedGroups.contains n then refuse s Status.deviceFailed
      else
        let s := s.defineGroup n s.device cores depth pf ms
        if cores.all fun x => x.1 = s.device then .done s { status := Status.success, result := depth }
        else
          let s := s.setGroupE n { s.groupE n with st := .resolving }
          let t := s.requestChange 0x01 (.groupInstall n s.device cores depth pf ms) [k]
          .later (if t.mcCoord.any fun c => c.cmds = [k] then t else t.setGroupE n GroupEntry.reset)

/-- Bytes of a group-table entry, with OUTSTANDING as it stands (chapter 01). -/
def State.groupBytes (s : State) (n : Nat) : List Byte :=
  let e := s.groupE n
  let mine := s.here e.cores
  let devs := (e.cores.map (·.1)).eraseDups
  let home := e.home = s.device
  let st := match e.st with
    | .free => 0
    | .defined => 1
    | .resolving => 2
  let hi := n * 2 ^ 48 + e.home * 2 ^ 38 + e.part * 2 ^ 34 + st * 2 ^ 32 + (if home then e.members.length else 0) * 2 ^ 21 +
    mine.length * 2 ^ 12 + devs.length * 2 + b2n e.pfOnly
  leBytes 16 (hi * 2 ^ 64 + s.outstanding n * 2 ^ 32 + e.depth * 2 ^ 16) ++
    leBytes 48 (sumN (mine.map (2 ^ ·))) ++ leBytes 128 (sumN (devs.map (2 ^ ·)))

/-- GROUP_QUERY (R473). -/
def execGroupQuery (k : Cmd) (s : State) : Host.Outcome State Fault Refusal :=
  let ok := k.topZero 0 16 && bf (k.par 0) 15 0 ≠ 0xFFFF && aligned32 (k.par 1) && k.topZero 2 32 && k.zeroFrom 3
  s.runCmd k { op := 0x0007, gen := 3 } true ok fun s =>
    let n := bf (k.par 0) 15 0
    let e := s.groupE n
    if s.lockedGroups.contains n then refuse s Status.deviceFailed
    else if e.st = .free then refuse s Status.groupUndefined
    else if e.st = .resolving then refuse s Status.groupBusy
    else
      let list := if e.home = s.device then e.members.flatMap fun m => leBytes 4 m.toNat else []
      s.replyBytes (k.par 1).toNat (k.par 2).toNat (s.groupBytes n ++ list) { status := Status.success }

/-- GROUP_CLEAR (R46, R52, R53); `g.far` as for GROUP_SET. DESIGN CHOICE (log entry 99): a number defined nowhere answers
GROUP_UNDEFINED, a resolving one GROUP_BUSY; a group that is still resolving counts, as a defined one, among those whose direct members
are in use (log entry 125). -/
def execGroupClear (g : GroupCmd) (s : State) : Host.Outcome State Fault Refusal :=
  let k := g.cmd
  let far := g.far
  let ok := k.topZero 0 16 && bf (k.par 0) 15 0 ≠ 0xFFFF && k.zeroFrom 1
  s.runCmd k { op := 0x0008, gen := 3, pf := true } true ok fun s =>
    let n := bf (k.par 0) 15 0
    let e := s.fabricGroup far n
    let inUse := (s.groups.any fun x => x.2.st ≠ .free && x.2.inner.contains n) ||
      far.any fun x => (s.fabricGroup far x.1).inner.contains n
    match firstFail
      [(!s.lockedGroups.contains n, ({ status := Status.deviceFailed } : Answer)),
       (e.st = .free || e.home = s.device, { status := Status.notHome, unit := devRef e.home }),
       (e.st ≠ .free, { status := Status.groupUndefined }), (e.st ≠ .resolving, { status := Status.groupBusy }),
       (!inUse, { status := Status.groupInUse }), (s.outstanding n = 0, { status := Status.groupBusy })] with
    | some a => .done s a
    | none =>
      if e.cores.all fun x => x.1 = s.device then .done (s.setGroupE n GroupEntry.reset) { status := Status.success }
      else .later (s.requestChange 0x01 (.groupClear n) [k])

end Sys2Proof.Machine
end

