-- ==== Sys2Proof/Machine/Mapping.lean ====
section
/-!
DEFINITION. MAP, UNMAP, INVALIDATE_RANGE with its acknowledgements (R350 to R358, R369 to R372), windows (R365, R368),
MEM_COPY and ZERO_LINES (R299, R473).
-/

namespace Sys2Proof.Machine

open Sys2Proof

/-! ### MAP (R352 to R357) -/

/-- First address of the table area and of what follows it (R352). -/
def tableArea : Nat × Nat := (0x0FC0000000, 0x1000000000)

/-- The valid HBM ranges of a partition: first address and first address above (R505). -/
def State.hbmRanges (s : State) (p : Nat) : List (Nat × Nat) :=
  ((s.part p).recWords.drop 2).filterMap fun w =>
    if bit w 31 then some (bf w 27 16 * 2 ^ 28, (bf w 27 16 + bf w 11 0) * 2 ^ 28) else none

/-- Whether `len` bytes of HBM from `a` lie in a partition's ranges, clear of the table area and of lost stacks (R327,
R347, R354). -/
def State.hbmOwned (s : State) (p a len : Nat) : Bool :=
  (s.hbmRanges p).any (fun r => decide (r.1 ≤ a) && decide (a + len ≤ r.2)) && decide (a + len ≤ 12 * 2 ^ 36) &&
    (decide (a + len ≤ tableArea.1) || decide (tableArea.2 ≤ a)) && !(s.stack (stackOf a)).lost

/-- Whether the target of one page keeps the limits of R354; `a` is FRAME with its 16 low zero bits. -/
def State.targetOk (s : State) (p kind a size : Nat) : Bool :=
  a % size = 0 &&
    (match kind with
    | 0 => s.hbmOwned p a size
    | 1 => size = 65536 && decide (a < 48 * 2 ^ 25) && (s.partClusters p).contains (deckCluster a) &&
        decide (a % 2 ^ 25 + size ≤ s.scratchEnd (deckCluster a))
    | 2 => decide (a + size ≤ 2 ^ 52)
    | _ => true)

/-- Whether a run of pages of a window keeps within it. -/
def windowRun (a n size : Nat) : Bool := decide (a % 2 ^ 34 + n * size ≤ 2 ^ 34)

/-- Tables of the table area in use by some leaves (R352): one root for each partition, one second-level table for each
1 TiB, one third-level table for each 256 MiB in 64 KiB pages. -/
def tablesUsed (ls : List Leaf) : Nat :=
  ((ls.map (·.part)).eraseDups).length + ((ls.map fun l => (l.part, l.va / 2 ^ 40)).eraseDups).length +
    (((ls.filter fun l => !l.big).map fun l => (l.part, l.va / 2 ^ 28)).eraseDups).length

/-! ### The device copy (R350 to R353) -/

/-- Address of the table at a place of the area. -/
def tableAt (i : Nat) : Nat := tableArea.1 + 32768 * i

/-- Place of a partition's table of some level and region. -/
def State.tablePlace (s : State) (p level region : Nat) : Option Nat :=
  (s.ptables.find? fun x => x.part = p && x.level = level && x.region = region).map (·.place)

/-- The lowest place of the area that holds no table, `n` of them searched from `i` (DESIGN CHOICE, log entry 112). -/
def State.freeTable (s : State) : Nat → Nat → Nat
  | 0, i => i
  | n + 1, i => if s.ptables.any fun x => x.place = i then State.freeTable s n (i + 1) else i

/-- A non-leaf entry: VALID, PART, NEXT and NEXT_LOW (R353). -/
def nextEntry (p a : Nat) : Word64 := BitVec.ofNat 64 (2 ^ 63 + p * 2 ^ 54 + a)

/-- Entry `k` of the table at place `i` written, least significant byte first (R350). -/
def State.putEntry (s : State) (i k : Nat) (e : Word64) : State :=
  s.writeBytes .hbm (tableAt i + 8 * k) (leBytes 8 e.toNat) false false

/-- A table found, or made with every entry 0 and entered at entry `k` of its parent `parent`. -/
def State.needTable (s : State) (p level region : Nat) (parent : Option (Nat × Nat)) : Nat × State :=
  match s.tablePlace p level region with
  | some i => (i, s)
  | none =>
    let i := s.freeTable (s.ptables.length + 1) 0
    let x : PTable := { part := p, level := level, region := region, place := i }
    let s := { s with ptables := s.ptables ++ [x], hbm := s.hbm.clear (tableAt i) (tableAt (i + 1)) }
    match parent with
    | some (j, k) => (i, s.putEntry j k (nextEntry p (tableAt i)))
    | none => (i, s)

/-- A leaf's entry written, with the tables that lead to it (R351). -/
def State.installEntry (s : State) (l : Leaf) : State :=
  let (r, s) := s.needTable l.part 1 0 none
  let (m, s) := s.needTable l.part 2 (l.va / 2 ^ 40) (some (r, l.va / 2 ^ 40))
  if l.big then s.putEntry m (l.va / 2 ^ 28 % 4096) l.entry
  else
    let (t, s) := s.needTable l.part 3 (l.va / 2 ^ 28) (some (m, l.va / 2 ^ 28 % 4096))
    s.putEntry t (l.va / 2 ^ 16 % 4096) l.entry

/-- A leaf's entry cleared. -/
def State.clearEntry (s : State) (l : Leaf) : State :=
  let (level, region, k) := if l.big then (2, l.va / 2 ^ 40, l.va / 2 ^ 28 % 4096) else (3, l.va / 2 ^ 28, l.va / 2 ^ 16 % 4096)
  match s.tablePlace l.part level region with
  | some i => s.putEntry i k 0
  | none => s

/-- Whether a table maps nothing. -/
def PTable.empty (x : PTable) (ls : List Leaf) : Bool :=
  !(ls.any fun l => l.part = x.part && (match x.level with
    | 1 => true
    | 2 => l.va / 2 ^ 40 = x.region
    | _ => !l.big && l.va / 2 ^ 28 = x.region))

/-- Empty tables freed, their entries in their parents cleared (R358). -/
def State.pruneTables (s : State) : State :=
  let gone := s.ptables.filter fun x => x.empty s.leaves
  let s := gone.foldl (fun s x =>
    let parent := if x.level = 3 then (s.tablePlace x.part 2 (x.region / 4096)).map fun j => (j, x.region % 4096)
      else if x.level = 2 then (s.tablePlace x.part 1 0).map fun j => (j, x.region)
      else none
    match parent with
    | some (j, k) => s.putEntry j k 0
    | none => s) s
  { s with ptables := s.ptables.filter fun x => !gone.contains x }

/-- Leaves cleared with their entries and every table left empty. -/
def State.unmapLeaves (s : State) (hit : Leaf → Bool) : State :=
  let gone := s.leaves.filter hit
  let s := gone.foldl (fun s l => s.clearEntry l) s
  State.pruneTables { s with leaves := s.leaves.filter fun l => !hit l }

/-- Leaves installed with their entries. -/
def State.mapIn (s : State) (ls : List Leaf) : State :=
  let s := ls.foldl (fun s l => s.installEntry l) s
  { s with leaves := s.leaves ++ ls }

/-- The leaves of a MAP (R356). -/
def mapLeaves (p va n size : Nat) (e : Word64) : List Leaf :=
  (List.range n).map fun i =>
    { part := p, va := va + i * size, big := decide (size = 2 ^ 28), entry := BitVec.ofNat 64 (e.toNat + i * size) }

/-- MAP (R356, R357): every page of the range or none. -/
def execMap (k : Cmd) (s : State) : Host.Outcome State Fault Refusal :=
  let e := k.par 1
  let n := bf (k.par 2) 20 1
  let size := if bit (k.par 2) 0 then 2 ^ 28 else 2 ^ 16
  let va := bf (k.par 0) 51 0
  let ok := k.topZero 0 52 && k.topZero 2 21 && k.zeroFrom 3 && decide (1 ≤ n) && va % size = 0 && bit e 63 && bit e 58 &&
    bf e 53 52 = 0 && bf e 15 0 = 0
  s.runCmd k { op := 0x0100, gen := 1 } true ok fun s =>
    let p := s.cmdPart k
    let a := bf e 51 16 * 65536
    let kind := bf e 60 59
    let fits := decide (va + n * size ≤ 2 ^ 52) && bf e 57 54 = p && decide (a + (n - 1) * size < 2 ^ 52) &&
      (kind ≠ 3 || windowRun a n size) && (List.range n).all fun i => s.targetOk p kind (a + i * size) size
    let new := mapLeaves p va n size e
    match firstFail
      [(fits, Status.invalidParameter),
       (!s.leaves.any fun l => l.part = p && l.meets va (n * size), Status.mapExists),
       (decide (tablesUsed (s.leaves ++ new) ≤ 32768), Status.mapTableFull)] with
    | some st => refuse s st
    | none => .done (s.mapIn new) { status := Status.success }

/-! ### Invalidation (R369 to R372) -/

/-- Engines that serve a partition (R359). -/
def State.enginesOf (s : State) (p : Nat) : List Engine :=
  let cls := s.partClusters p
  (cls.flatMap fun cl => (upFrom (8 * cl) 8).map Engine.core) ++ cls.map .dma ++ cls.map .emb ++ [.place 0, .place 1]

/-- An invalidation begun over a range of a partition (R369). -/
def State.beginInval (s : State) (p va len : Nat) (cmd : Option Cmd) : State :=
  { s with invals := s.invals ++ [{ part := p, va := va, length := len, waiting := s.enginesOf p, noticed := false, aborted := 0,
                                    start := s.tick, cmd := cmd }] }

/-- Whether two address ranges meet. -/
def meets (a n b m : Nat) : Bool := decide (a < b + m) && decide (b < a + n)

/-- Whether a descriptor's translated ranges meet a range of its partition. -/
def State.descMeets (s : State) (cl : Nat) (d : Desc) (va len : Nat) : Bool :=
  (!d.srcCs && meets d.src d.length va len) ||
    (!d.dstCs && meets d.dst (s.destLength (s.descSrc cl d) (s.descDst cl d) d.length) va len)

/-- Whether an accepted lookup's ranges meet a range. -/
def Lookup.meets (l : Lookup) (va len : Nat) : Bool :=
  l.ranges.any fun r => Sys2Proof.Machine.meets r.1 r.2.1 va len

/-- Queued descriptors of cluster `cl` over a range: accepted, not yet moved. -/
def State.hitDescs (s : State) (cl : Nat) (v : Inval) : List Desc :=
  ((s.cluster cl).dma.flatMap (·.2)).filter fun d =>
    d.accepted && !d.moved && d.stream.isNone && partOf d.job = v.part && s.descMeets cl d v.va v.length

/-- Whether an engine has begun the work of a lookup: its sort has started (R247). -/
def State.lookupBegun (s : State) (l : Lookup) : Bool := decide (l.sortEnd ≤ 11 * s.tick + sortCycles l.count)

/-- Lookups of cluster `cl` that an invalidation aborts: those that wait for the sorter. -/
def State.hitLookups (s : State) (cl : Nat) (v : Inval) : List Lookup :=
  (s.cluster cl).lookups.filter fun l => !s.lookupBegun l && l.part = v.part && l.meets v.va v.length

/-- A descriptor known to have begun (R369). -/
def State.markBegun (s : State) (cl id : Nat) : State :=
  s.modCluster cl fun k => { k with dma := mapCanon k.dma [] fun _ ds => ds.map fun d => if d.id = id then { d with begun := true } else d }

/-- A queued descriptor aborted (R369): it leaves its queue, its core stores are free of it, and nothing of it is held. -/
def State.abortDesc (s : State) (cl : Nat) (d : Desc) : State :=
  let s := s.modCluster cl fun k => { k with dma := mapCanon k.dma [] fun _ ds => ds.filter fun x => x.id ≠ d.id }
  let s := if d.held then s
    else ((s.descSrc cl d).stores ++ (s.descDst cl d).stores).foldl (fun s c => s.modCore c fun k => { k with bulk := k.bulk - 1 }) s
  let mine (h : Held) : Bool := match h with
    | .hostCopy c x _ => c = cl && x.id = d.id
    | _ => false
  (s.modJob d.job fun b => { b with outs := b.outs.filter fun h => !mine h }).unpark (fun _ => true) fun p =>
    (List.range 4).any fun q => Park.isDma cl q p

/-- A queued lookup aborted (R369): it leaves its engine. A LOOKUP_SUBMIT is done with it; it completes with MAPPING_WITHDRAWN once it is
done with all (R371). -/
def State.abortLookup (s : State) (cl : Nat) (l : Lookup) : State :=
  let s := (((s.setLookup cl l.id fun _ => none).pinSlots false l.pins).unpark (fun _ => true) (Park.isEngine cl)).poolAll cl
  match l.source with
  | .prog _ _ _ _ => s
  | .host k => match s.lookCmds.find? fun x => x.cmd = k with
    | none => s
    | some x =>
      let rest := s.lookCmds.filter fun y => y.cmd ≠ k
      if x.left ≤ 1 then { s with lookCmds := rest }.complete k { status := Status.mappingWithdrawn, paths := x.paths }
      else { s with lookCmds := rest ++ [{ x with left := x.left - 1, aborted := true }] }

/-- Whether queued host work translates through a range. -/
def HostWork.meets (w : HostWork) (v : Inval) : Bool :=
  w.part = v.part && w.ranges.any fun r => Sys2Proof.Machine.meets r.1 r.2 v.va v.length

/-- Whether the work of a host command that has been accepted is still queued: it has begun at once, but while the notice of an invalidation
over one of its ranges is on its way either may be so, a free choice (R369 to R371, log entry 109). -/
def State.queuesWork (s : State) (w : HostWork) : Bool := (s.invals.any fun v => !v.noticed && w.meets v) && s.freeAt 1 0 = 1

/-- The work of an accepted host command: done now, or queued until the notice that aborts it. -/
def State.hostTask (s : State) (w : HostWork) (go : State → Reply) : Reply :=
  if s.queuesWork w then .later { s.used 1 with hostWork := s.hostWork ++ [w] } else go s

/-- The notice of an invalidation reaches the engines (R369 steps 2 and 3): cached leaves go, and queued tasks over the
range are aborted with their jobs and commands (R371). Which accepted descriptors their engines have begun by then is a free choice
(log entry 109); those run to their end (R370). -/
def State.noticeInval (s : State) (v : Inval) : Nat × State :=
  let keys := v.waiting.map Engine.key
  let s := keys.foldl (fun s key => s.tlbDrop key v.part v.va v.length) s
  let cls := s.partClusters v.part
  let all := (cls.flatMap fun cl => (s.hitDescs cl v).map fun d => (cl, d)).zipIdx
  let begun := all.filter fun x => x.1.2.begun || (!x.1.2.held && s.freeAt 1 x.2 = 1)
  let ds := (all.filter fun x => !begun.contains x).map (·.1)
  let s := begun.foldl (fun s x => s.markBegun x.1.1 x.1.2.id) (s.used all.length)
  let ls := cls.flatMap fun cl => (s.hitLookups cl v).map fun l => (cl, l)
  let jobs := (ds.map fun x => (x.2.job, x.1)) ++ ls.filterMap fun x => match x.2.source with
    | .prog j _ _ _ => some (j, x.1)
    | .host _ => none
  let cmds := (ls.filterMap fun x => match x.2.source with
    | .host k => some k
    | .prog _ _ _ _ => none).eraseDups
  let progs := (ls.filter fun x => match x.2.source with
    | .prog _ _ _ _ => true
    | .host _ => false).length
  let works := s.hostWork.filter fun w => w.meets v
  let s := ds.foldl (fun s x => s.abortDesc x.1 x.2) s
  let s := ls.foldl (fun s x => s.abortLookup x.1 x.2) s
  let s := jobs.foldl (fun s x => s.stopJob x.1 { status := Status.mappingWithdrawn, unit := clusterRef s.device x.2 } []) s
  (ds.length + progs + cmds.length + works.length,
    works.foldl (fun s w => s.complete w.cmd { status := Status.mappingWithdrawn })
      { s with hostWork := s.hostWork.filter fun w => !w.meets v })

/-- Invalidations whose notice falls due, 6 ticks after it was sent. -/
def State.noticeInvals (s : State) : State :=
  (List.range s.invals.length).foldl (fun s i => match s.invals[i]? with
    | none => s
    | some v =>
      if v.noticed || decide (s.tick < v.start + 6) then s
      else
        let (n, s) := s.noticeInval v
        { s with invals := s.invals.modify i fun v => { v with noticed := true, aborted := n } }) s

/-- Whether an engine has a transfer in flight under a translation of the range (R369 step 4). -/
def State.engineBusy (s : State) (e : Engine) (v : Inval) : Bool :=
  match e with
  | .core c => (s.core c).groups.any fun g =>
      (match g.2.job with | some j => partOf j = v.part | none => false) &&
        g.2.slots.any fun x => !x.2.arrived && x.2.lanes.any fun r => decide (v.va ≤ r.va) && decide (r.va < v.va + v.length)
  | .dma cl => ((s.cluster cl).dma.flatMap (·.2)).any fun d =>
      (d.begun || d.stream.isSome || (d.moved && !d.data.isEmpty)) && partOf d.job = v.part && s.descMeets cl d v.va v.length
  | .emb cl => (s.cluster cl).lookups.any fun l => l.part = v.part && l.meets v.va v.length
  | .place io => s.rxStreams.any fun r => r.port / 8 = io && (match r.admitted with
      | some (p, va, _) => p = v.part && Sys2Proof.Machine.meets va (32 * r.length) v.va v.length
      | none => false)

/-- Invalidation `i` left by an engine, and completed by the last one. -/
def State.ackInval (s : State) (i : Nat) (e : Engine) (v : Inval) : State :=
  let v' : Inval := { v with waiting := v.waiting.erase e }
  if v'.waiting.isEmpty then
    let s := { s with invals := listDrop s.invals i }
    match v.cmd with
    | some k => s.complete k { status := Status.success, count := v.aborted }
    | none => s
  else { s with invals := listSet s.invals i v' }

/-- INVALIDATE_ACK (R369 steps 4 and 5). -/
def execInvalidateAck (e : Engine) (i : Nat) (s : State) : Host.Outcome State Fault Refusal :=
  match s.invals[i]? with
  | none => .next s
  | some v =>
    if !v.noticed || !v.waiting.contains e || s.engineBusy e v then .next s else .next (s.ackInval i e v)

/-- Engine reference of an engine (R644). -/
def State.refOf (s : State) : Engine → Nat
  | .core c => engineRef (coreRef s.device c) 1 0
  | .dma cl => engineRef (clusterRef s.device cl) 2 0
  | .emb cl => engineRef (clusterRef s.device cl) 3 0
  | .place io => engineRef (devRef s.device) 4 (io * 2 ^ 42)

/-- Unit of an engine. -/
def State.engineUnit (s : State) : Engine → Word32
  | .core c => coreRef s.device c
  | .dma cl => clusterRef s.device cl
  | .emb cl => clusterRef s.device cl
  | .place _ => devRef s.device

/-- TRANSLATION_TIMEOUT (R372): the module fails for every job, and the command with it. -/
def execTranslationTimeout (e : Engine) (i : Nat) (s : State) : Host.Outcome State Fault Refusal :=
  match s.invals[i]? with
  | none => .next s
  | some v =>
    if !v.waiting.contains e || decide (s.tick < v.start + 10000) then .next s
    else
      let s := s.raise { unit := s.engineUnit e, cls := 0x08, part := v.part, syndrome := s.refOf e,
                         opcode := match v.cmd with | some k => k.opcode | none => 0xFFFF }
      let s := { (s.failAll 0x08) with invals := listDrop s.invals i }
      match v.cmd with
      | some k => .next (s.complete k { status := Status.deviceFailed })
      | none => .next s

/-- P0 and P1 of UNMAP and INVALIDATE_RANGE. -/
def rangeOk (k : Cmd) : Bool :=
  k.topZero 0 52 && k.topZero 1 52 && k.zeroFrom 2 && (k.par 0).toNat % 65536 = 0 && (k.par 1).toNat % 65536 = 0 &&
    k.par 1 ≠ 0 && decide ((k.par 0).toNat + (k.par 1).toNat ≤ 2 ^ 52)

/-- UNMAP (R358). -/
def execUnmap (k : Cmd) (s : State) : Host.Outcome State Fault Refusal :=
  s.runCmd k { op := 0x0101, gen := 1 } true (rangeOk k) fun s =>
    let p := s.cmdPart k
    let va := (k.par 0).toNat
    let len := (k.par 1).toNat
    let hit (l : Leaf) : Bool := l.part = p && l.meets va len
    if s.leaves.any fun l => hit l && !(decide (va ≤ l.va) && decide (l.va + l.size ≤ va + len)) then refuse s Status.invalidParameter
    else
      .later ((s.unmapLeaves hit).beginInval p va len (some k))

/-- INVALIDATE_RANGE (R369). -/
def execInvalidateRange (k : Cmd) (s : State) : Host.Outcome State Fault Refusal :=
  s.runCmd k { op := 0x0102, gen := 1 } true (rangeOk k) fun s =>
    .later (s.beginInval (s.cmdPart k) (k.par 0).toNat (k.par 1).toNat (some k))

/-! ### Host commands refused for translation (R644) -/

/-- A host command refused for a page: the TRANSLATION record and the status. -/
def State.refusePage (s : State) (k : Cmd) (e : Refuse × Nat) (side status : Nat) : Reply :=
  let s := s.raiseTranslation
    { unit := devRef s.device, cls := 0x07, opcode := k.opcode, layer := k.layer, operator := k.operator, part := s.cmdPart k }
    (engineRef (devRef s.device) 5 0) e side
  refuse s status

/-! ### Windows (R365, R368) -/

/-- WINDOW_SET (R365, R473). -/
def execWindowSet (k : Cmd) (s : State) : Host.Outcome State Fault Refusal :=
  let w0 := k.par 1
  let w1 := k.par 2
  let ok := k.topZero 0 8 && k.zeroFrom 3 && bit w0 63 && bf w0 57 52 = 0 && bf w0 15 0 = 0 && decide (w1.toNat < 2 ^ 19) &&
    decide (1 ≤ w1.toNat) && decide (w1.toNat ≤ 262144)
  s.runCmd k { op := 0x0103, gen := 2 } true ok fun s =>
    let p := s.cmdPart k
    let n := (k.par 0).toNat
    if bf w0 61 58 ≠ p || bit (s.window n).w0 63 then refuse s Status.invalidParameter
    else match s.translateEngine p (bf w0 51 0) (w1.toNat * 65536) false with
    | .error e => s.refusePage k e 0 Status.invalidParameter
    | .ok _ => .done (s.setWindow n { s.window n with w0 := w0, w1 := w1 }) { status := Status.success }

/-- WINDOW_CLEAR (R365, R368): completes once every access that the window admitted has finished. -/
def execWindowClear (k : Cmd) (s : State) : Host.Outcome State Fault Refusal :=
  s.runCmd k { op := 0x0104, gen := 2 } true (k.topZero 0 8 && k.zeroFrom 1) fun s =>
    let n := (k.par 0).toNat
    let w := s.window n
    if !bit w.w0 63 || bf w.w0 61 58 ≠ s.cmdPart k then refuse s Status.invalidParameter
    else
      let s := s.setWindow n { w with w0 := 0, w1 := 0 }
      if w.open_ = 0 then .done s { status := Status.success } else .later { s with winClears := s.winClears ++ [(n, k)] }

/-- Window clears whose last access has finished. -/
def State.finishWindows (s : State) : State :=
  let due := s.winClears.filter fun x => (s.window x.1).open_ = 0
  due.foldl (fun s x => s.complete x.2 { status := Status.success })
    { s with winClears := s.winClears.filter fun x => (s.window x.1).open_ ≠ 0 }

/-! ### MEM_COPY and ZERO_LINES -/


/-- MEM_COPY (R363, R364, R371, R473, R480, R565, R573): both ranges are translated, then copied. -/
def execMemCopy (k : Cmd) (s : State) : Host.Outcome State Fault Refusal :=
  let len := (k.par 2).toNat
  let ok := k.topZero 0 52 && k.topZero 1 52 && k.topZero 2 40 && k.zeroFrom 3 && aligned32 (k.par 0) && aligned32 (k.par 1) &&
    len % 32 = 0 && decide (32 ≤ len)
  s.runCmd k { op := 0x0105, gen := 1, mem := true } true ok fun s =>
    let p := s.cmdPart k
    let src : Endpoint := .va p (k.par 0).toNat
    let dst : Endpoint := .va p (k.par 1).toNat
    match s.translate p (k.par 0).toNat len false with
    | .error e => s.refusePage k e 0 Status.translationFault
    | .ok ls => match s.translate p (k.par 1).toNat (s.destLength src dst len) true with
      | .error e => s.refusePage k e 1 Status.translationFault
      | .ok ld =>
        let n := s.destLength src dst len
        if (ls ++ ld).any fun l => l.kind = 3 then refuse s Status.invalidParameter
        else s.hostTask { cmd := k, part := p, ranges := [((k.par 0).toNat, len), ((k.par 1).toNat, n)] } fun s =>
          let bounce (l : Leaf) : Bool := l.isHost && l.prot
          let seen := (ls.any (fun l => l.prot && !bounce l) && !ld.all bounce) || (ld.any (fun l => l.prot && !bounce l) && !ls.all bounce)
          let s := if seen then s.debugAccess [p] else s
          let cl := (s.partClusters p).head?
          let (xs, s) := s.takeFrom cl src dst len [] false
          let s := s.putTo cl dst src xs
          let s := match cl with
            | some c => s.cleanRange c p (k.par 1).toNat n
            | none => s
          .done s { status := Status.success, paths := pathsOf ld }

/-- A line of zeros at a virtual address, by a cluster (R298). -/
def State.zeroVa (s : State) (cl p va : Nat) : State :=
  match s.leafAt p va with
  | none => s
  | some l => match l.target va with
    | .hbm a => s.zeroLine cl (a / 128) l.prot
    | _ => (List.range 4).foldl (fun s i => s.writeAt (some cl) (l.target (va + 32 * i)) (List.replicate 32 0) false l.prot) s

/-- ZERO_LINES (R298, R299, R371, R480). -/
def execZeroLines (k : Cmd) (s : State) : Host.Outcome State Fault Refusal :=
  let len := (k.par 2).toNat
  let u := k.unitAt 0
  let form := match unitOf u with
    | .cluster _ _ => true
    | .group _ => true
    | _ => false
  let ok := k.topZero 0 32 && k.topZero 1 52 && k.topZero 2 29 && k.zeroFrom 3 && form && (k.par 1).toNat % 128 = 0 &&
    len % 128 = 0 && decide (1 ≤ len) && decide (len ≤ 2 ^ 28)
  s.runCmd k { op := 0x0106, gen := 3, mem := true } (s.unitIn u (s.cmdPart k) (s.cmdFn k)) ok fun s =>
    match s.resolve u true with
    | .error a => .done s a
    | .ok cores =>
      let p := s.cmdPart k
      match s.translateEngine p (k.par 1).toNat len true with
      | .error e => s.refusePage k e 1 Status.translationFault
      | .ok ls =>
        if ls.any fun l => l.kind = 3 then refuse s Status.invalidParameter
        else s.hostTask { cmd := k, part := p, ranges := [((k.par 1).toNat, len)] } fun s =>
          let s := (clustersHolding (cores.map (·.2))).foldl (fun s cl =>
            ((List.range (len / 128)).foldl (fun s i => s.zeroVa cl p ((k.par 1).toNat + 128 * i)) s).cleanRange cl p (k.par 1).toNat len) s
          .done s { status := Status.success, paths := pathsOf ls }

end Sys2Proof.Machine
end

