-- ==== Sys2Proof/Machine/Tables.lean ====
section
/-!
DEFINITION. Table commands (R267 to R286, R473 to R475, R660, R661, R666, R668).
-/

namespace Sys2Proof.Machine

open Sys2Proof

/-! ### Shared checks -/

/-- A command that names a table: refused while the table is locked by a failed change (R439) or not defined (R661). -/
def State.tableCmd (s : State) (n : Nat) (f : Table → Reply) : Reply :=
  if s.lockedTables.contains n then refuse s Status.deviceFailed
  else match s.table n with
  | none => refuse s Status.invalidParameter
  | some t => f t

/-- Whether `len` bytes from `a` lie in stacks in service, clear of the reserved range and the table area (R668). -/
def State.rangeUsable (s : State) (a len : Nat) : Bool :=
  len = 0 ||
    (decide (a + len ≤ 12 * 2 ^ 36) && (decide (a + len ≤ tableArea.1) || decide (tableArea.2 ≤ a)) &&
      (upFrom (stackOf a) (stackOf (a + len - 1) + 1 - stackOf a)).all fun n => !(s.stack n).lost)

/-- Whether BASE serves a slot of a table here (R668). -/
def State.slotUsable (s : State) (t : Table) (base : Nat) : Bool :=
  base % 65536 = 0 && s.rangeUsable base (t.localRows s.device * t.stride)

/-- Every pin that a job, a host lookup or a fold holds. -/
def State.allPins (s : State) : List Pin :=
  (s.heldJobs.flatMap fun j => match s.job j with | some b => b.pins | none => []) ++
    s.clusters.flatMap (fun c => c.2.lookups.flatMap (·.pins)) ++ s.folds.map (·.pin)

/-- Deck lines tagged with a table and a version that satisfies `p` invalidated in every cluster. -/
def State.dropTagged (s : State) (table : Nat) (p : Byte → Bool) : State :=
  (s.clusters.map (·.1)).foldl (fun s cl => s.dropLines cl fun l => match l.table with
    | some (t, v) => t = table && p v
    | none => false) s

/-- Whether a sharded table's change takes a mode change: the fabric has other devices (R272, R666). -/
def State.spread (s : State) (t : Table) : Bool := t.sharded && s.assigned && decide (1 < s.fabric.devices.length)

/-- The device named first in a shard map. -/
def Table.first (t : Table) : Nat := t.shards.headD 0

/-- NOT_HOME for a sharded table's command sent to another device than the first of its map (R469). -/
def State.notFirst (s : State) (t : Table) : Bool := t.sharded && t.first ≠ s.device

/-- The slot of a version in a state. -/
def Table.slotIn (t : Table) (v : Nat) (st : SlotState) : Option Nat :=
  (List.range 4).find? fun i => (t.slot i).st = st && (t.slot i).version.toNat = v

/-- P0 with TABLE and VERSION, nothing else. -/
def versionOk (k : Cmd) : Bool := k.topZero 0 24 && bf (k.par 0) 15 12 = 0
def tableOf (k : Cmd) : Nat := bf (k.par 0) 11 0
def versionOf (k : Cmd) : Nat := bf (k.par 0) 23 16

/-! ### Creation, destruction, query -/

/-- Clusters of every partition: those that may look a table up (R238). -/
def State.ownedClusters (s : State) : List Nat := (List.range 48).filter fun cl => (s.clusterPart cl).isSome

/-- A table's default row in a cluster's Deck scratch (R238). -/
def State.placeDefault (s : State) (t : Table) (cl : Nat) : State :=
  s.writeBytes .deck (deckAddr cl t.defaultOff) t.dflt false false

/-- A table's default row set: written in every cluster that may look it up (R238, R475). -/
def State.putDefault (s : State) (n : Nat) (t : Table) (row : List Byte) : State :=
  let t := { t with dflt := row }
  s.ownedClusters.foldl (fun s cl => s.placeDefault t cl) (s.setTable n (some t))

/-- The default row of every table of the device placed in clusters that a partition gains (R238). -/
def State.placeDefaults (s : State) (cls : List Nat) : State :=
  s.tables.foldl (fun s x => match x.2 with
    | some t => cls.foldl (fun s cl => s.placeDefault t cl) s
    | none => s) s

/-- The words of a create block as the module takes them: their reserved bits are ignored and read as 0 (R15, R237, R473). -/
def createWords (ws : List Word64) : List Word64 :=
  List.zipWith (· &&& ·) ws [0xFFFF80FFFFFFFFFF, 0xFFFF800000000000, 0x01FFFFFF01FFFFFF, 0x000000FFFFFFFFFF, 0x000000FFFFFFFFFF, 0x00000000FFFFFFFF]

/-- Whether descriptor words break no rule of R237 and R239. -/
def descriptorOk (w0 w1 w2 : Word64) : Bool :=
  let f := w0Format w0
  let d := w0Dim w0
  bit w0 63 && f ≠ 7 && bf w0 59 58 ≠ 3 && (f = 6 || bf w0 59 58 = 0) && d % (if f = 5 then 64 else 16) = 0 &&
    decide (1 ≤ w0Rows w0) && decide (bf w1 62 57 ≤ 39) && bf w2 36 32 = 0 && (f = 6 || bf w2 24 0 = 0)

/-- TABLE_CREATE (R237, R238, R268, R473, R668). -/
def execTableCreate (k : Cmd) (s : State) : Host.Outcome State Fault Refusal :=
  s.runCmd k { op := 0x0200, gen := 1, mem := true } true (k.topZero 0 12 && aligned32 (k.par 1) && k.zeroFrom 2) fun s =>
    let n := tableOf k
    let a := (k.par 1).toNat
    let w := createWords (s.hostWords a 6)
    let g (i : Nat) : Word64 := w.getD i 0
    let count := bf (g 1) 56 47 + 1
    let shards := if bit (g 1) 63 then (List.range count).map fun i => fromLe (s.hostRead (a + 64 + 2 * i) 2) else []
    let t : Table :=
      { w0 := g 0, w1 := g 1, w2 := g 2, shards := shards, ce := 0, active := 0, flipTick := 0,
        slots := NMap.set [] 0 { VSlot.reset with st := .active, base := bf (g 3) 39 0 } VSlot.reset, lastVersion := 0,
        patchBase := bf (g 4) 39 0, patchRows := bf (g 5) 31 0, dflt := [] }
    let ok := descriptorOk (g 0) (g 1) (g 2) && decide (t.patchRows ≤ 16777216) && shards.all (fun d => decide (d < 1024)) && s.slotUsable t (bf (g 3) 39 0) &&
      t.patchBase % 65536 = 0 && s.rangeUsable t.patchBase (t.patchRows * t.stride)
    if s.lockedTables.contains n then refuse s Status.deviceFailed
    else if !ok || (s.table n).isSome then refuse s Status.invalidParameter
    else .done (s.putDefault n t (List.replicate (4 * t.dim) 0)) { status := Status.success }

/-- TABLE_DESTROY (R474). -/
def execTableDestroy (k : Cmd) (s : State) : Host.Outcome State Fault Refusal :=
  s.runCmd k { op := 0x0201, gen := 1 } true (k.topZero 0 12 && k.zeroFrom 1) fun s =>
    let n := tableOf k
    s.tableCmd n fun t =>
      let held := (List.range 4).any fun i => decide ((t.slot i).pins ≠ 0) || (t.slot i).st = .flipCommitted
      if held || s.retires.any (·.table = n) then refuse s Status.versionState
      else
        let s := s.dropTagged n fun _ => true
        .done ({ s with overlay := s.overlay.filter fun o => o.table ≠ n }.setTable n none) { status := Status.success }

/-- STATE of a version slot. -/
def SlotState.code : SlotState → Nat
  | .free => 0
  | .loading => 1
  | .ready => 2
  | .flipCommitted => 3
  | .active => 4
  | .draining => 5

/-- Patches staged and not committed. -/
def State.staged (s : State) (n : Nat) : Nat := (s.overlay.filter fun o => o.table = n && o.tag.isNone).length

/-- Descriptor words W0 to W12 (R237, R267). -/
def State.descriptor (s : State) (n : Nat) (t : Table) : List Word64 :=
  let w (x : Nat) : Word64 := BitVec.ofNat 64 x
  [t.w0, t.w1, t.w2, w (t.ce.toNat * 2 ^ 32 + t.active.toNat * 2 ^ 24 + satN 24 (s.staged n)), w (t.flipTick * 64)] ++
    (List.range 4).flatMap fun i =>
      let v := t.slot i
      [w (v.st.code * 2 ^ 61 + v.base), w (v.foldEpoch.toNat * 2 ^ 32 + satN 24 v.pins * 2 ^ 8 + v.version.toNat)]

/-- Bytes padded with zeros to a multiple of 32. -/
def pad32 (b : List Byte) : List Byte := b ++ List.replicate ((32 - b.length % 32) % 32) 0

/-- TABLE_QUERY (R473, R661). -/
def execTableQuery (k : Cmd) (s : State) : Host.Outcome State Fault Refusal :=
  s.runCmd k { op := 0x0202, gen := 1 } true (k.topZero 0 12 && aligned32 (k.par 1) && k.topZero 2 32 && k.zeroFrom 3) fun s =>
    let n := tableOf k
    if s.lockedTables.contains n then refuse s Status.deviceFailed
    else
      let b := match s.table n with
        | none => List.replicate 104 (0 : Byte)
        | some t => wordBytes (s.descriptor n t) ++ t.shards.flatMap fun d => leBytes 2 d
      s.replyBytes (k.par 1).toNat (k.par 2).toNat (pad32 b) { status := Status.success }

/-! ### Versions -/

/-- A free slot opened as the next version (R268, R278). -/
def State.openVersion (s : State) (n i : Nat) (t : Table) (base : Nat) (fold : Word32) : State :=
  let v := t.lastVersion + 1
  (s.dropTagged n fun x => x = v).setTable n (some
    ({ t with lastVersion := v }.modSlot i fun _ => { VSlot.reset with st := .loading, version := v, foldEpoch := fold, base := base }))

/-- The lowest free slot. -/
def Table.freeSlot (t : Table) : Option Nat := (List.range 4).find? fun i => (t.slot i).st = .free

/-- RESULT of TABLE_VERSION_OPEN and TABLE_FOLD. -/
def openResult (t : Table) (i : Nat) : Nat := i * 256 + (t.lastVersion + 1).toNat

/-- Parameters of TABLE_VERSION_OPEN and TABLE_FOLD. -/
def openOk (k : Cmd) : Bool := k.topZero 0 12 && k.topZero 1 40 && (k.par 1).toNat % 65536 = 0 && k.topZero 2 32 && k.zeroFrom 3

/-- TABLE_VERSION_OPEN (R268, R269, R278, R668). -/
def execTableVersionOpen (k : Cmd) (s : State) : Host.Outcome State Fault Refusal :=
  s.runCmd k { op := 0x0203, gen := 2 } true (openOk k) fun s =>
    s.tableCmd (tableOf k) fun t =>
      let fold : Word32 := k.unitAt 2
      if epochLt t.ce fold || !s.slotUsable t (k.par 1).toNat then refuse s Status.invalidParameter
      else match t.freeSlot with
      | none => refuse s Status.tableVersionsFull
      | some i => .done (s.openVersion (tableOf k) i t (k.par 1).toNat fold) { status := Status.success, result := openResult t i }

/-- TABLE_WRITE_ROWS (R270, R371, R473): the rows that this device owns, at their local indices. -/
def execTableWriteRows (k : Cmd) (s : State) : Host.Outcome State Fault Refusal :=
  let ok := versionOk k && k.topZero 1 40 && k.topZero 2 40 && k.par 2 ≠ 0 && k.topZero 3 52 && k.zeroFrom 4 && aligned32 (k.par 3)
  s.runCmd k { op := 0x0204, gen := 1, mem := true } true ok fun s =>
    s.tableCmd (tableOf k) fun t =>
      let first := (k.par 1).toNat
      let count := (k.par 2).toNat
      let va := (k.par 3).toNat
      let p := s.cmdPart k
      if t.rows < first + count then refuse s Status.invalidParameter
      else match t.slotIn (versionOf k) .loading with
      | none => refuse s Status.versionState
      | some i => match s.translateEngine p va (count * t.stride) false with
        | .error e => s.refusePage k e 0 Status.translationFault
        | .ok _ => s.hostTask { cmd := k, part := p, ranges := [(va, count * t.stride)] } fun s =>
          let base := (t.slot i).base
          let s := (List.range count).foldl (fun s r =>
            if !t.owns s.device (first + r) then s
            else
              let a := va + r * t.stride
              let (xs, s) := s.readVa none p (a / 32 * 32) ((a % 32 + t.stride + 31) / 32)
              let b := ((sectorBytes xs).drop (a % 32)).take t.rowBytes
              s.writeBytes .hbm (base + t.localIndex s.device (first + r) * t.stride) b (xs.any (·.poison)) false) s
          .done s { status := Status.success, paths := 2 }

/-- TABLE_VERSION_SEAL (R271). A slot that a fold still builds is not sealed. -/
def execTableVersionSeal (k : Cmd) (s : State) : Host.Outcome State Fault Refusal :=
  s.runCmd k { op := 0x0205, gen := 2 } true (versionOk k && k.zeroFrom 1) fun s =>
    s.tableCmd (tableOf k) fun t => match t.slotIn (versionOf k) .loading with
      | none => refuse s Status.versionState
      | some i =>
        if s.folds.any fun f => f.table = tableOf k && f.slot = i then refuse s Status.versionState
        else .done (s.setTable (tableOf k) (some (t.modSlot i fun v => { v with st := .ready }))) { status := Status.success }

/-- The flip of a table to a version at this tick (R273). -/
def State.applyFlip (s : State) (n : Nat) (v : Byte) : State :=
  s.modTable n fun t => match t.slotOf v.toNat with
    | none => t
    | some i =>
      let t := match t.activeSlot with
        | some a => t.modSlot a fun x => { x with st := .draining }
        | none => t
      { (t.modSlot i fun x => { x with st := .active }) with active := v, flipTick := s.tick }

/-- TABLE_FLIP (R272, R273). -/
def execTableFlip (k : Cmd) (s : State) : Host.Outcome State Fault Refusal :=
  s.runCmd k { op := 0x0206, gen := 1 } true (versionOk k && k.zeroFrom 1) fun s =>
    let n := tableOf k
    s.tableCmd n fun t =>
      let v : Byte := BitVec.ofNat 8 (versionOf k)
      if s.notFirst t then .done s { status := Status.notHome, unit := devRef t.first }
      else if (t.slotIn (versionOf k) .ready).isNone then refuse s Status.versionState
      else if s.spread t then .later (s.requestChange 0x03 (.flip n v) [k])
      else .done (s.applyFlip n v) { status := Status.success }

/-- TABLE_RETIRE (R276): it waits for TABLE_RETIRE_DONE. -/
def execTableRetire (k : Cmd) (s : State) : Host.Outcome State Fault Refusal :=
  s.runCmd k { op := 0x0207, gen := 2 } true (versionOk k && k.zeroFrom 1) fun s =>
    s.tableCmd (tableOf k) fun t => match t.slotIn (versionOf k) .draining with
      | none => refuse s Status.versionState
      | some i =>
        if s.retires.any fun r => r.table = tableOf k && r.slot = i then refuse s Status.versionState
        else .later { s with retires := s.retires ++ [{ table := tableOf k, slot := i, cmd := k }] }

/-- TABLE_RETIRE_DONE (R276): the last pin has drained, here and on the other devices; the version's lines are invalidated
and the slot is free. -/
def execTableRetireDone (n i : Nat) (s : State) : Host.Outcome State Fault Refusal :=
  match s.retires.find? (fun r => r.table = n && r.slot = i), s.table n with
  | some r, some t =>
    if (t.slot i).pins ≠ 0 then .next s
    else
      let s := (s.dropTagged n fun v => v = (t.slot i).version).modTable n fun t => t.modSlot i fun _ => VSlot.reset
      .next ({ s with retires := s.retires.filter fun x => !(x.table = n && x.slot = i) }.complete r.cmd { status := Status.success })
  | _, _ => .next s

/-! ### The overlay -/

/-- Entries that the index holds at most (R279). -/
def State.overlayRoom (s : State) : Nat := min 16777216 (s.overlayMib * 3145728)

/-- The lowest place of a table's patch area that no entry names. -/
def State.freePlace (s : State) (n : Nat) : Nat → Nat → Nat
  | 0, i => i
  | m + 1, i => if s.overlay.any fun o => o.table = n && o.place = i then State.freePlace s n m (i + 1) else i

/-- One pair staged (R280, R281). -/
def State.stagePair (s : State) (n : Nat) (t : Table) (index : Nat) (row : List Byte) : State :=
  let (place, s) := match s.overlay.find? fun o => o.table = n && o.index = index && o.tag.isNone with
    | some o => (o.place, s)
    | none =>
      let p := s.freePlace n t.patchRows 0
      let e : Overlay := { table := n, index := index, tag := none, place := p }
      (p, { s with overlay := s.overlay ++ [e] })
  s.writeBytes .hbm (t.patchBase + place * t.stride) row false false

/-- TABLE_PATCH (R280, R281, R473): all pairs of the list or none. Its checks count the whole list; the pairs that this device
owns are staged. -/
def execTablePatch (k : Cmd) (s : State) : Host.Outcome State Fault Refusal :=
  let count := (k.par 2).toNat
  let ok := k.topZero 0 12 && k.topZero 1 52 && aligned32 (k.par 1) && decide (1 ≤ count) && decide (count ≤ 65536) && k.zeroFrom 3
  s.runCmd k { op := 0x0208, gen := 3, mem := true } true ok fun s =>
    let n := tableOf k
    s.tableCmd n fun t =>
      let p := s.cmdPart k
      let va := (k.par 1).toNat
      let size := 32 + (t.stride + 31) / 32 * 32
      match s.translateEngine p va (count * size) false with
      | .error e => s.refusePage k e 0 Status.translationFault
      | .ok _ =>
        let (xs, s) := s.readVa none p va (count * size / 32)
        let b := sectorBytes xs
        let pairs := (List.range count).map fun i =>
          (fromLe ((b.drop (i * size)).take 5), ((b.drop (i * size + 32)).take t.rowBytes))
        let mine := pairs.filter fun x => t.owns s.device x.1
        let new := ((pairs.map (·.1)).eraseDups.filter fun i => !(s.overlay.any fun o => o.table = n && o.index = i && o.tag.isNone)).length
        let used := (s.overlay.filter fun o => o.table = n).length
        match firstFail
          [(!xs.any (·.poison), Status.invalidParameter), (pairs.all fun x => decide (x.1 < t.rows), Status.invalidParameter),
           (decide (s.overlay.length + new ≤ s.overlayRoom) && decide (used + new ≤ t.patchRows), Status.overlayFull)] with
        | some st => refuse s st
        | none => .done (mine.foldl (fun s x => s.stagePair n t x.1 x.2) s) { status := Status.success, paths := 2 }

/-- Whether a commit's new CE stays within 2^30 of every pinned CE (R284). -/
def State.epochOk (s : State) (n : Nat) (t : Table) : Bool :=
  (s.allPins.filter fun p => p.table = n).all fun p => decide ((t.ce + 1 - p.ce).toInt ≤ 2 ^ 30)

/-- The staged patches of a table tagged with a new CE (R282). -/
def State.applyPatch (s : State) (n : Nat) : State :=
  match s.table n with
  | none => s
  | some t =>
    let s := s.setTable n (some { t with ce := t.ce + 1 })
    { s with overlay := s.overlay.map fun o => if o.table = n && o.tag.isNone then { o with tag := some (t.ce + 1) } else o }

/-- TABLE_PATCH_COMMIT (R282, R284). -/
def execTablePatchCommit (k : Cmd) (s : State) : Host.Outcome State Fault Refusal :=
  s.runCmd k { op := 0x0209, gen := 3 } true (k.topZero 0 12 && k.zeroFrom 1) fun s =>
    let n := tableOf k
    s.tableCmd n fun t =>
      if s.notFirst t then .done s { status := Status.notHome, unit := devRef t.first }
      else if !s.epochOk n t then refuse s Status.epochRange
      else if s.spread t then .later (s.requestChange 0x04 (.patchCommit n) [k])
      else .done (s.applyPatch n) { status := Status.success, result := (t.ce + 1).toNat }

/-- TABLE_FOLD (R269, R278, R285, R668): the slot is opened under the fold's pin; TABLE_FOLD_END completes it. -/
def execTableFold (k : Cmd) (s : State) : Host.Outcome State Fault Refusal :=
  s.runCmd k { op := 0x020A, gen := 3, mem := true } true (openOk k) fun s =>
    let n := tableOf k
    s.tableCmd n fun t =>
      let e : Word32 := k.unitAt 2
      if epochLt t.ce e || !s.slotUsable t (k.par 1).toNat then refuse s Status.invalidParameter
      else match t.freeSlot with
      | none => refuse s Status.tableVersionsFull
      | some i =>
        let pin : Pin := { table := n, version := t.active, ce := e, slot := t.pinSlot t.active }
        let s := (s.openVersion n i t (k.par 1).toNat e).pinSlots true [pin]
        .later { s with folds := s.folds ++ [{ table := n, slot := i, epoch := e, pin := pin, cmd := k }] }

/-- TABLE_FOLD_END (R285): the oldest fold of a table ends; its slot holds the rows of its pin and is ready. -/
def execTableFoldEnd (n : Nat) (s : State) : Host.Outcome State Fault Refusal :=
  match s.folds.find? (fun f => f.table = n), s.table n with
  | some f, some t =>
    let base := (t.slot f.slot).base
    let s := (List.range t.rows).foldl (fun s i =>
      if !t.owns s.device i then s
      else
        let (a, _) := s.rowPlace n t f.pin.version f.pin.ce i
        let (b, bad, s) := s.readBytes .hbm a t.rowBytes
        s.writeBytes .hbm (base + t.localIndex s.device i * t.stride) b bad false) s
    let s := (s.pinSlots false [f.pin]).modTable n fun t => t.modSlot f.slot fun v => { v with st := .ready }
    let res := f.slot * 256 + (t.slot f.slot).version.toNat
    .next ({ s with folds := s.folds.erase f }.complete f.cmd { status := Status.success, result := res, paths := 2 })
  | _, _ => .next s

/-- Whether a pin that exists, or that can still be taken, selects an entry (R283, R286). -/
def State.selectable (s : State) (t : Table) (o : Overlay) (tag : Word32) : Bool :=
  (s.allPins.any fun p => p.table = o.table && s.patchOf o.table o.index (t.slot p.slot).foldEpoch p.ce = some o) ||
    (List.range 4).any fun i =>
      let v := t.slot i
      v.st ≠ .free && v.st ≠ .draining && epochLt v.foldEpoch tag

/-- OVERLAY_ENTRY_REMOVE (R286). -/
def execOverlayEntryRemove (n index : Nat) (tag : Word32) (s : State) : Host.Outcome State Fault Refusal :=
  match s.overlay.find? (fun o => o.table = n && o.index = index && o.tag = some tag), s.table n with
  | some o, some t => .next (if s.selectable t o tag then s else { s with overlay := s.overlay.erase o })
  | _, _ => .next s

/-- TABLE_DEFAULT_SET (R475). -/
def execTableDefaultSet (k : Cmd) (s : State) : Host.Outcome State Fault Refusal :=
  s.runCmd k { op := 0x020B, gen := 1, mem := true } true (k.topZero 0 12 && k.topZero 1 52 && aligned32 (k.par 1) && k.zeroFrom 2) fun s =>
    let n := tableOf k
    s.tableCmd n fun t =>
      let p := s.cmdPart k
      let held := (s.heldJobs.any fun j => match s.job j with | some b => b.pins.any (·.table = n) | none => false) ||
        s.clusters.any fun c => c.2.lookups.any fun l => (s.lookupPins l).any (·.table = n)
      if held then refuse s Status.versionState
      else match s.translateEngine p (k.par 1).toNat (4 * t.dim) false with
      | .error e => s.refusePage k e 0 Status.translationFault
      | .ok _ =>
        let (xs, s) := s.readVa none p (k.par 1).toNat (4 * t.dim / 32)
        if xs.any (·.poison) then refuse s Status.invalidParameter
        else .done (s.putDefault n t (sectorBytes xs)) { status := Status.success, paths := 2 }

/-! ### The Deck slices -/

/-- Lowest byte of a slice above scratch under a record and a reservation. -/
def scratchUnder (mib : Nat) (cfg : List Word64) : Nat := 2 ^ 25 - (mib + cacheMib cfg) * 2 ^ 20

/-- Whether a mapped Deck page of a cluster reaches `lo` or above (R355). -/
def State.deckMappedAbove (s : State) (cl lo : Nat) : Bool :=
  s.leaves.any fun l =>
    let a := bf l.entry 51 16 * 65536
    l.kind = 1 && deckCluster a = cl && decide (lo < a % 2 ^ 25 + 65536)

/-- A cluster's slice under a new reservation and record: every line written back and invalidated, its tree bits 0, every
byte that becomes scratch 0 (R279, R289, R295). -/
def State.reslice (s : State) (cl lo : Nat) (f : Cluster → Cluster) : State :=
  let old := s.scratchEnd cl
  let s := (s.dropLines cl fun _ => true).modCluster cl fun k => f { k with tree := [] }
  if lo ≤ old then s else { s with deck := s.deck.clear (deckAddr cl old) (deckAddr cl lo) }

/-- Whether some job of a partition runs. -/
def State.partRuns (s : State) (p : Nat) : Bool :=
  (s.partJobs p).any fun j => match s.job j with | some b => b.active | none => false

/-- OVERLAY_MIB set (R279), by OVERLAY_CONFIG or by a stage of the setting (R618). DESIGN CHOICE (log entry 41): the invalid value is
answered before PARTITION_BUSY. -/
def State.setOverlay (s : State) (mib : Nat) : Reply :=
  let runs := s.heldJobs.any fun j => match s.job j with | some b => b.active | none => false
  let cls := List.range 48
  let lo (cl : Nat) : Nat := scratchUnder mib (s.cluster cl).deckCfg
  if cls.any fun cl => decide (32 < mib + cacheMib (s.cluster cl).deckCfg) || s.deckMappedAbove cl (lo cl) then
    refuse s Status.invalidParameter
  else if !s.overlay.isEmpty || runs then refuse s Status.partitionBusy
  else
    let s := cls.foldl (fun s cl => s.reslice cl (lo cl) id) s
    .done { s with overlayMib := mib } { status := Status.success }

/-- OVERLAY_CONFIG (R279). -/
def execOverlayConfig (k : Cmd) (s : State) : Host.Outcome State Fault Refusal :=
  let mib := bf (k.par 0) 2 0
  s.runCmd k { op := 0x020C, gen := 3, pf := true, dev := true, mem := true } true
    (k.topZero 0 3 && mib ≠ 7 && k.zeroFrom 1) fun s => s.setOverlay mib

/-- Whether two enabled regions of a record overlap, or one is empty (R288). -/
def regionsOk (cfg : List Word64) : Bool :=
  let on := (List.range 4).filter fun r => regOn cfg r
  on.all (fun r => decide (regBase cfg r < regLimit cfg r)) &&
    on.all fun a => on.all fun b => a = b || decide (regLimit cfg a ≤ regBase cfg b) || decide (regLimit cfg b ≤ regBase cfg a)

/-- A Deck record as a slice keeps it: its reserved bits are ignored when written and read as 0 (R15, R287). -/
def deckRecord (ws : List Word64) : List Word64 :=
  ws.zipIdx.map fun x => x.1 &&& (if x.2 % 2 = 0 then 0xFF00000000000000 else 0x0000FFFFFFFFFFFF)

/-- DECK_CONFIG (R287 to R289, R355). DESIGN CHOICE (log entry 41): the invalid record is answered before PARTITION_BUSY. -/
def execDeckConfig (k : Cmd) (s : State) : Host.Outcome State Fault Refusal :=
  let u := k.unitAt 0
  let form := match unitOf u with
    | .cluster _ _ => true
    | .group _ => true
    | _ => false
  s.runCmd k { op := 0x0107, gen := 3, mem := true } (s.unitIn u (s.cmdPart k) (s.cmdFn k))
      (k.topZero 0 32 && form && aligned32 (k.par 1) && k.zeroFrom 2) fun s =>
    match s.resolve u true with
    | .error a => .done s a
    | .ok cores =>
      let cls := clustersHolding (cores.map (·.2))
      let cfg := deckRecord (s.hostWords (k.par 1).toNat 8)
      let fields := (List.range 4).all fun r => decide (bf (cfg.getD (2 * r) 0) 62 60 ≤ 5)
      let lo := scratchUnder s.overlayMib cfg
      if !fields || decide (32 < s.overlayMib + cacheMib cfg) || !regionsOk cfg || cls.any (fun cl => s.deckMappedAbove cl lo) then
        refuse s Status.invalidParameter
      else if s.partRuns (s.cmdPart k) then refuse s Status.partitionBusy
      else .done (cls.foldl (fun s cl => s.reslice cl lo fun c => { c with deckCfg := cfg }) s) { status := Status.success }

/-- DECK_QUERY (R473). -/
def execDeckQuery (k : Cmd) (s : State) : Host.Outcome State Fault Refusal :=
  let u := k.unitAt 0
  let form := match unitOf u with
    | .cluster _ _ => true
    | _ => false
  s.runCmd k { op := 0x0108, gen := 3 } (s.unitIn u (s.cmdPart k) (s.cmdFn k))
      (k.topZero 0 32 && form && aligned32 (k.par 1) && k.zeroFrom 2) fun s =>
    match s.resolve u true with
    | .error a => .done s a
    | .ok cores =>
      let cl := ((clustersHolding (cores.map (·.2))).head?).getD 0
      s.replyBytes (k.par 1).toNat 64 (wordBytes (s.cluster cl).deckCfg) { status := Status.success }

end Sys2Proof.Machine
end

