-- ==== Sys2Proof/Machine/Launch.lean ====
section
/-!
DEFINITION. Launches: admission (R36, R85, R86, R306, R471, R511 to R513, R657), the batcher (R322 to R324), start and
completion of a job (R170, R172, R230, R274, R417, R516), JOB_ABORT, JOB_COUNTERS, LOOKUP_SUBMIT.
-/

namespace Sys2Proof.Machine

open Sys2Proof

/-! ### Fields of JOB_LAUNCH (R471) -/

def launchImage (k : Cmd) : Nat := bf (k.par 0) 63 48
def launchEntry (k : Cmd) : Nat := bf (k.par 0) 47 32
def launchNumber (k : Cmd) : Word32 := k.unitAt 0
def launchUnit (k : Cmd) : Word32 := k.unitAt 1
def launchBatch (k : Cmd) : Bool := bit (k.par 1) 32
def launchOk (k : Cmd) : Bool := k.topZero 1 33 && k.zeroFrom 2

/-! ### Admission -/

/-- Fields of a slice record (R514). -/
def Part.quantum (p : Part) : Nat := bf (p.slice.getD 0 0) 63 32
def Part.limit (p : Part) : Nat := bf (p.slice.getD 0 0) 31 0
def Part.saveVa (p : Part) : Nat := bf (p.slice.getD 1 0) 51 0
def Part.saveUnits (p : Part) : Nat := bf (p.slice.getD 2 0) 43 32
def Part.grace (p : Part) : Nat := bf (p.slice.getD 2 0) 15 0

/-- Images of the other held jobs. -/
def State.heldImages (s : State) : List Image :=
  s.heldJobs.filterMap fun j => match s.job j with
    | some b => s.jobImage b
    | none => none

/-- Ports on which an image reserves scheduled sectors here. -/
def sectorPorts (i : Image) : List Nat := ((i.slots.filter fun x => !x.places.isEmpty).map (·.port)).eraseDups

/-- Whether an image may be launched as another job of partition `p` (R86, R306, R511, R513, R657). -/
def State.admits (s : State) (p entry : Nat) (img : Image) : Bool :=
  let q := s.part p
  let held := s.heldImages
  decide ((s.partJobs p).length < 8) && decide (img.wcets.getD entry 0 ≤ q.limit) &&
    held.all (fun h => !h.sems.any img.sems.contains) && held.all (fun h => !(sectorPorts h).any (sectorPorts img).contains) &&
    held.all (fun h => !h.dmaQueues.any img.dmaQueues.contains) &&
    (img.cheaps.all fun c => decide (c.bytes ≤ q.saveUnits * 65536)) &&
    (match img.gen with
    | none => true
    | some (t, f, n) => decide (q.slots ≠ 0) && decide (t ≤ q.tStep) && decide (f ≤ q.prefill) && decide (n ≤ q.slots))

/-- Whether a job number's low half names a job running or queued in partition `p` (R471). -/
def State.numberTaken (s : State) (p : Nat) (n : Word32) : Bool :=
  ((s.partJobs p).any fun j => match s.job j with
    | some b => b.number.toNat % 65536 = n.toNat % 65536
    | none => false) || (s.part p).batchQ.any fun r => (launchNumber r.cmd).toNat % 65536 = n.toNat % 65536

/-- Whether a launch of partition `p` that waits in a mode change carries such a number (R471). -/
def State.launching (s : State) (p : Nat) (n : Word32) : Bool :=
  s.mcCoord.any fun x => match x.content with
    | .launch q _ _ _ _ _ _ => q = p && x.cmds.any fun k => (launchNumber k).toNat % 65536 = n.toNat % 65536
    | _ => false

/-- The answer that refuses a launch, if any: a failed device of the image, a removed core of its footprint (R36, R552),
admission. -/
def State.launchFail (s : State) (p entry : Nat) (img : Image) : Option Answer :=
  let gone := ((s.footprint img).map (·.1)).filter fun c => (s.core c).removed
  let dead := img.devices.filter fun d => if d = s.device then s.failedAll else s.failedDevs.contains d
  firstFail
    [(dead.isEmpty, ({ status := Status.deviceFailed, unit := devRef (dead.headD 0) } : Answer)),
     (gone.isEmpty, { status := Status.unitUnavailable, unit := coreRef s.device ((sortBy id gone).headD 0), count := gone.length }),
     (s.admits p entry img, { status := Status.admissionRefused })]

/-- Whether the cores of an image's streams here lie in the resolved set of the group that a launch names (R54). DESIGN CHOICE
(log entry 100): another UNIT says nothing of the footprint. -/
def State.inTarget (s : State) (unit : Word32) (img : Image) : Bool :=
  match targetGroup unit with
  | none => true
  | some g => (s.streamCores img).all fun c => (s.groupE g).cores.contains (s.device, c)

/-- The loaded image of a partition that a launch names, with an entry that it has. -/
def State.launchImg (s : State) (p : Nat) (k : Cmd) : Option Image :=
  match s.image (launchImage k) with
  | some l => if l.part = p && decide (launchEntry k < l.img.wcets.length) then some l.img else none
  | none => none

/-! ### Acceptance (R511, R516) -/

/-- A job as it is accepted. -/
def newJob (number unit : Word32) (image entry wcet tick : Nat) (origins : List Cmd) (batch : Bool) (tags : CntTags) : Job :=
  { number := number, unit := unit, image := image, entry := entry, phase := .waiting, launchTick := tick, stick := 0, epoch := 0,
    replayTick := none, slips := [], slipIdx := 0, slipSets := [], sevSince := 0, sliceStart := 0, pendCheap := none, stopAt := none,
    ending := none,
    wcet := wcet, fixedOverride := false, origins := origins, batch := batch, pins := [], suspects := [], reported := [],
    nextCommit := 0, ceils := [], outs := [], semSnaps := [], snaps := [], saved := [], replaying := [], rerun := [],
    result := wcet, ended := 0, tags := tags }

/-- The lowest free slot of a partition. -/
def State.freeJobSlot (s : State) (p : Nat) : Nat := firstOr 8 (fun i => (s.job (8 * p + i)).isNone) (List.range 8)

/-- A job held in the lowest free slot; a job of this device alone is to start at once when its footprint is free, one of several
devices by a mode change of its own (log entry 124). -/
def State.acceptJob (s : State) (p : Nat) (b : Job) : State :=
  let i := s.freeJobSlot p
  let s := s.setJob (8 * p + i) (some b)
  if s.footprintFree (8 * p + i) && !s.spans b then
    (s.chooseStart (8 * p + i)).modPart p fun q => { q with lastSlot := i }
  else s

/-- A job of some launches begun on all its devices (R55, R71, R323): here at once, or over several devices by a mode change. DESIGN
CHOICE (log entry 125): the device that receives the launch coordinates it, the group's home or not. -/
def State.beginJob (s : State) (p : Nat) (img : Image) (k : Cmd) (all : List Cmd) (batch : Bool) : State :=
  if s.soleDevice img then
    s.acceptJob p (newJob (launchNumber k) (launchUnit k) (launchImage k) (launchEntry k) (img.wcets.getD (launchEntry k) 0) s.tick
      all batch (Cmd.tags k (launchNumber k)))
  else
    s.requestChange (if (targetGroup (launchUnit k)).isSome then 0x02 else 0x05)
      (.launch p img.digest (launchEntry k) (launchNumber k) (launchUnit k) batch (Cmd.tags k (launchNumber k))) all

/-- JOB_LAUNCH without BATCH (R37, R54, R55, R71, R85, R86, R434, R471, R511). DESIGN CHOICE (log entry 100): a footprint that
reaches outside the resolved set of the group in UNIT answers INVALID_PARAMETER; another UNIT is not held against it. -/
def execJobLaunch (k : Cmd) (s : State) : Host.Outcome State Fault Refusal :=
  if launchBatch k then .next s
  else
    s.runCmd k { op := 0x0300, gen := 1, fw := false, mem := true } (s.unitIn (launchUnit k) (s.cmdPart k) (s.cmdFn k))
        (launchOk k && unitOf (launchUnit k) ≠ .reserved) fun s =>
      let p := s.cmdPart k
      match s.resolve (launchUnit k) false with
      | .error a => .done s a
      | .ok _ => match s.launchImg p k with
        | none => refuse s Status.invalidParameter
        | some img =>
          if s.numberTaken p (launchNumber k) || s.launching p (launchNumber k) || !s.inTarget (launchUnit k) img then refuse s Status.invalidParameter
          else match s.launchFail p (launchEntry k) img with
          | some a => .done s { a with result := img.wcets.getD (launchEntry k) 0 }
          | none =>
            .later (s.beginJob p img k [k] false)

/-! ### The batcher (R322 to R324) -/

def Part.batchOn (p : Part) : Bool := bit p.batcher 0
def Part.fill (p : Part) : Nat := bf p.batcher 41 29
/-- DEADLINE in ticks. -/
def Part.deadline (p : Part) : Nat := bf p.batcher 28 16 * 100

/-- A batch formed from the oldest requests: one launch, with the first request's parameters, or a refusal of each with the WCET
in RESULT (R85, R323). -/
def State.formBatch (s : State) (p : Nat) : State :=
  let q := s.part p
  let take := (q.batchQ.take q.fill).map (·.cmd)
  match take with
  | [] => s
  | k :: _ =>
    let s := s.modPart p fun q => { q with batchQ := q.batchQ.drop q.fill }
    let refuseAll (s : State) (a : Answer) : State := take.foldl (fun s k => s.completeCmd k a) s
    match s.launchImg p k with
    | none => refuseAll s { status := Status.invalidParameter }
    | some img =>
      let wcet := img.wcets.getD (launchEntry k) 0
      if !s.inTarget (launchUnit k) img then refuseAll s { status := Status.invalidParameter, result := wcet }
      else match s.launchFail p (launchEntry k) img with
      | some a => refuseAll s { a with result := wcet }
      | none => s.beginJob p img k take true

/-- JOB_LAUNCH with BATCH (R322, R323). -/
def execJobLaunchBatch (k : Cmd) (s : State) : Host.Outcome State Fault Refusal :=
  if !launchBatch k then .next s
  else
    s.runCmd k { op := 0x0300, gen := 1, fw := false, mem := true } (s.unitIn (launchUnit k) (s.cmdPart k) (s.cmdFn k))
        (launchOk k && unitOf (launchUnit k) ≠ .reserved) fun s =>
      let p := s.cmdPart k
      match s.resolve (launchUnit k) false with
      | .error a => .done s a
      | .ok _ =>
        if !(s.part p).batchOn || (s.launchImg p k).isNone || s.numberTaken p (launchNumber k) || s.launching p (launchNumber k) then refuse s Status.invalidParameter
        else if 16384 ≤ (s.part p).batchQ.length then refuse s Status.batchFull
        else
          let s := s.modPart p fun q => { q with batchQ := insertLast BatchReq.accepted { cmd := k, accepted := s.acceptTick k } q.batchQ }
          .later (if (s.part p).fill ≤ (s.part p).batchQ.length then s.formBatch p else s)

/-- BATCHER_DEADLINE (R322): the oldest request has waited DEADLINE. -/
def execBatcherDeadline (p : Nat) (s : State) : Host.Outcome State Fault Refusal :=
  if 16 ≤ p then .refused .noSuchUnit
  else match (s.part p).batchQ with
  | [] => .next s
  | r :: _ => if s.tick < r.accepted + (s.part p).deadline then .next s else .next (s.formBatch p)

/-- BATCHER_CONFIG (R473). -/
def execBatcherConfig (k : Cmd) (s : State) : Host.Outcome State Fault Refusal :=
  let w := k.par 0
  let ok := bf w 63 42 = 0 && bf w 15 1 = 0 && decide (1 ≤ bf w 41 29) && decide (bf w 41 29 ≤ 4096) && decide (5 ≤ bf w 28 16) &&
    decide (bf w 28 16 ≤ 5000) && k.zeroFrom 1
  s.runCmd k { op := 0x030B, gen := 3 } true ok fun s =>
    let p := s.cmdPart k
    let batch := (s.partJobs p).any fun j => match s.job j with | some b => b.batch | none => false
    if !(s.part p).batchQ.isEmpty || batch then refuse s Status.partitionBusy
    else .done (s.modPart p fun q => { q with batcher := w }) { status := Status.success }

/-! ### JOB_START (R71, R170, R172, R183, R274, R417, R524, R585, R653) -/

/-- Cores of this device that run streams of an image in fixed issue, all their streams of it asking for it. -/
def State.wantsFixed (s : State) (img : Image) (c : Nat) : Bool := ((s.streams img).filter fun t => t.core = c).all (·.fixed)

/-- Whether a core holds groups of another job than `j`. -/
def Core.shared (k : Core) (j : Nat) : Bool := k.groups.any fun x => match x.2.job with
  | some i => i ≠ j
  | none => false

/-- A group as a job's start leaves it: its start values (R172), at the stream's entry point. -/
def startGrp (j entry : Nat) : Grp := { Grp.reset with job := some j, run := .running, pc := BitVec.ofNat 14 entry }

/-- The jobs that count on the cores and slices of some clusters noted (R589). -/
def State.noteCounting (s : State) (cls : List Nat) : State :=
  cls.foldl (fun s cl =>
    ((upFrom (8 * cl) 8).foldl (fun (s : State) c => s.modCore c fun k => { k with cnt := k.cnt.joined (s.coreJobs c) }) s).modCluster cl
      fun k => { k with deckCnt := k.deckCnt.joined (s.sliceJobs cl) }) s

/-- The streams of a job started on their cores; a core that two jobs share runs in free issue, noted for both. DESIGN CHOICE (log
entry 126): it stays so, with the later job's ring, when one of the two ends. -/
def State.startStreams (s : State) (j : Nat) (img : Image) : State :=
  let s := (s.streams img).foldl (fun s t => t.groups.foldl (fun s g => s.setGrp t.core g (startGrp j t.entry)) s) s
  let s := s.noteCounting (clustersOf (s.footprint img))
  (s.streamCores img).foldl (fun s c =>
    let fixed := s.wantsFixed img c
    let asked := (s.streams img).any fun t => t.core = c && t.fixed
    let shared := (s.core c).shared j
    let ring := (((s.streams img).find? fun t => t.core = c && t.fixed).map (·.ring)).getD []
    let others := ((s.core c).groups.filterMap fun x => x.2.job).eraseDups.filter (· ≠ j)
    let note (s : State) (i : Nat) : State := s.modJob i fun b => { b with fixedOverride := true, result := b.wcet + 2 ^ 32 }
    let s := if asked && (!fixed || shared) then note s j else s
    let s := if shared && (s.core c).fixed then others.foldl note s else s
    s.modCore c fun k => { k with fixed := fixed && !shared, ring := ring }) s

/-- The counter intervals that a launch begins on the cores, engines and slices of its footprint (R585). -/
def State.beginCounters (s : State) (f : List (Nat × Option Nat)) (t : CntTags) : State :=
  let s := ((f.map (·.1)).eraseDups).foldl (fun s c => s.modCore c fun x => { x with cnt := x.cnt.begin_ s.stamp t (s.coreJobs c) }) s
  (clustersOf f).foldl (fun s cl => s.modCluster cl fun x =>
    { x with engCnt := x.engCnt.begin_ s.stamp t (s.engineJobs cl), deckCnt := x.deckCnt.begin_ s.stamp t (s.sliceJobs cl) }) s

/-- Whether the cores of a footprint can run: none is being cleared or tested (R189, R551). -/
def State.coresReady (s : State) (f : List (Nat × Option Nat)) : Bool :=
  f.all fun x =>
    let k := s.core x.1
    decide (k.busyUntil ≤ s.tick) && (match k.test with | some t => !t.active | none => true)

/-- Whether the clusters whose streams start at tick 0 are awake (R602). -/
def State.awake (s : State) (img : Image) : Bool :=
  (s.firstStarts img).all fun x => x.2 ≠ 0 || (s.wakeTicks x.1 = 0 && decide ((s.cluster x.1).wakeAt ≤ s.tick))

/-- JOB_START: a job chosen to start begins on all its units. A job of several devices begins at the tick that they share (R71); a
device that cannot begin then fails for the job, as R439 has it of a committed change (DESIGN CHOICE, log entry 124). -/
def execJobStart (j : Nat) (s : State) : Host.Outcome State Fault Refusal :=
  match s.job j with
  | none => .next s
  | some b => match s.jobImage b with
    | none => .next s
    | some img =>
      let f := s.jobFootprint j
      let able := s.coresReady f && s.awake img
      if b.phase ≠ .starting || decide (s.tick < b.launchTick) then .next s
      else if s.spans b && (!able || decide (b.launchTick < s.tick)) then .next (s.failOpen [j])
      else if !able then .next s
      else
        let s := img.sems.foldl (fun s x => s.modCluster x.1 fun k => { k with sem := NMap.set k.sem x.2 0 0 }) s
        let pins := s.takePins
        let s := (s.pinSlots true pins).setJob j (some { b with phase := .running, launchTick := s.tick, stick := 0, pins := pins })
        let s := s.startStreams j img
        let s := s.beginCounters f b.tags
        let s := b.origins.foldl (fun s k => s.modQueue k.queue fun h => { h with started := satN 64 (h.started + 1) }) s
        .next (s.snapshot j 0)

/-! ### JOB_COMPLETE (R230, R516, R520) -/

/-- Whether every group of a job has ended and no work of it is left. -/
def State.jobIdle (s : State) (j : Nat) : Bool :=
  (s.jobGroups j).all (fun x => (s.grp x.1 x.2).run = .ended && (s.grp x.1 x.2).slots.isEmpty && (s.grp x.1 x.2).posts.isEmpty) &&
    s.cores.all (fun k => k.2.arr.queues.all fun q => q.2.all fun o => o.job ≠ j) &&
    s.clusters.all fun c =>
      c.2.dma.all (fun q => q.2.all fun d => d.job ≠ j) && c.2.lookups.all (fun l => !l.source.ofJob j) &&
        c.2.lookWait.all fun l => !l.source.ofJob j

/-- JOB_COMPLETE: a job whose work is done and whose last step has committed completes with SUCCESS. One whose stop has
come, with no commit point left, ends with the stop's status (R430). What other devices have told of the job's end sets its end here
(R57, R71, log entry 102). -/
def execJobComplete (e : JobEnd) (s : State) : Host.Outcome State Fault Refusal :=
  let j := e.job
  match s.job j with
  | none => .next s
  | some b => match s.jobImage b with
    | none => .next s
    | some img =>
      if !e.peers.isEmpty then .next (s.setJob j (some (e.peers.foldl Job.hear b)))
      else if b.phase ≠ .running || b.ending.isSome || !s.jobIdle j then .next s
      else if img.steps.length ≤ b.nextCommit.toNat then .next (s.endJob j { status := Status.success })
      else match b.stopAt with
      | some (t, st) =>
        if img.steps.length ≤ b.epoch.toNat && decide (t ≤ b.stick) then .next (s.endJob j { status := st, unit := devRef s.device })
        else .next s
      | none => .next s

/-! ### Aborts and accounts -/

/-- JOB_ABORT (R522): it completes with the job. -/
def execJobAbort (k : Cmd) (s : State) : Host.Outcome State Fault Refusal :=
  s.runCmd k { op := 0x0302, gen := 1 } true (k.zeroFrom 0) fun s =>
    let j := 8 * s.cmdPart k + k.job
    if 8 ≤ k.job || (s.job j).isNone then refuse s Status.invalidParameter
    else .later (s.stopJob j { status := Status.jobAborted } [k])

/-- JOB_COUNTERS (R525, R588): a read that coincides with the counters' reset of its tick, a free choice, writes what they held before
(log entry 121). -/
def execJobCounters (k : Cmd) (s : State) : Host.Outcome State Fault Refusal :=
  s.runCmd k { op := 0x0306, gen := 2 } true (k.topZero 0 10 && aligned32 (k.par 1) && k.zeroFrom 2) fun s =>
    let q := (k.par 0).toNat
    let h := s.queue q
    if h.st = .absent then refuse s Status.invalidParameter
    else if h.fn ≠ s.cmdFn k then refuse s Status.notPermitted
    else
      let now := [h.submitted, h.started, h.completed, h.aborted, h.preempted]
      let (l, meets) := match h.before with
        | some (t, old) => if t = s.tick && s.freeAt 1 0 = 1 then (old, 1) else (now, 0)
        | none => (now, 0)
      .done ((s.used 1).hostWrite (k.par 1).toNat (l.flatMap fun n => leBytes 8 n)) { status := Status.success, result := meets, paths := 1 }

/-! ### LOOKUP_SUBMIT (R233, R472, R665) -/

/-- Virtual addresses of the parameter blocks of the clusters, or the first refused page. DESIGN CHOICE (log entry 127): an entry of the
list has 8 bytes, of which bits [51:0] count, and one that is no multiple of 32 is refused. -/
def State.blockAddresses (s : State) (p va : Nat) (group : Bool) (n : Nat) : Except (Refuse × Nat) (List Nat × Bool × State) :=
  if !group then .ok ([va], false, s)
  else match s.translateEngine p va (8 * n) false with
  | .error e => .error e
  | .ok _ =>
    let (xs, s) := s.readVa none p va ((8 * n + 31) / 32)
    let b := sectorBytes xs
    .ok ((List.range n).map fun i => fromLe ((b.drop (8 * i)).take 8) % 2 ^ 52, xs.any (·.poison), s)

/-- The parameter blocks read one after another: their words, whether one is poisoned, or a refused page. -/
def State.readBlocks (s : State) (p : Nat) : List Nat → Except (Refuse × Nat) (List (List Word64) × Bool × State)
  | [] => .ok ([], false, s)
  | va :: t => match s.translateEngine p va 64 false with
    | .error e => .error e
    | .ok _ =>
      let (xs, s) := s.readVa none p va 2
      let b := sectorBytes xs
      let w := (List.range 8).map fun i => BitVec.ofNat 64 (fromLe ((b.drop (8 * i)).take 8))
      match State.readBlocks s p t with
      | .error e => .error e
      | .ok (ws, bad, s) => .ok (w :: ws, bad || xs.any (·.poison), s)

/-- LOOKUP_SUBMIT: every block is read, then each cluster's engine receives its own. -/
def execLookupSubmit (k : Cmd) (s : State) : Host.Outcome State Fault Refusal :=
  let u := k.unitAt 1
  let va := (k.par 0).toNat
  let (form, group) := match unitOf u with
    | .cluster _ _ => (true, false)
    | .core _ _ => (true, false)
    | .group _ => (true, true)
    | _ => (false, false)
  s.runCmd k { op := 0x0301, gen := 1, fw := false, mem := true } (s.unitIn u (s.cmdPart k) (s.cmdFn k))
      (k.topZero 0 52 && k.topZero 1 32 && k.zeroFrom 2 && form && va % 32 = 0) fun s =>
    match s.resolve u true with
    | .error a => .done s a
    | .ok cores =>
      let p := s.cmdPart k
      let cls := clustersHolding (cores.map (·.2))
      match s.blockAddresses p va group cls.length with
      | .error e => s.refusePage k e 0 Status.translationFault
      | .ok (vas, bad, t) =>
        if bad || vas.any fun a => a % 32 ≠ 0 then refuse t Status.invalidParameter
        else match t.readBlocks p vas with
        | .error e => t.refusePage k e 0 Status.translationFault
        | .ok (ws, bad, t) =>
          if bad then refuse t Status.invalidParameter
          else
            let t := (cls.zip ws).foldl (fun (t : State) x => t.modCluster x.1 fun c =>
              { c with lookWait := c.lookWait ++ [{ source := .host k, part := p, words := x.2, epoch := 0 }] }) t
            .later { t with lookCmds := t.lookCmds ++ [{ cmd := k, left := cls.length, code := 0, distinct := 0, unit := 0 }] }

end Sys2Proof.Machine
end

