-- ==== Sys2Proof/Machine/Images.lean ====
section
/-!
DEFINITION. IMAGE_LOAD and IMAGE_UNLOAD (R77, R78, R181, R211, R342, R390, R404, R412, R428, R476, R508, R533, R536, R568).
-/

namespace Sys2Proof.Machine

open Sys2Proof

/-! ### What an image must keep -/

/-- Gaps between the successive numbers of a list, the first from 0. -/
def gaps : Nat → List Nat → List Nat
  | _, [] => []
  | a, b :: t => (b - a) :: gaps b t

/-- Slip points: the header's interval and H are in range, and no gap exceeds the interval (R77). -/
def slipsOk (i : Image) : Bool :=
  decide (1000 ≤ i.slipInterval) && decide (i.slipInterval ≤ 20000) && decide (1 ≤ i.horizon) && decide (i.horizon ≤ 4) &&
    (gaps 0 i.slipPoints).all fun g => decide (g ≤ i.slipInterval)

/-- Steps are no longer than 2,000 ticks (R77). -/
def stepsOk (i : Image) : Bool := (gaps 0 (i.steps.map (·.tick))).all fun g => decide (g ≤ 2000)

/-- Whether no operation is between its issue and its WCET tick at a schedule tick (R73). -/
def clearAt (i : Image) (t : Nat) : Bool := i.spans.all fun x => decide (t ≤ x.issue) || decide (x.wcet ≤ t)

/-- R73 for slip points, commit points, cheap points and windows (R342). -/
def pointsOk (i : Image) : Bool :=
  (i.slipPoints ++ i.steps.map (·.tick) ++ i.cheaps.map (·.tick) ++ i.windows.map (·.tick)).all (clearAt i)

/-- Last schedule tick of an image. -/
def lastTick (i : Image) : Nat := (i.steps.map (·.tick)).foldl max 0

/-- Maintenance windows: their length, and one of at least 20,000 ticks in every 100,000,000 for each stack mapped (R342). The first span
begins with tick 0, one tick before it stands what a window before it would be. -/
def windowsOk (i : Image) : Bool :=
  (i.windows.all fun w => decide (1000 ≤ w.length) && decide (w.length ≤ 200000)) &&
    i.hbmStacks.all fun n =>
      let ts := (i.windows.filter fun w => w.stack = n && decide (20000 ≤ w.length)).map (·.tick + 1)
      (gaps 0 (sortBy id ts ++ [max (lastTick i + 1) (ts.foldl max 0)])).all fun g => decide (g ≤ 100000000)

/-- Sectors and class S places that an image reserves in one tick of a port direction. -/
def reserved (i : Image) (x : SlotImg) : Nat × List Nat :=
  let l := i.slots.filter fun y => y.port = x.port && y.receive = x.receive && y.tick = x.tick
  (sumN (l.map (·.places.length)), l.flatMap fun y => y.tokens.flatMap placesOf)

/-- Slot tables: the elastic minimum stays free (R78), a 64 Gbit/s port carries no scheduled sector (R404), the port is up
(R390), at most 8 tokens a tick, each in a class S place of its own (R411, R412), and the port is in the partition's share (R508). -/
def State.slotsOk (s : State) (p : Nat) (i : Image) : Bool :=
  i.slots.all fun x =>
    let k := s.port x.port
    let r := reserved i x
    decide (r.1 + bf k.cfg 15 10 ≤ 36) && r.2.all (fun a => decide (6 ≤ a) && decide (a ≤ 13)) && noDup r.2 && (x.places.isEmpty || !k.rate64) && k.st = .up &&
      ((x.places.isEmpty && x.tokens.isEmpty) || bit ((s.part p).recWords.getD 1 0) (32 + x.port))

/-- A ring entry of a core that holds some groups of the job (R181). -/
def ringEntryOk (groups : List Nat) (e : BitVec 16) : Bool :=
  let a := bf e 12 8
  let b := bf e 4 0
  let ok (g : Nat) : Bool := g = 0x1F || groups.contains g
  bf e 15 13 = 0 && bf e 7 5 = 0 && ok a && ok b && (a ≠ b || a = 0x1F)

/-- Issue rings of 1 to 256 entries (chapter 05, R181). -/
def State.ringsOk (s : State) (i : Image) : Bool :=
  (s.streams i).all fun t =>
    let groups := ((s.streams i).filter fun u => u.core = t.core).flatMap (·.groups)
    !t.fixed || (t.ring.all (ringEntryOk groups) && decide (1 ≤ t.ring.length) && decide (t.ring.length ≤ 256))

/-- Cheap points that a stream's code names are points of the image. -/
def State.marksOk (s : State) (i : Image) : Bool :=
  (s.streams i).all fun t => t.code.all fun w => bf w 63 56 ≠ 0x7B || i.cheaps.any fun c => c.index = bf w 15 0

/-- No slip point lies where a Ceiling is under way (R428), and H steps hold a Ceiling (R533). -/
def State.ceilingsOk (s : State) (i : Image) : Bool :=
  let d := 2 * s.ceil.diam + 12
  let ts := i.steps.map (·.tick)
  (ts.all fun c => i.slipPoints.all fun t => decide (t ≤ c) || decide (c + d ≤ t)) &&
    (ts.zip (ts.drop i.horizon)).all fun x => decide (x.1 + d ≤ x.2)

/-- Replay cores (R536). -/
def State.replaysOk (s : State) (p : Nat) (i : Image) : Bool :=
  let cores := s.streamCores i
  cores.all fun c => match replayOf i c with
    | none => false
    | some r => !cores.contains r && ((s.partClusters p).length ≤ 1 || r / 8 ≠ c / 8)

/-- Whether everything that an image names on this device lies in the partition and on the device. -/
def State.insideOk (s : State) (p : Nat) (i : Image) : Bool :=
  let cls := s.partClusters p
  (s.footprint i).all (fun x => cls.contains (x.1 / 8)) && i.sems.all (fun x => cls.contains x.1 && decide (x.2 < 256)) &&
    i.dmaQueues.all (fun x => cls.contains x.1 && decide (x.2 < 4)) && i.slots.all (fun x => decide (x.port < 16)) &&
    (s.streams i).all fun t => t.groups.all (fun g => decide (g < 16)) && decide (t.base + t.code.length ≤ 16384)

/-- Instruction-memory ranges of an image on this device: core, first index, first index above. -/
def State.codeRanges (s : State) (i : Image) : List (Nat × Nat × Nat) :=
  (s.streams i).map fun t => (t.core, t.base, t.base + t.code.length)

/-- Whether an image's instruction memory is free of that of the loaded images. -/
def State.roomOk (s : State) (i : Image) : Bool :=
  let used := s.images.flatMap fun x => match x.2 with
    | some l => s.codeRanges l.img
    | none => []
  (s.codeRanges i).all fun a => used.all fun b => a.1 ≠ b.1 || decide (a.2.2 ≤ b.2.1) || decide (b.2.2 ≤ a.2.1)

/-- Whether the module loads an image into partition `p`. -/
def State.imageOk (s : State) (p : Nat) (i : Image) : Bool :=
  slipsOk i && stepsOk i && pointsOk i && windowsOk i && s.insideOk p i && s.slotsOk p i && s.ringsOk i && s.marksOk i && s.ceilingsOk i &&
    s.replaysOk p i && s.roomOk i

/-! ### Loading -/

/-- Bytes of instruction memory, from a core's instruction index on, replaced. -/
def State.putCode (s : State) (c base : Nat) (code : List Word64) : State :=
  { s with imem := putBytes s.imem (c * 2 ^ 17 + 8 * base) (wordBytes code) }

/-- A handle that no loaded image has; which one is not stated. -/
def State.freeHandle (s : State) : Nat :=
  let h := (s.freeAt 16 0).toNat
  (firstOr 0 (fun i => (s.image ((h + i) % 65536)).isNone) (List.range 65536) + h) % 65536

/-- An image with the digests that its bytes give (R568): of what the signature covers, and of the signer's key. -/
def Image.withDigests (i : Image) (b : List Byte) : Image :=
  { i with digest := digestWord (digestOf (imageCovered b)), signer := digestWord (digestOf (Config.imageKey b)) }

/-- IMAGE_LOAD: the signature first (R568), then the checks of R77 and of the rules that cite it; the image's streams are
put into instruction memory. -/
def execImageLoad (k : Cmd) (img : Image) (s : State) : Host.Outcome State Fault Refusal :=
  s.runCmd k { op := 0x0303, gen := 1 } true (aligned32 (k.par 0) && k.topZero 1 40 && k.zeroFrom 2) fun s =>
    let b := s.hostRead (k.par 0).toNat (k.par 1).toNat
    let img := Image.withDigests img b
    if !imageSigned b then refuse s Status.signatureInvalid
    else if !s.imageOk (s.cmdPart k) img then refuse s Status.imageRefused
    else
      let h := s.freeHandle
      let s := (s.streams img).foldl (fun s t => s.putCode t.core t.base t.code) (s.used 1)
      .done { s with images := NMap.set s.images h (some { part := s.cmdPart k, img := img }) none } { status := Status.success, result := h }

/-- Whether a held job or a batcher request uses an image. -/
def State.imageUsed (s : State) (h : Nat) : Bool :=
  (s.heldJobs.any fun j => match s.job j with
    | some b => b.image = h
    | none => false) || s.parts.any fun p => p.2.batchQ.any fun r => launchImage r.cmd = h

/-- IMAGE_UNLOAD (R476). -/
def execImageUnload (k : Cmd) (s : State) : Host.Outcome State Fault Refusal :=
  s.runCmd k { op := 0x0304, gen := 1 } true (k.topZero 0 16 && k.zeroFrom 1) fun s =>
    let h := bf (k.par 0) 15 0
    match s.image h with
    | none => refuse s Status.invalidParameter
    | some l =>
      if l.part ≠ s.cmdPart k then refuse s Status.invalidParameter
      else if s.imageUsed h then refuse s Status.partitionBusy
      else .done { s with images := NMap.erase s.images h } { status := Status.success }

end Sys2Proof.Machine
end

