-- ==== Sys2Proof/Machine/Partitions.lean ====
section
/-!
DEFINITION. PARTITION_CONFIG, PARTITION_RESET, SLICE_CONFIG (R503 to R515), GEN_CONFIG and the sequence commands (R303 to
R308).
-/

namespace Sys2Proof.Machine

open Sys2Proof

/-! ### Partitions (R503 to R507) -/

/-- Clusters and ports of a partition record. -/
def recClusters (r : List Word64) : Word64 := r.getD 0 0 &&& 0xFFFFFFFFFFFF
def recPorts (r : List Word64) : Nat := bf (r.getD 1 0) 47 32
/-- Valid ranges of a record in 256 MiB units: first, first above. -/
def recRanges (r : List Word64) : List (Nat × Nat) :=
  (r.drop 2).filterMap fun w => if bit w 31 then some (bf w 27 16, bf w 27 16 + bf w 11 0) else none

/-- A record without a reserved field or value (R505). -/
def recOk (r : List Word64) : Bool :=
  bf (r.getD 0 0) 63 48 = 0 && bf (r.getD 1 0) 63 48 = 0 && bf (r.getD 1 0) 23 0 = 0 && decide (recCredits r ≤ 48) &&
    (r.drop 2).all fun w =>
      bf w 63 32 = 0 && bf w 30 28 = 0 && bf w 15 12 = 0 && decide (bf w 27 16 < 3072) && decide (bf w 11 0 ≤ 3072) &&
        (!bit w 31 || bf w 11 0 ≠ 0)

/-- Whether a range lies in HBM, clear of the table area and of lost stacks (R506). -/
def State.rangeOk (s : State) (x : Nat × Nat) : Bool :=
  decide (x.2 ≤ 3072) && (decide (x.2 ≤ 252) || decide (256 ≤ x.1)) &&
    (List.range 12).all fun n => !(s.stack n).lost || decide (x.2 ≤ 256 * n) || decide (256 * n + 256 ≤ x.1)

/-- Whether a record of partition `p` keeps R506. -/
def State.recFits (s : State) (p : Nat) (r : List Word64) : Bool :=
  let others := (List.range 16).filter (· ≠ p)
  recOk r && (recRanges r).all s.rangeOk &&
    (others.all fun q =>
      let o := (s.part q).recWords
      recClusters r &&& recClusters o = 0 && recPorts r &&& recPorts o = 0 &&
        (recRanges r).all fun x => (recRanges o).all fun y => decide (x.2 ≤ y.1) || decide (y.2 ≤ x.1)) &&
    decide (recCredits r + sumN (others.map fun q => recCredits (s.part q).recWords) ≤ 48)

/-- Whether a mapping of a partition targets HBM inside some ranges and Deck inside some clusters (R507). -/
def Leaf.inside (l : Leaf) (r : List Word64) : Bool :=
  match l.target l.va with
  | .hbm a => (recRanges r).any fun x => decide (x.1 * 2 ^ 28 ≤ a) && decide (a + l.size ≤ x.2 * 2 ^ 28)
  | .deck a => bit (recClusters r) (deckCluster a)
  | _ => true

/-- Whether a partition can take a new record now (R507). -/
def State.partIdle (s : State) (p : Nat) (r : List Word64) : Bool :=
  (s.partJobs p).isEmpty && (s.images.all fun x => match x.2 with
    | some l => l.part ≠ p
    | none => true) &&
    (s.regions.all fun x => match x.2 with
    | some g => bf g.w0 59 56 ≠ p || !bit g.w0 63
    | none => true) && s.leaves.all fun l => l.part ≠ p || l.inside r

/-- Queues of a deleted partition stop (R507). -/
def State.stopQueues (s : State) (p : Nat) : State :=
  (s.queues.filter fun x => x.2.part = p && x.2.st ≠ .absent).foldl (fun s x => s.modQueue x.1 fun h => h.stop 1) s

/-- PARTITION_CONFIG (R505 to R507). CLUSTERS = 0 deletes the partition: its record is that of an undefined one. -/
def execPartitionConfig (k : Cmd) (s : State) : Host.Outcome State Fault Refusal :=
  s.runCmd k { op := 0x0004, gen := 2, pf := true } true (aligned32 (k.par 0) && k.zeroFrom 1) fun s =>
    let p := s.cmdPart k
    let r := s.hostWords (k.par 0).toNat 10
    if !s.recFits p r then refuse s Status.invalidParameter
    else if recClusters r = 0 then
      if !s.partIdle p Part.reset.recWords then refuse s Status.partitionBusy
      else
        let t := s.modPart p fun q => { q with recWords := Part.reset.recWords }
        .done (if recClusters (s.part p).recWords = 0 then t else t.stopQueues p) { status := Status.success }
    else if !s.partIdle p r then refuse s Status.partitionBusy
    else
      let u := s.modPart p fun q => { q with recWords := r }
      .done (u.placeDefaults (u.ownedClusters.filter fun cl => !s.ownedClusters.contains cl)) { status := Status.success }

/-- Every job, queued join and batcher request of a partition ended with JOB_ABORTED (R510). -/
def State.abortPart (s : State) (p : Nat) : State :=
  let s := (s.partJobs p).foldl (fun s j => s.stopJob j { status := Status.jobAborted } []) s
  let s := (s.part p).joins.foldl (fun s x => s.complete x.cmd { status := Status.jobAborted }) s
  let s := (s.part p).batchQ.foldl (fun s r => s.completeCmd r.cmd { status := Status.jobAborted }) s
  s.modPart p fun q => { q with joins := [], batchQ := [] }

/-- Every core of a partition reset, and its clusters' engine and slice counters (R613). -/
def State.resetPartCores (s : State) (p : Nat) : State :=
  (s.partClusters p).foldl (fun s cl =>
    (s.resetCluster cl).modCluster cl fun k => { k with engCnt := CntSet.reset, deckCnt := CntSet.reset }) s

/-- A partition's cores reset once none of its jobs is left (R510, R611), and the PARTITION_RESETs that asked for it completed. -/
def State.finishReset (s : State) (p : Nat) : State :=
  if (s.part p).resets.isEmpty then s
  else
    let s := s.abortPart p
    if !(s.partJobs p).isEmpty then s
    else
      let cmds := (s.part p).resets.filterMap id
      let s := (s.resetPartCores p).modPart p fun q => { q with resets := [] }
      cmds.foldl (fun s k => s.complete k { status := Status.success }) s

/-- A reset of a partition's cores asked for: its jobs are aborted first. -/
def State.askReset (s : State) (p : Nat) (k : Option Cmd) : State :=
  (s.modPart p fun q => { q with resets := q.resets ++ [k] }).finishReset p

/-- PARTITION_RESET (R510, R522): it completes once the partition's jobs have ended and its cores are reset. -/
def execPartitionReset (k : Cmd) (s : State) : Host.Outcome State Fault Refusal :=
  s.runCmd k { op := 0x0005, gen := 2, pf := true } true (k.zeroFrom 0) fun s =>
    .later (s.askReset (s.cmdPart k) (some k))

/-! ### Slices (R514, R515) -/

/-- The reserved and out-of-range values of a slice record. -/
def sliceOk (w0 w1 w2 : Word64) : Bool :=
  decide (1000 ≤ bf w0 63 32) && decide (1 ≤ bf w0 31 0) && bf w1 63 52 = 0 && bf w1 15 0 = 0 && bf w2 63 44 = 0 &&
    bf w2 31 16 = 0 && decide (1 ≤ bf w2 15 0)

/-- SLICE_CONFIG (R515): the eight save areas, none with SAVE_UNITS = 0, must lie in writable local HBM. -/
def execSliceConfig (k : Cmd) (s : State) : Host.Outcome State Fault Refusal :=
  s.runCmd k { op := 0x0305, gen := 2, pf := true } true (sliceOk (k.par 0) (k.par 1) (k.par 2) && k.zeroFrom 3) fun s =>
    let p := s.cmdPart k
    let w := [k.par 0, k.par 1, k.par 2]
    if !(s.partJobs p).isEmpty then refuse s Status.partitionBusy
    else
      let q := { s.part p with slice := w }
      match s.translateEngine p q.saveVa (8 * q.saveUnits * 65536) true with
      | .error e => s.refusePage k e 0 Status.invalidParameter
      | .ok ls =>
        if ls.all fun l => l.kind = 0 then .done (s.modPart p fun q => { q with slice := w }) { status := Status.success }
        else refuse s Status.invalidParameter

/-! ### Generation (R303 to R308) -/

/-- A generation record as the partition keeps it: its reserved bits are ignored when written and read as 0 (R15, R306). -/
def genRecord (ws : List Word64) : List Word64 :=
  List.zipWith (· &&& ·) ws [0x000FFFFFFFFFFFFF, 0x000FFFFFFFFFFFFF, 0x000000FFFFFFFFF0, 0x00001FFFFFFFFFF8]

/-- Whether no field of a generation record is misaligned or out of range; while SLOTS is 0 the pool may be empty. -/
def genOk (p : Part) : Bool :=
  bf (p.genWord 0) 15 0 = 0 && bf (p.genWord 1) 4 0 = 0 &&
    decide (p.slots ≤ 4096) && (p.slots = 0 || (p.poolBlocks ≠ 0 && p.blockBytes ≠ 0))

/-- The translation of the pool and then of the generation area of a record (R307). -/
def State.genMapped (s : State) (n : Nat) (p : Part) : Except (Refuse × Nat) (List Leaf) :=
  match s.translateEngine n p.poolVa (p.poolBlocks * p.blockBytes) true with
  | .ok _ => s.translateEngine n p.areaVa p.areaBytes true
  | .error e => .error e

/-- Whether a generation job of a partition is running. -/
def State.generates (s : State) (p : Nat) : Bool :=
  (s.partJobs p).any fun j => match s.job j with
    | some b => b.phase ≠ .waiting && (match s.jobImage b with
      | some i => i.gen.isSome
      | none => false)
    | none => false

/-- GEN_CONFIG (R306, R307). -/
def execGenConfig (k : Cmd) (s : State) : Host.Outcome State Fault Refusal :=
  s.runCmd k { op := 0x0307, gen := 3 } true (aligned32 (k.par 0) && k.zeroFrom 1) fun s =>
    let p := s.cmdPart k
    let w := genRecord (s.hostWords (k.par 0).toNat 4)
    let q := { s.part p with gen := w }
    if !genOk q then refuse s Status.invalidParameter
    else if s.generates p then refuse s Status.partitionBusy
    else match s.genMapped p q with
    | .error e => s.refusePage k e 0 Status.invalidParameter
    | .ok _ => .done (s.modPart p fun q => { q with gen := w }) { status := Status.success }

/-- Whether a partition has a sequence of some handle, queued or running. -/
def Part.hasHandle (p : Part) (h : Word32) : Bool := (p.joins.any fun j => j.handle = h) || p.seqs.any fun q => q.2.handle = h

/-- SEQ_JOIN (R302 to R304): queued in the order of acceptance; the tick that counts is that of its acceptance. -/
def execSeqJoin (k : Cmd) (s : State) : Host.Outcome State Fault Refusal :=
  let len := bf (k.par 2) 16 0
  let new := bf (k.par 3) 63 32
  let h : Word32 := k.unitAt 3
  let va := (k.par 0).toNat
  let ok := k.topZero 0 52 && va % 32 = 0 && k.topZero 2 37 && bf (k.par 2) 31 17 = 0 && decide (1 ≤ len) && decide (len ≤ 65536) &&
    decide (1 ≤ new) && h ≠ 0xFFFFFFFF && k.zeroFrom 4
  s.runCmd k { op := 0x0308, gen := 3 } true ok fun s =>
    let n := s.cmdPart k
    let p := s.part n
    match firstFail
      [(!p.hasHandle h, Status.handleInUse), (decide (len + new ≤ 64 * p.maxBlocks), Status.invalidParameter),
       (decide (p.joins.length < 16384), Status.joinQueueFull)] with
    | some st => refuse s st
    | none => match s.translateEngine n va (4 * len) false with
      | .error e => s.refusePage k e 0 Status.invalidParameter
      | .ok _ =>
        let j : Join := { cmd := k, at_ := s.acceptTick k, handle := h, beams := bf (k.par 2) 36 32 + 1, promptLen := len, maxNew := new,
                          seed := k.par 1 }
        .later (s.modPart n fun p => { p with joins := insertLast Join.at_ j p.joins })

/-- SEQ_LEAVE (R302, R305). -/
def execSeqLeave (k : Cmd) (s : State) : Host.Outcome State Fault Refusal :=
  s.runCmd k { op := 0x0309, gen := 3 } true (k.topZero 0 32 && k.zeroFrom 1) fun s =>
    let n := s.cmdPart k
    let h := k.unitAt 0
    match (s.part n).joins.find? fun j => j.handle = h with
    | some j =>
      let s := s.modPart n fun p => { p with joins := p.joins.filter fun x => x.handle ≠ h }
      .done (s.complete j.cmd { status := Status.seqCancelled }) { status := Status.success }
    | none =>
      if (s.part n).seqs.any fun q => q.2.handle = h then
        .later (s.modPart n fun p => { p with leaves := insertLast (fun x => x.2.2) (h, k, s.acceptTick k) p.leaves })
      else refuse s Status.seqUnknown

/-- SEQ_QUERY (R308, R473): the slot record, with what the program wrote in it; a queued sequence has only its handle. -/
def execSeqQuery (k : Cmd) (s : State) : Host.Outcome State Fault Refusal :=
  s.runCmd k { op := 0x030A, gen := 3 } true (k.topZero 0 32 && aligned32 (k.par 1) && k.zeroFrom 2) fun s =>
    let n := s.cmdPart k
    let h := k.unitAt 0
    let a := (k.par 1).toNat
    if (s.part n).joins.any fun j => j.handle = h then
      .done (s.hostWrite a (leBytes 32 (h.toNat * 2 ^ 160))) { status := Status.success, result := 1, paths := 1 }
    else match (s.part n).seqs.find? fun q => q.2.handle = h with
    | none => refuse s Status.seqUnknown
    | some (i, _) =>
      let (w, s) := s.readSlot n i
      let b := (s.part n).slotBytes i
      .done (s.hostWrite a (leBytes 8 (fromLe (b.take 8) + w.advance * 8 + b2n w.done) ++ b.drop 8)) { status := Status.success, paths := 1 }

end Sys2Proof.Machine
end

