-- ==== Sys2Proof/Machine/Slices.lean ====
section
/-!
DEFINITION. Time slices, pre-emption, saving and restoring (R199, R200, R514 to R521).
-/

namespace Sys2Proof.Machine

open Sys2Proof

/-! ### Pending pre-emptions (R517) -/

/-- Whether a waiting or pre-empted job's footprint overlaps that of job `j` of its partition. -/
def State.contended (s : State) (j : Nat) : Bool :=
  (s.partJobs (partOf j)).any fun i =>
    i ≠ j && (match s.job i with
      | some b => !b.active
      | none => false) && overlaps (s.jobFootprint j) (s.jobFootprint i)

/-- The first cheap point of an image at or after a schedule tick. -/
def cheapFrom (i : Image) (t : Nat) : Option CheapImg :=
  (sortBy (·.tick) (i.cheaps.filter fun c => decide (t ≤ c.tick))).head?

/-- The lowest-numbered device of an image: it coordinates the job's start and its pre-emptions. -/
def firstDevice (i : Image) : Nat := i.devices.foldl min (i.devices.headD 0)

/-- Whether this device has asked for a mode change of some content. -/
def State.asking (s : State) (x : McContent) : Bool := s.mcCoord.any fun c => c.content = x

/-- Whether a change may be asked for now: the root is not failed and, where it is this device, has room (R434, R440). -/
def State.canAsk (s : State) : Bool :=
  !s.failedDevs.contains s.ceil.root && (decide (s.ceil.root ≠ s.device) || decide (s.mcRoot.length < 65))

/-- The first device of each waiting job of several devices whose footprint is free asks for the mode change that starts it, in the
order of R516 (R55, R71, log entry 124); a refused one is asked for again. -/
def State.askStarts (s : State) : State :=
  ((s.parts.map (·.1)).flatMap fun p => (slotOrder (s.part p).lastSlot).map fun i => 8 * p + i).foldl (fun s j =>
    match s.job j with
    | none => s
    | some b => match s.jobImage b with
      | none => s
      | some img =>
        let x := McContent.resume (partOf j) b.number
        if b.phase = .waiting && b.ending.isNone && !s.soleDevice img && firstDevice img = s.device && s.footprintFree j && !s.asking x &&
            s.canAsk then
          s.requestChange 0x06 x []
        else s) s

/-- QUANTUM_EXPIRY: at the end of a quantum with a waiter, a pre-emption becomes pending for a cheap point, on several
devices by a mode change of kind 0x06; without one a new slice is counted.
None becomes pending for a job whose groups have all ended (R520). -/
def execQuantumExpiry (j : Nat) (s : State) : Host.Outcome State Fault Refusal :=
  match s.job j with
  | none => .next s
  | some b => match s.jobImage b with
    | none => .next s
    | some img =>
      let p := s.part (partOf j)
      let due := b.sliceStart + p.quantum
      let ended := (s.jobGroups j).all fun x => (s.grp x.1 x.2).run = .ended
      if b.phase ≠ .running || p.saveUnits = 0 || b.pendCheap.isSome || ended || decide (b.stick < due) then .next s
      else if !s.contended j then .next (s.setJob j (some { b with sliceStart := due }))
      else match cheapFrom img (max due (b.stick + 2 * s.ceil.diam + 256)) with
      | none => .next s
      | some c =>
        if s.soleDevice img then .next (s.setJob j (some { b with pendCheap := some c.index }))
        else
          let x := McContent.preempt (partOf j) b.number c.index
          if firstDevice img ≠ s.device || s.asking x then .next s else .next (s.requestChange 0x06 x [])

/-! ### Saving (R199, R518) -/

/-- What a save keeps of a group: the ranges marked, its place in the program, whether it has ended or committed; the rest
takes its start values (R172, R200). -/
def Grp.keep (k : Grp) (r : LiveRegs) : Grp :=
  { Grp.reset with
    job := k.job, run := if k.run = .ended then .ended else .running, pc := k.pc, committed := k.committed,
    mask := if r.stack then k.mask else 0xFFFFFFFF, stack := if r.stack then k.stack else [],
    sregs := k.sregs.filter fun x => r.sregs.contains x.1, vregs := k.vregs.filter fun x => r.vregs.contains (x.1 / 32),
    pregs := k.pregs.filter fun x => r.pregs.contains x.1 }

/-- The live ranges that a cheap point marks for group `g` of core `c`. -/
def CheapImg.regsOf (p : CheapImg) (c g : Nat) : LiveRegs :=
  (p.regs.find? fun r => r.core = c && r.group = g).getD { core := c, group := g, vregs := [], sregs := [], pregs := [], stack := false }

/-- The half of core `c` that a job's stream has, none for the whole core. -/
def State.jobHalf (s : State) (j c : Nat) : Option Nat := ((s.job j).bind s.jobImage).bind fun i => s.streamHalf i c

/-- Whether a cell's key lies in a half: half 0 has columns 0 to 15, half 1 columns 16 to 31 (R151). -/
def cellInHalf (h : Option Nat) (key : Nat) : Bool := match h with
  | some h => decide (key % 32 / 16 = h)
  | none => true

/-- The live ranges of core `c` at a cheap point, for job `j`; of a split core, its half's. -/
def State.liveOf (s : State) (j c : Nat) (p : CheapImg) (epoch : Word32) : Snap :=
  let k := s.core c
  let mine (key : Nat) : Bool := p.banks.contains (key / 1024) && cellInHalf (s.jobHalf j c) key
  { core := c, epoch := epoch, groups := (k.groupsOf j).map fun x => (x.1, x.2.keep (CheapImg.regsOf p c x.1)),
    arr := { Arr.reset with bank := k.arr.bank.filter (fun x => mine x.1), bankPoison := k.arr.bankPoison.filter fun x => mine x.1 },
    store := s.grabStore c ((p.store.filter fun r => r.1 = c).map (·.2)) }

/-- The bytes of a slot's save area written; their layout is not stated, so each sector is a free value. -/
def State.fillSave (s : State) (j bytes : Nat) : State :=
  let p := s.part (partOf j)
  let base := p.saveVa + j % 8 * p.saveUnits * 65536
  (List.range ((bytes + 31) / 32)).foldl (fun s i =>
    (s.writeVa none (partOf j) (base + 32 * i) [(leBytes 32 (s.freeAt 256 0).toNat, false)]).used 1) s

/-- Trace record of a pre-emption or a resumption (R591). -/
def State.tracePreempt (s : State) (j : Nat) (b : Job) (n : Nat) (resumed : Bool) : State :=
  s.trace { part := partOf j, unit := devRef s.device, type := 0x05, cls := 2, job := b.number.toNat, epoch := b.epoch.toNat,
            payload := n * 2 ^ 16 + b2n resumed }

/-- SAVE_END (R294, R516, R518, R524): the marked ranges are saved, the job is pre-empted, and the next jobs start. -/
def execSaveEnd (j : Nat) (s : State) : Host.Outcome State Fault Refusal :=
  match s.job j with
  | none => .next s
  | some b => match s.jobImage b, b.phase with
    | some img, .saving n => match img.cheaps.find? fun c => c.index = n with
      | none => .next s
      | some c =>
        let s := (s.streamCores img).foldl (fun s k => s.noteStore k ((c.store.filter fun r => r.1 = k).map (·.2))) s
        let saved := (s.streamCores img).map fun k => s.liveOf j k c b.epoch
        let s := s.fillSave j c.bytes
        let s := s.cleanClusters (clustersOf (s.jobFootprint j))
        let s := (s.jobGroups j).foldl (fun s x => s.modGrp x.1 x.2 Grp.release) s
        let s := b.origins.foldl (fun s k => s.modQueue k.queue fun h => { h with preempted := satN 64 (h.preempted + 1) }) s
        let s := s.setJob j (some { b with phase := .preempted, saved := saved })
        .next ((s.tracePreempt j b n false).startWaiting (partOf j))
    | _, _ => .next s

/-! ### Restoring (R200, R518) -/

/-- The banks of a cheap point put back, and the other banks left as they stand. -/
def Arr.putBanks (a old : Arr) : Arr :=
  { a with bank := old.bank.foldl (fun m x => NMap.set m x.1 x.2 0) a.bank,
           bankPoison := old.bankPoison.foldl (fun m x => NMap.set m x.1 x.2 false) a.bankPoison }

/-- The cells of a half in some banks emptied before its saved cells are put back. -/
def Arr.dropBanks (a : Arr) (bs : List Nat) (h : Option Nat) : Arr :=
  let keep (key : Nat) : Bool := !(bs.contains (key / 1024) && cellInHalf h key)
  { a with bank := a.bank.filter fun x => keep x.1, bankPoison := a.bankPoison.filter fun x => keep x.1 }

/-- The saved ranges of a job put back into its cores. -/
def State.restoreJob (s : State) (j : Nat) (b : Job) (img : Image) (banks : List Nat) : State :=
  let s := s.startStreams j img
  let s := b.saved.foldl (fun s n =>
    let s := s.modCore n.core fun k =>
      { k with groups := n.groups.foldl (fun m x => NMap.set m x.1 x.2 Grp.reset) k.groups, arr := (k.arr.dropBanks banks (s.jobHalf j n.core)).putBanks n.arr }
    s.putStore n.core n.store) s
  s.modJob j fun b => { b with saved := [] }

/-- A job resumed: its schedule time goes on and a slice begins (R517, R518). The cheap point at which it stopped stays
named until then. -/
def State.resumeJob (s : State) (j : Nat) : State :=
  match s.job j with
  | none => s
  | some b =>
    (s.setJob j (some { b with phase := .running, pendCheap := none, sliceStart := b.stick })).tracePreempt j b (b.pendCheap.getD 0) true

/-- RESTORE_END: the saved ranges are back. On one device the job resumes; on several its coordinator asks for the mode
change that resumes it. -/
def execRestoreEnd (j : Nat) (s : State) : Host.Outcome State Fault Refusal :=
  match s.job j with
  | none => .next s
  | some b => match s.jobImage b with
    | none => .next s
    | some img =>
      if b.phase ≠ .restoring || !s.coresReady (s.jobFootprint j) then .next s
      else
        let banks := ((img.cheaps.find? fun c => b.pendCheap = some c.index).map (·.banks)).getD []
        let s := if b.saved.isEmpty then s else s.restoreJob j b img banks
        if s.soleDevice img then .next (s.resumeJob j)
        else
          let x := McContent.resume (partOf j) b.number
          if firstDevice img ≠ s.device || s.asking x then .next s else .next (s.requestChange 0x06 x [])

/-! ### Overrun (R521) -/

/-- Whether a job has passed its grace or its limit. -/
def State.overrun (s : State) (j : Nat) (b : Job) (img : Image) : Bool :=
  let p := s.part (partOf j)
  let late := match b.pendCheap with
    | some n => (img.cheaps.any fun c => c.index = n && decide (c.tick + p.grace ≤ b.stick)) &&
        (s.jobGroups j).any fun x => (s.grp x.1 x.2).run ≠ .stopped n && (s.grp x.1 x.2).run ≠ .ended
    | none => false
  b.phase = .running && (late || decide (p.limit ≤ b.stick))

/-- SLICE_OVERRUN: the job is aborted, never pre-empted. -/
def execSliceOverrun (j : Nat) (s : State) : Host.Outcome State Fault Refusal :=
  match s.job j with
  | none => .next s
  | some b => match s.jobImage b with
    | none => .next s
    | some img => if s.overrun j b img then .next (s.stopJob j { status := Status.sliceOverrun } []) else .next s

end Sys2Proof.Machine
end

