-- ==== Sys2Proof/Machine/Wire.lean ====
section
/-!
DEFINITION. What goes over a port's lanes: the bytes of a tick frame and of a control frame (R375, R379), their codewords
(R378), their encryption and keys (R380 to R382), the places of a control frame (R410, R411).
-/

namespace Sys2Proof.Machine

open Sys2Proof

/-! ### Codewords (R378, R379) -/

/-- An element of GF(2^10) times x, where x^10 = x^3 + 1. -/
def symShift (a : BitVec 10) : BitVec 10 := if bit a 9 then a <<< 1 ^^^ 9 else a <<< 1

/-- Product in GF(2^10). -/
def symMul (a b : BitVec 10) : BitVec 10 :=
  (List.range 10).foldr (fun i r => if bit b i then symShift r ^^^ a else symShift r) 0

/-- The power of x to a number. -/
def symPow (n : Nat) : BitVec 10 := (List.range n).foldl (fun a _ => symShift a) 1

/-- The generator with roots x^0 to x^(n - 1), without its leading 1, highest degree first. -/
def rsGenerator (n : Nat) : List (BitVec 10) :=
  ((List.range n).foldl (fun g i => List.zipWith (· ^^^ ·) (g ++ [0]) (0 :: g.map (symMul (symPow i)))) [1]).tail

/-- The `n` parity symbols of a message: the remainder of its polynomial, moved up by `n` places, by the generator. -/
def rsParity (n : Nat) (message : List (BitVec 10)) : List (BitVec 10) :=
  let g := rsGenerator n
  message.foldl (fun r m =>
    let f := m ^^^ r.headD 0
    List.zipWith (fun a c => a ^^^ symMul f c) (r.tail ++ [0]) g) (List.replicate n 0)

/-- The `n` symbols of a message's bytes. -/
def symbolsOf (n : Nat) (bytes : List Byte) : List (BitVec 10) :=
  let v := fromLe bytes
  (List.range n).map fun i => BitVec.ofNat 10 (v / 2 ^ (10 * i))

/-- The codewords of a tick frame's message of 1,240 bytes and of a control frame's of 150. -/
def dataWord (message : List Byte) : List (BitVec 10) := let m := symbolsOf 992 message; m ++ rsParity 32 m
def controlWord (message : List Byte) : List (BitVec 10) := let m := symbolsOf 120 message; m ++ rsParity 8 m

/-- Symbols of a codeword that travel on data lane `l`. -/
def laneOf (l : Nat) (w : List (BitVec 10)) : List (BitVec 10) := (w.zipIdx.filter fun x => x.2 % 8 = l).map (·.1)

/-- Symbols of a received word of `n` symbols that the lanes changed. -/
def wrongSymbols (w : Wire) (n : Nat) : Nat :=
  ((w.errors.filter fun x => decide (x.1 < n) && decide (x.2 ≠ 0)).map (·.1)).eraseDups.length

/-! ### Messages (R375, R379) -/

/-- Bytes 0 to 55 of a tick frame. -/
def frameHeader (f : Frame) : List Byte :=
  leBytes 8 f.timestamp.toNat ++ leBytes 4 f.route.toNat ++ leBytes 4 f.sJob.toNat ++ leBytes 4 f.sEpoch.toNat ++
    leBytes 2 f.sLayer.toNat ++ leBytes 2 f.sOperator.toNat ++ leBytes 2 f.nodeLo.toNat ++ leBytes 2 f.nodeLen.toNat ++
    leBytes 4 f.eJob.toNat ++ leBytes 4 f.eEpoch.toNat ++ leBytes 2 f.eLayer.toNat ++ leBytes 2 f.eOperator.toNat ++
    leBytes 2 f.stream.toNat ++ leBytes 4 f.ePos.toNat ++ leBytes 5 f.poison.toNat ++ leBytes 5 f.protect.toNat

/-- Bytes 72 to 1,223 of a tick frame. -/
def framePayload (f : Frame) : List Byte := padTo 1152 (f.payload.flatMap fun x => leBytes 32 x.toNat)

/-- The frame of a header and a payload; reserved bits read as 0. -/
def frameOf (h p : List Byte) : Frame :=
  let v (off n : Nat) : Nat := fromLe ((h.drop off).take n)
  { timestamp := BitVec.ofNat 64 (v 0 8), route := BitVec.ofNat 32 (v 8 4), sJob := BitVec.ofNat 32 (v 12 4), sEpoch := BitVec.ofNat 32 (v 16 4),
    sLayer := BitVec.ofNat 16 (v 20 2), sOperator := BitVec.ofNat 16 (v 22 2), nodeLo := BitVec.ofNat 16 (v 24 2),
    nodeLen := BitVec.ofNat 16 (v 26 2), eJob := BitVec.ofNat 32 (v 28 4), eEpoch := BitVec.ofNat 32 (v 32 4),
    eLayer := BitVec.ofNat 16 (v 36 2), eOperator := BitVec.ofNat 16 (v 38 2), stream := BitVec.ofNat 16 (v 40 2),
    ePos := BitVec.ofNat 32 (v 42 4), poison := BitVec.ofNat 40 (v 46 5 % 2 ^ 36), protect := BitVec.ofNat 40 (v 51 5 % 2 ^ 36),
    payload := (List.range 36).map fun n => BitVec.ofNat 256 (fromLe ((p.drop (32 * n)).take 32)) }

/-! ### Encryption (R380, R381) -/

/-- The nonce of a frame. -/
def nonceOf (salt : List Byte) (counter : Nat) : List Byte := salt ++ beBytes 8 counter

/-- The message of a tick frame: header, tag, payload, spare bytes. -/
def sealFrame (k : KeySet) (counter : Nat) (f : Frame) : List Byte :=
  let h := frameHeader f
  let spare := leBytes 16 0
  let (c, t) := Config.gcmSeal k.dataKey (nonceOf k.dataSalt counter) (h ++ spare) (framePayload f)
  h ++ padTo 16 t ++ padTo 1152 c ++ spare

/-- The frame that a message opens to, if its tag holds. -/
def openFrame (k : KeySet) (counter : Nat) (message : List Byte) : Option Frame :=
  let m := padTo 1240 message
  let h := m.take 56
  (Config.gcmOpen k.dataKey (nonceOf k.dataSalt counter) (h ++ m.drop 1224) ((m.drop 72).take 1152) ((m.drop 56).take 16)).map (frameOf h)

/-- Bytes 0 to 9 of a control frame: TIMESTAMP and CHDR. -/
def controlHeader (stamp : Word64) (phase : Bool) : List Byte := leBytes 8 stamp.toNat ++ leBytes 2 (b2n phase * 2 ^ 15)

/-- The message of a control frame. Before the keys of a bring-up are agreed its tokens go plain, with a tag of zeros
(DESIGN CHOICE, log entry 105). -/
def controlMessage (k : Option KeySet) (counter : Nat) (stamp : Word64) (phase : Bool) (tokens : List Word64) : List Byte :=
  let h := controlHeader stamp phase
  let plain := wordBytes tokens
  match k with
  | none => h ++ leBytes 12 0 ++ plain
  | some k =>
    let (c, t) := Config.gcmSeal k.ctrlKey (nonceOf k.ctrlSalt counter) h plain
    h ++ padTo 12 t ++ padTo 128 c

/-- The tokens that some bytes hold. -/
def tokensOf (b : List Byte) : List Word64 := (List.range 16).map fun i => BitVec.ofNat 64 (fromLe ((b.drop (8 * i)).take 8))

/-- The tokens that a control frame's message opens to, if its tag holds. -/
def openControl (k : KeySet) (counter : Nat) (message : List Byte) : Option (List Word64) :=
  let m := padTo 150 message
  (Config.gcmOpen k.ctrlKey (nonceOf k.ctrlSalt counter) (m.take 10) (m.drop 22) ((m.drop 10).take 12)).map tokensOf

/-- KEY_PHASE of a control frame's message. -/
def controlPhase (message : List Byte) : Bool := bit (BitVec.ofNat 16 (fromLe (((padTo 150 message).drop 8).take 2))) 15

/-! ### Keys of a link (R382) -/

/-- Keys and salts from 72 bytes. -/
def keySetOf (b : List Byte) : KeySet :=
  { dataKey := b.take 32, ctrlKey := (b.drop 32).take 32, dataSalt := (b.drop 64).take 4, ctrlSalt := (b.drop 68).take 4 }

/-- The keys of both directions of a link, from the secrets and ciphertexts of the lower and the higher end: first the direction
away from the lower end. -/
def linkKeys (kl kh cl ch : List Byte) : KeySet × KeySet :=
  let b := derive_ "TVF-LINK" (kl ++ kh ++ cl ++ ch) 144
  (keySetOf b, keySetOf (b.drop 72))

/-- The keys for sending and for receiving that an end derives from its own share and its peer's secret and ciphertext. -/
def endKeys (lower : Bool) (own : KeyShare) (secret cipher : List Byte) : KeySet × KeySet :=
  if lower then linkKeys own.secret secret own.cipher cipher
  else (linkKeys secret own.secret cipher own.cipher).swap

/-! ### The control frame (R410, R411) -/

/-- Tokens of the message with which a queue begins. -/
def messageLen (t : Word64) : Nat := if bf t 63 56 = 0x1B then 3 else if bf t 63 56 = 0x12 || bf t 63 56 = 0x1A then 2 else 1

/-- Places filled so far: place and token. -/
abbrev Places := List (Nat × Word64)

/-- The first of some places from which `n` of them lie consecutively and are empty. -/
def roomAt (used : Places) (ps : List Nat) (n : Nat) : Option Nat :=
  ps.find? fun a => (upFrom a n).all fun i => ps.contains i && !used.any fun x => x.1 = i

/-- Messages of a queue put in order into some places while they fit; `m` bounds them. -/
def fill (used : Places) (ps : List Nat) (q : List Word64) : Nat → Places × List Word64
  | 0 => (used, q)
  | m + 1 =>
    match q with
    | [] => (used, [])
    | t :: _ =>
      let n := messageLen t
      match roomAt used ps n with
      | none => (used, q)
      | some a => fill (used ++ ((q.take n).zipIdx.map fun x => (a + x.2, x.1))) ps (q.drop n) m

/-- The oldest tokens of one type of class U put into its places, in order. -/
def fillType (used : Places) (ps : List Nat) (ty : Nat) (q : List Word64) : Places × List Word64 :=
  let mine := (q.filter fun t => bf t 63 56 = ty).take ps.length
  (used ++ (ps.zip mine), mine.foldl (fun q t => q.erase t) q)

/-- A queue of tokens cut into its messages; `m` bounds them. -/
def messages : Nat → List Word64 → List (List Word64)
  | 0, _ => []
  | m + 1, q =>
    match q with
    | [] => []
    | t :: _ => q.take (messageLen t) :: messages m (q.drop (messageLen t))

/-- Class S places with the jobs whose slot tables name them, each filled with the oldest message that is its own (R411, R420), and
what of the queue still waits. -/
def fillNamed (used : Places) (rs : List (Word32 × SPlace)) (q : List Word64) : Places × List Word64 :=
  let r := rs.foldl (fun (acc : Places × List (List Word64)) r =>
    match acc.2.find? fun m => takesToken r.2.kind r.1 m with
    | some m => (acc.1 ++ ((placesOf r.2).zip m), acc.2.erase m)
    | none => acc) (used, messages q.length q)
  (r.1, r.2.flatten)

/-- The 16 places of a control frame filled from a port's queues, with the class S places reserved in it, and what still waits. -/
def Port.fillControl (k : Port) (reserved : List (Word32 × SPlace)) : List Word64 × Port :=
  let (u, q0) := fillType [] [0] 0x01 k.tokU
  let (u, q0) := fillType u [1, 2] 0x02 q0
  let (u, q0) := fillType u [3] 0x03 q0
  let (u, qm) := fill u [4, 5] k.tokM 2
  let (u, qs) := fillNamed u reserved k.tokS
  let (u, qe) := fill u [14, 15] k.tokE 2
  let all := List.range 16
  let (u, q0) := fill u all q0 16
  let (u, qm) := fill u all qm 16
  let (u, qe) := fill u all qe 16
  (all.map fun i => ((u.find? fun x => x.1 = i).map (·.2)).getD 0, { k with tokU := q0, tokM := qm, tokS := qs, tokE := qe })

/-- A control frame sent (R379 to R381): its tokens, its codeword, the counter of its key. -/
def Port.sendControl (k : Port) (stamp : Word64) (reserved : List (Word32 × SPlace)) : Port :=
  let (ts, k) := k.fillControl reserved
  { k with outTokens := ts, outCtrl := controlWord (controlMessage k.tx k.txCtrl stamp k.keyPhase ts), txCtrl := k.txCtrl + 1 }

end Sys2Proof.Machine
end

