-- ==== Sys2Proof/Machine/Squall.lean ====
section
/-!
DEFINITION. Sensors, notices and the Squall flood (R441 to R444), the critical threshold (R447), FAILED tokens (R429 to
R431, R440), a sequencer's disagreement (R20), the loss of the reference clock (R62).
-/

namespace Sys2Proof.Machine

open Sys2Proof

/-! ### Severities (R441) -/

/-- Lower edge of severity 1 of a sensor in 1/8 degree: stacks are sensors 0 to 11, dies 12 to 15. -/
def sevBase (i : Nat) : Int := if i < 12 then 760 else 800
/-- Lower edge of a severity; bands are 2 degrees apart. -/
def sevEdge (i sev : Nat) : Int := sevBase i + 16 * (sev - 1 : Int)
/-- The critical threshold: 10 degrees above the lower edge of severity 1. -/
def criticalAt (i : Nat) : Int := sevBase i + 80

/-- The band of a reading. -/
def sevBand (i : Nat) (r : Int) : Nat := ((upFrom 1 4).filter fun v => decide (sevEdge i v ≤ r)).length

/-- Severity after a reading: one band down each time it lies 2 degrees below the lower edge of the current band. -/
def sevFall (i : Nat) (r : Int) : Nat → Nat
  | 0 => 0
  | v + 1 => if r ≤ sevEdge i (v + 1) - 16 then sevFall i r v else v + 1

/-- Severity of a sensor whose severity was `old`. -/
def sevNext (i old : Nat) (r : Int) : Nat := sevFall i r (max old (sevBand i r))

def State.sensor (s : State) (i : Nat) : Sensor := NMap.get s.sensors i Sensor.reset
def State.modSensor (s : State) (i : Nat) (f : Sensor → Sensor) : State :=
  { s with sensors := NMap.set s.sensors i (f (s.sensor i)) Sensor.reset }

/-- SOURCE and SENSOR of a sensor as SQUALL names it (R416). -/
def sensorSource (i : Nat) : Nat := if i < 12 then 0 else if i < 16 then 1 else 2
def sensorIndex (i : Nat) : Nat := if i < 12 then i else i - 12

/-! ### The flood (R443) -/

/-- SQUALL (R416). -/
def squallToken (origin sev source sensor : Nat) : Word64 :=
  token 0x01 (origin * 2 ^ 46 + sev * 2 ^ 43 + source * 2 ^ 41 + sensor * 2 ^ 37)

/-- Whether a waiting token is a SQUALL of less than some severity. -/
def lesserSquall (sev : Nat) (t : Word64) : Bool := bf t 63 56 = 1 && decide (bf t 45 43 < sev)

/-- SQUALL sent on a port: it takes the place of one of less severity that still waits (R443). -/
def Port.squall (k : Port) (tick sev : Nat) (t : Word64) : Port :=
  let q := match k.tokU.findIdx? (lesserSquall sev) with
    | some i => listSet k.tokU i t
    | none => k.tokU ++ [t]
  { k with tokU := q, sqSent := (k.sqSent.filter fun x => decide (tick ≤ x.2 + 200)) ++ [(sev, tick)] }

/-- SQUALL sent on some ports that are up. -/
def State.floodSquall (s : State) (ps : List Nat) (sev : Nat) (t : Word64) : State :=
  ps.foldl (fun s p => if (s.port p).st ≠ .up then s else s.modPort p fun k => k.squall s.tick sev t) s

/-- A severity raised or received, for the next SLIP_SET of each job's root (R445). -/
def State.noteSev (s : State) (sev : Nat) : State :=
  s.heldJobs.foldl (fun s j => s.modJob j fun b => { b with sevSince := max b.sevSince sev }) s

/-- A notice raised for a sensor (R442). -/
def State.notice (s : State) (i : Nat) : State :=
  let sev := (s.sensor i).sev
  let s := s.modSensor i fun k => { k with noticed := (k.noticed.filter fun x => decide (s.tick < x.2 + 2000)) ++ [(sev, s.tick)] }
  let s := { s with notices := satN 32 (s.notices + 1) }
  let s := s.raise { unit := devRef s.device, cls := 0x28, sensor := some i,
                     syndrome := sev + sensorSource i * 2 ^ 8 + sensorIndex i * 2 ^ 16 }
  (s.noteSev sev).floodSquall s.upPorts sev (squallToken s.device sev (sensorSource i) (sensorIndex i))

/-- The greatest severity that a sensor has raised within the last 2,000 ticks. -/
def State.raisedSev (s : State) (i : Nat) : Nat :=
  (((s.sensor i).noticed.filter fun x => decide (s.tick < x.2 + 2000)).map (·.1)).foldl max 0

/-- A notice when a sensor's severity exceeds what it raised of late. -/
def State.noticeIf (s : State) (i : Nat) : State := if s.raisedSev i < (s.sensor i).sev then s.notice i else s

/-! ### The critical threshold (R447) -/

/-- A critical reading of a sensor: the module fails for every job, its clusters' clocks stop, its stacks refresh
themselves. -/
def State.critical (s : State) (i : Nat) : State :=
  let s := s.raise { unit := devRef s.device, cls := 0x29, sensor := some i,
                     syndrome := sensorSource i * 2 ^ 8 + sensorIndex i * 2 ^ 16 }
  let s := { (s.failAll 0x29) with clocksStopped := true }
  (List.range 12).foldl (fun s n => s.modStack n fun k => { k with selfRefresh := true }) s

/-- Whether a critical reading has already had its effects. -/
def State.criticalDone (s : State) : Bool := s.clocksStopped && (List.range 12).all fun n => (s.stack n).selfRefresh

/-- SENSOR_SAMPLE (R441, R442, R447): stacks 0 to 11, then dies 0 to 3, in 1/8 degree. -/
def execSensorSample (readings : List Int) (s : State) : Host.Outcome State Fault Refusal :=
  .next (readings.zipIdx.foldl (fun s x =>
    if 16 ≤ x.2 then s
    else
      let s := s.modSensor x.2 fun k => { k with reading := x.1, sev := sevNext x.2 k.sev x.1 }
      let s := s.noticeIf x.2
      if criticalAt x.2 ≤ x.1 && !s.criticalDone then s.critical x.2 else s) s)

/-- INPUT_POWER_WINDOW (R441, R442): the mean of a 10 ms window; the first window above 1,600 W has severity 2, the second
3, later ones 4. -/
def execInputPowerWindow (milliwatts : Nat) (s : State) : Host.Outcome State Fault Refusal :=
  let n := if 1600000 < milliwatts then s.powerWindows + 1 else 0
  let s := { s with powerWindows := n }
  let s := s.modSensor 16 fun k => { k with sev := if n = 0 then 0 else min (n + 1) 4 }
  .next (s.noticeIf 16)

/-- SQUALL_REPEAT (R442): the notice raised again 2,000 ticks after the last while the severity stays at 1 or more. -/
def execSquallRepeat (i : Nat) (s : State) : Host.Outcome State Fault Refusal :=
  if 17 ≤ i then .refused .noSuchUnit
  else
    let k := s.sensor i
    let due := match k.noticed.getLast? with
      | some x => decide (x.2 + 2000 ≤ s.tick)
      | none => false
    if k.sev = 0 || !due then .next s else .next (s.notice i)

/-- SQUALL (R443): a received notice forwarded on every other port, unless one of equal or greater severity left within
200 ticks. -/
def execSquall (port : Nat) (t : Word64) (s : State) : Host.Outcome State Fault Refusal :=
  if 16 ≤ port then .refused .noSuchUnit
  else
    let sev := bf t 45 43
    let sent := s.ports.any fun p => p.2.sqSent.any fun x => decide (sev ≤ x.1) && decide (s.tick ≤ x.2 + 200)
    let s := s.noteSev sev
    .next (if sent then s else s.floodSquall (s.upPorts.filter (· ≠ port)) sev t)

/-! ### Failures -/

/-- FAILED (R429 to R431, R440): each token goes on once, with its AGE raised by the link's delay; the jobs of which the device is
a member are to stop; Ceilings count its subtree as arrived. Tokens of one failure name one origin tick, whichever way they come. -/
def execFailed (port : Nat) (t : Word64) (s : State) : Host.Outcome State Fault Refusal :=
  if 16 ≤ port then .refused .noSuchUnit
  else
    let d := bf t 55 46
    let cause := bf t 45 38
    let age := bf t 37 22 + (s.port port).dCtrl
    let s := s.modPort port fun k => if cause = 0x2A && d = k.peerDev then { k with peerClock := true } else k
    let origin := s.tick - age
    if d = s.device || s.failedSeen.contains (d, cause, origin) then .next s
    else
      let s := s.sendAll (s.upPorts.filter (· ≠ port)) .u [failedToken d cause age]
      let s := { s with failedDevs := if s.failedDevs.contains d then s.failedDevs else s.failedDevs ++ [d],
                        failedSeen := s.failedSeen ++ [(d, cause, origin)] }
      let s := (s.jobsWith d).foldl (fun s j =>
        s.setStop j (match s.job j with | some b => b.stickAt origin s.tick | none => 0)) s
      .next ((s.dropChanges d).retryCeilings)

/-- SEQUENCER_MISMATCH (R20): the sequencer stops, and the device is failed for the jobs with a core in the cluster. -/
def execSequencerMismatch (cl : Nat) (s : State) : Host.Outcome State Fault Refusal :=
  if 48 ≤ cl then .refused .noSuchUnit
  else if (s.cluster cl).seqStopped then .next s
  else
    let s := s.modCluster cl fun k => { k with seqStopped := true }
    let s := s.raise { unit := clusterRef s.device cl, cls := 0x2B, syndrome := cl }
    let js := s.heldJobs.filter fun j => (s.jobFootprint j).any fun x => x.1 / 8 = cl
    .next (if js.isEmpty then s else s.failFor js 0x2B)

/-- CLOCK_LOSS (R62): the module fails for every job; one further control frame leaves every port that is up, with FAILED, and its
frames stop. What the reference clocks stops with it: the ticks and the arithmetic. A reset that includes the device soft reset ends
this (log entry 106). -/
def execClockLoss (outside : Bool) (s : State) : Host.Outcome State Fault Refusal :=
  if s.framesStopped then .next s
  else
    let s := s.raise { unit := devRef s.device, cls := 0x2A, syndrome := b2n outside }
    let s := s.failAll 0x2A
    let s := s.upPorts.foldl (fun s p => s.modPort p fun k => k.sendControl s.stamp []) s
    .next { s with clocksStopped := true, framesStopped := true, refLost := true }

end Sys2Proof.Machine
end

