-- ==== Sys2Proof/Machine/ModeChange.lean ====
section
/-!
DEFINITION. Two-phase mode changes (R433 to R440) and JOB_REMAP (R555).
-/

namespace Sys2Proof.Machine

open Sys2Proof

/-! ### Tokens (R416) -/

def mcAckToken (coord change : Nat) (refuse : Option (Nat × Nat)) : Word64 :=
  token 0x0A (coord * 2 ^ 46 + change * 2 ^ 30 + (match refuse with
    | some (d, r) => 2 ^ 29 + d * 2 ^ 19 + r * 2 ^ 3
    | none => 0))
def mcCommitToken (coord change remain : Nat) : Word64 := token 0x0B (coord * 2 ^ 46 + change * 2 ^ 30 + remain * 2 ^ 14)
def mcAbortToken (coord change : Nat) : Word64 := token 0x0C (coord * 2 ^ 46 + change * 2 ^ 30)
def mcOutcomeToken (coord change result refuser value : Nat) : Word64 :=
  token 0x0D (coord * 2 ^ 46 + change * 2 ^ 30 + result * 2 ^ 28 + refuser * 2 ^ 18 + value * 2 ^ 2)

def tokCoord (t : Word64) : Nat := bf t 55 46
def tokChange (t : Word64) : Nat := bf t 45 30

/-! ### Checks of an involved device (R433, R435) -/

/-- The loaded image of a partition with some digest. -/
def State.digestImage (s : State) (p : Nat) (d : BitVec 512) : Option (Nat × Image) :=
  s.images.findSome? fun x => match x.2 with
    | some l => if l.part = p && l.img.digest = d then some (x.1, l.img) else none
    | none => none

/-- Whether a pin on a table is held here. -/
def State.tablePinned (s : State) (n : Nat) : Bool :=
  s.allPins.any (fun p => p.table = n) || (match s.table n with
    | some t => t.slots.any fun x => x.2.pins ≠ 0
    | none => false)

/-- The status for which this device refuses a change, when it is prepared or (`due`) at its tick. At its tick the entry of a
group that is installed, the slot that is flipped and the job that was admitted are as the prepare held them. -/
def State.checkChange (s : State) (due : Bool) (c : McContent) : Option Nat :=
  match c with
  | .groupInstall n home cores _ _ _ =>
    let e := s.groupE n
    firstFail
      [((e.st = .free && !due) || (e.st = .resolving && (due || home = s.device)), Status.groupExists),
       (e.st ≠ .free || decide (s.groupCount < 4096), Status.groupTableFull),
       ((s.onePart (s.here cores)).isSome, Status.invalidParameter)]
  | .groupClear n => if s.outstanding n ≠ 0 then some Status.groupBusy else none
  | .launch p d entry number unit _ _ =>
    let busy : Bool := match targetGroup unit with
      | some g => (s.groupE g).st ≠ .defined
      | none => false
    match s.digestImage p d with
    | none => some Status.admissionRefused
    | some (_, img) =>
      match s.launchFail p entry img with
      | some a => some (if a.status = Status.deviceFailed then Status.admissionRefused else a.status)
      | none =>
        if busy then some Status.groupBusy
        else if !s.inTarget unit img || !s.unitIn unit p 0 || s.numberTaken p number then some Status.admissionRefused
        else none
  | .flip n v =>
    match s.table n with
    | none => none
    | some t => if (t.slotIn v.toNat (if due then .flipCommitted else .ready)).isSome then none else some Status.versionState
  | .patchCommit n =>
    match s.table n with
    | none => none
    | some t => if s.epochOk n t then none else some Status.epochRange
  | .preempt p n _ =>
    match s.partJob p n with
    | some (_, b) => if b.phase = .running && b.pendCheap.isNone then none else some Status.invalidParameter
    | none => some Status.invalidParameter
  | .resume p n =>
    match s.partJob p n with
    | some (j, b) =>
      let ok := (b.phase = .restoring && b.saved.isEmpty) || b.phase = .reserved || (b.phase = .waiting && !due && b.ending.isNone && s.footprintFree j)
      if ok then none else some Status.partitionBusy
    | none => some Status.invalidParameter
  | .remap n _ spare slot _ _ =>
    match s.table n with
    | none => if spare = s.device then some Status.versionState else none
    | some t =>
      if s.tablePinned n || (spare = s.device && (t.slot slot).st ≠ .ready) then some Status.versionState else none

/-! ### Applying a change (R436, R439) -/

/-- A version number that a table takes: the later of it and the highest that the table has used, modulo 256 (R268). -/
def Table.laterVersion (t : Table) (v : Byte) : Byte := if 0 < (v - t.lastVersion).toInt then v else t.lastVersion

/-- JOB_REMAP's effect here (R555). On the spare the slot takes the table's version number: lines that still carry that number
are invalidated (R277), and another slot that had it serves no pin from then on. -/
def State.applyRemap (s : State) (n failed spare slot : Nat) (v : Byte) (ce : Word32) : State :=
  let s := if spare = s.device then s.dropTagged n fun x => x = v else s
  s.modTable n fun t =>
    let t := { t with shards := t.shards.map fun d => if d = failed then spare else d }
    if spare ≠ s.device then t
    else
      let t := match t.activeSlot with
        | some a => if a = slot then t else t.modSlot a fun x => { x with st := .draining }
        | none => t
      let t := (List.range 4).foldl (fun t i => t.modSlot i fun x => { x with dead := x.dead || (x.st ≠ .free && x.version = v) }) t
      let t := t.modSlot slot fun x => { x with st := .active, version := v, foldEpoch := ce, dead := false }
      { t with active := v, ce := ce, flipTick := s.tick, lastVersion := t.laterVersion v }

/-- A change applied on this device's units at its tick `tick`; `cmds` are the coordinator's commands, on the coordinator. -/
def State.applyChange (s : State) (c : McContent) (tick : Nat) (cmds : List Cmd) : State :=
  match c with
  | .groupInstall n home cores depth pf ms =>
    if home = s.device || cores.any (·.1 = s.device) then s.defineGroup n home cores depth pf ms else s
  | .groupClear n => s.setGroupE n GroupEntry.reset
  | .launch p d entry number unit batch tags =>
    match s.digestImage p d with
    | none => s
    | some (h, img) => s.acceptJob p (newJob number unit h entry (img.wcets.getD entry 0) tick cmds batch tags)
  | .flip n v => s.applyFlip n v
  | .patchCommit n => s.applyPatch n
  | .preempt p n i =>
    match s.partJob p n with
    | some (j, b) => s.setJob j (some { b with pendCheap := some i })
    | none => s
  | .resume p n =>
    match s.partJob p n with
    | some (j, b) =>
      if b.phase = .reserved then (s.launchAt j (tick + launchMargin)).modPart p fun q => { q with lastSlot := j % 8 } else s.resumeJob j
    | none => s
  | .remap n f sp i v ce => s.applyRemap n f sp i v ce

/-- A group or table that a change concerns. -/
def McContent.locks : McContent → List Nat × List Nat
  | .groupInstall n _ _ _ _ _ => ([n], [])
  | .groupClear n => ([n], [])
  | .flip n _ => ([], [n])
  | .patchCommit n => ([], [n])
  | .remap n _ _ _ _ _ => ([], [n])
  | _ => ([], [])

/-- This device cannot apply a committed change (R439): it is failed for the jobs involved, and commands that name the
group or table concerned complete with DEVICE_FAILED. -/
def State.failChange (s : State) (c : McContent) : State :=
  let js := match c with
    | .groupInstall _ _ _ _ _ _ => []
    | .groupClear _ => []
    | .launch p _ _ n _ _ _ => ((s.partJob p n).map (·.1)).toList
    | .preempt p n _ => ((s.partJob p n).map (·.1)).toList
    | .resume p n => ((s.partJob p n).map (·.1)).toList
    | _ => s.heldJobs
  let launch := match c with
    | .launch _ _ _ _ _ _ _ => true
    | _ => false
  let l := McContent.locks c
  let s := { s with lockedGroups := (s.lockedGroups ++ l.1).eraseDups, lockedTables := (s.lockedTables ++ l.2).eraseDups }
  if js.isEmpty && !launch then s else s.failOpen js

/-! ### Prepared changes -/

def State.prepOf (s : State) (coord change : Nat) : Option McPrep := s.mcPrep.find? fun x => x.coord = coord && x.change = change
/-- A prepared change forgotten: applied, or failed. -/
def State.dropPrep (s : State) (coord change : Nat) : State :=
  { s with mcPrep := s.mcPrep.filter fun x => !(x.coord = coord && x.change = change) }
/-- A prepared change discarded, not applied (R437). -/
def State.abandon (s : State) (coord change : Nat) : State := s.discardPreps fun x => x.coord = coord && x.change = change
def State.modPrep (s : State) (coord change : Nat) (f : McPrep → McPrep) : State :=
  { s with mcPrep := s.mcPrep.map fun x => if x.coord = coord && x.change = change then f x else x }
def State.coordOf (s : State) (change : Nat) : Option McCoord := s.mcCoord.find? fun c => c.change = change
def State.dropCoord (s : State) (change : Nat) : State := { s with mcCoord := s.mcCoord.filter fun c => c.change ≠ change }

/-- The coordinator's command ended without the change applied (R438). -/
def State.endCoord (s : State) (change : Nat) (a : Answer) : State :=
  match s.coordOf change with
  | none => s
  | some c =>
    let s := s.dropCoord change
    let s := match c.content with
      | .groupInstall n _ _ _ _ _ => if (s.groupE n).st = GroupSt.resolving then s.setGroupE n GroupEntry.reset else s
      | _ => s
    s.answerAll c.content c.cmds a

/-- What the coordinator's command completes with once the change is applied; a launch completes with its job. -/
def State.changeAnswer (s : State) (c : McContent) : Option Answer :=
  match c with
  | .groupInstall _ _ _ depth _ _ => some { status := Status.success, result := depth }
  | .launch _ _ _ _ _ _ _ => none
  | .patchCommit n => some { status := Status.success, result := ((s.table n).map (·.ce.toNat)).getD 0 }
  | _ => some { status := Status.success }

/-- The coordinator's command ended where this device itself cannot apply a committed change: the change is committed all the same
(R438, R439); a launch, whose job cannot run here, ends with DEVICE_FAILED. -/
def State.endUnapplied (s : State) (coord change : Nat) (c : McContent) : State :=
  if coord = s.device then s.endCoord change ((s.changeAnswer c).getD { status := Status.deviceFailed, unit := devRef s.device }) else s

/-- Answer of an outcome that is no commit (R438). -/
def outcomeAnswer (s : State) (result refuser reason : Nat) : Answer :=
  if result = 1 then { status := reason, unit := devRef refuser } else { status := Status.fabricBusy, unit := devRef s.ceil.root }

/-- The root's report to a coordinator (R438). -/
def State.report (s : State) (coord change result refuser value : Nat) : State :=
  if coord ≠ s.device then s.sendToward coord .m [mcOutcomeToken coord change result refuser value]
  else if result = 0 then s
  else s.endCoord change (outcomeAnswer s result refuser value)

/-- A commit noted for its tick; a slot to be flipped is flip-committed (R267). A device not involved forgets the change. -/
def State.noteCommit (s : State) (coord change tick : Nat) : State :=
  match s.prepOf coord change with
  | none => s
  | some p => match p.content with
    | none => s.dropPrep coord change
    | some c =>
      let s := s.modPrep coord change fun x => { x with commit := some tick }
      match c with
      | .flip n v => s.modTable n fun t => match t.slotIn v.toNat .ready with
        | some i => t.modSlot i fun x => { x with st := .flipCommitted }
        | none => t
      | _ => s

/-- The root decides the change at the head of its queue (R436 to R438): commit, or abort for a refusal. The ticks for
staging, at most 256, are a live value. -/
def State.decide_ (s : State) (p : McPrep) : State :=
  let s := { s with mcRoot := s.mcRoot.drop 1 }
  match p.refuse with
  | some (d, r) =>
    let s := (s.sendAll s.childPorts .m [mcAbortToken p.coord p.change]).abandon p.coord p.change
    s.report p.coord p.change 1 d r
  | none =>
    let remain := 2 * s.ceil.diam + (s.freeAt 9 0).toNat % 257
    let s := (s.used 1).sendAll s.childPorts .m [mcCommitToken p.coord p.change remain]
    (s.noteCommit p.coord p.change (s.tick + remain)).report p.coord p.change 0 0 remain

/-- The acknowledgement of a change combined and passed on, once this device and its children have acknowledged (R435). -/
def State.tryAck (s : State) (coord change : Nat) : State :=
  match s.prepOf coord change with
  | none => s
  | some p =>
    if !p.own || p.sentAck || !(s.childPorts.all p.acks.contains) then s
    else
      let s := s.modPrep coord change fun x => { x with sentAck := true }
      if s.ceil.root = s.device then s.decide_ p else s.sendTokens s.ceil.parent .m [mcAckToken coord change p.refuse]

/-- The lowest-numbered refuser of two (R435). -/
def lowest (a b : Option (Nat × Nat)) : Option (Nat × Nat) :=
  match a, b with
  | some x, some y => some (if x.1 ≤ y.1 then x else y)
  | some x, none => some x
  | none, y => y

/-- The statuses that the table of R433 gives for a kind. For kind 0x06 it gives none. -/
def kindStatuses (kind : Nat) : List Nat :=
  match kind with
  | 1 => [Status.groupExists, Status.groupTableFull, Status.invalidParameter, Status.groupBusy]
  | 2 => [Status.unitUnavailable, Status.groupBusy, Status.admissionRefused]
  | 3 => [Status.versionState]
  | 4 => [Status.epochRange]
  | 5 => [Status.admissionRefused, Status.unitUnavailable]
  | 7 => [Status.versionState]
  | _ => [Status.invalidParameter, Status.partitionBusy]

/-- The status for which a device that lacks a change's content refuses it (R435), free among those of its kind. Kinds 3, 4 and 7
involve every device of the fabric; whether another kind involves a device to which its content has not come is free. -/
def State.lacking (s : State) (kind : Nat) : Option Nat :=
  if (kind = 3 ∨ kind = 4 ∨ kind = 7) ∨ s.freeAt 1 0 = 1 then some (s.freeOf (kindStatuses kind) 1) else none

/-- What a prepare holds until the decision: the entry of a group in the resolving state, for its install or its clear (R51; of a
clear DESIGN CHOICE, log entry 101); the footprint of a job that is to start. -/
def State.holdEntry (s : State) (c : Option McContent) : State :=
  match c with
  | some (.groupInstall n home cores depth pf ms) => s.setGroupE n { (s.defineGroup n home cores depth pf ms).groupE n with st := .resolving }
  | some (.groupClear n) => s.setGroupE n { s.groupE n with st := .resolving }
  | some (.resume p n) => match s.partJob p n with
    | some (j, b) => s.setJob j (some { b with phase := .reserved })
    | none => s
  | _ => s

/-- Phase one here (R435): the change is checked by a device to which its content was delivered, held, and the prepare passed to the children. -/
def State.prepare (s : State) (coord change kind : Nat) (content : Option McContent) : State :=
  let own := if coord = s.device then (s.coordOf change).map (·.content) else none
  let content := content <|> own
  let refuse := (match content with
    | some c => s.checkChange false c
    | none => s.lacking kind).map fun r => (s.device, r)
  let hold := refuse.isNone && (match content with
    | some (.groupInstall _ home cores _ _ _) => home ≠ s.device && cores.any (·.1 = s.device)
    | some (.groupClear n) => (s.groupE n).st = .defined
    | some (.resume p n) => (s.partJob p n).any fun x => x.2.phase = .waiting
    | _ => false)
  let p : McPrep := { coord := coord, change := change, kind := kind, content := content, acks := [], own := true, refuse := refuse,
                      commit := none, sentAck := false, reserved := hold }
  let s := { s.used (if content.isSome then 0 else 2) with mcPrep := s.mcPrep ++ [p] }
  let s := if hold then s.holdEntry content else s
  (s.sendAll s.childPorts .m [mcToken 0x09 coord change kind]).tryAck coord change

/-- The root starts the change at the head of its queue, if it has not (R434). -/
def State.startChange (s : State) : State :=
  match s.mcRoot with
  | x :: t =>
    if x.start.isSome then s
    else { s with mcRoot := { x with start := some s.tick } :: t }.prepare x.coord x.change x.kind x.content
  | [] => s

/-! ### The commands -/

/-- MC_REQUEST (R434): queued at the root, started when none runs; elsewhere passed toward the root. -/
def execMcRequest (port : Nat) (t : Word64) (content : Option McContent) (s : State) : Host.Outcome State Fault Refusal :=
  if 16 ≤ port then .refused .noSuchUnit
  else if s.ceil.root ≠ s.device then .next (s.sendTokens s.ceil.parent .m [t])
  else if 65 ≤ s.mcRoot.length then .next (s.report (tokCoord t) (tokChange t) 3 0 0)
  else
    let x : McRoot := { coord := tokCoord t, change := tokChange t, kind := bf t 29 24, content := content, start := none }
    .next { s with mcRoot := s.mcRoot ++ [x] }.startChange

/-- MC_PREPARE (R435). -/
def execMcPrepare (port : Nat) (t : Word64) (content : Option McContent) (s : State) : Host.Outcome State Fault Refusal :=
  if 16 ≤ port then .refused .noSuchUnit
  else if (s.prepOf (tokCoord t) (tokChange t)).isSome then .next s
  else .next (s.prepare (tokCoord t) (tokChange t) (bf t 29 24) content)

/-- MC_ACK (R435). -/
def execMcAck (port : Nat) (t : Word64) (s : State) : Host.Outcome State Fault Refusal :=
  if 16 ≤ port then .refused .noSuchUnit
  else
    let r := if bit t 29 then some (bf t 28 19, bf t 18 3) else none
    let s := s.modPrep (tokCoord t) (tokChange t) fun x =>
      { x with acks := if x.acks.contains port then x.acks else x.acks ++ [port], refuse := lowest x.refuse r }
    .next (s.tryAck (tokCoord t) (tokChange t))

/-- MC_COMMIT (R415, R436, R439): passed down the tree; applied at the tick that it names, or too late. -/
def execMcCommit (port : Nat) (t : Word64) (s : State) : Host.Outcome State Fault Refusal :=
  if 16 ≤ port then .refused .noSuchUnit
  else
    let d := (s.port port).dCtrl
    let remain := bf t 29 14 - d
    let s := s.sendAll s.childPorts .m [mcCommitToken (tokCoord t) (tokChange t) remain]
    if bf t 29 14 < d then
      let c := (s.prepOf (tokCoord t) (tokChange t)).bind (·.content)
      let s := s.dropPrep (tokCoord t) (tokChange t)
      .next (match c with
        | some c => (s.failChange c).endUnapplied (tokCoord t) (tokChange t) c
        | none => s)
    else .next (s.noteCommit (tokCoord t) (tokChange t) (s.tick + remain))

/-- MC_ABORT (R437). -/
def execMcAbort (port : Nat) (t : Word64) (s : State) : Host.Outcome State Fault Refusal :=
  if 16 ≤ port then .refused .noSuchUnit
  else .next ((s.sendAll s.childPorts .m [mcAbortToken (tokCoord t) (tokChange t)]).abandon (tokCoord t) (tokChange t))

/-- MC_OUTCOME (R438): passed toward the coordinator; there, anything but a commit completes the command. A commit names its tick,
and completes when the change is applied. -/
def execMcOutcome (port : Nat) (t : Word64) (s : State) : Host.Outcome State Fault Refusal :=
  if 16 ≤ port then .refused .noSuchUnit
  else
    let result := bf t 29 28
    if tokCoord t ≠ s.device then
      let v := if result = 0 then bf t 17 2 - (s.port port).dCtrl else bf t 17 2
      .next (s.sendToward (tokCoord t) .m [mcOutcomeToken (tokCoord t) (tokChange t) result (bf t 27 18) v])
    else if result = 0 then
      let d := (s.port port).dCtrl
      let known := match s.prepOf (tokCoord t) (tokChange t) with
        | some p => p.commit.isSome
        | none => true
      .next (if known || decide (bf t 17 2 < d) then s else s.noteCommit (tokCoord t) (tokChange t) (s.tick + (bf t 17 2 - d)))
    else .next (s.endCoord (tokChange t) (outcomeAnswer s result (bf t 27 18) (bf t 17 2)))

/-- MODE_CHANGE_TIMEOUT (R437): the root aborts a change whose acknowledgement has not arrived in time. -/
def execModeChangeTimeout (coord change : Nat) (s : State) : Host.Outcome State Fault Refusal :=
  match s.mcRoot with
  | x :: t => match x.start with
    | some b =>
      if x.coord ≠ coord || x.change ≠ change || decide (s.tick < b + 2 * s.ceil.diam + 200) then .next s
      else
        let s := { s with mcRoot := t }.sendAll s.childPorts .m [mcAbortToken coord change]
        .next ((s.abandon coord change).report coord change 2 0 0)
    | none => .next s
  | [] => .next s

/-- MODE_CHANGE_APPLY (R436, R438, R439): at its tick a committed change takes effect on every unit here. -/
def execModeChangeApply (coord change : Nat) (s : State) : Host.Outcome State Fault Refusal :=
  match s.prepOf coord change with
  | none => .next s
  | some p => match p.commit, p.content with
    | some t, some c =>
      if s.tick < t then .next s
      else
        let s := s.dropPrep coord change
        let own := if coord = s.device then s.coordOf change else none
        if (s.checkChange true c).isSome then
          .next ((s.failChange c).endUnapplied coord change c)
        else
          let s := s.applyChange c t ((own.map (·.cmds)).getD [])
          match own with
          | none => .next s
          | some o =>
            let s := s.dropCoord change
            match s.changeAnswer c with
            | some a => .next (s.answerAll c o.cmds a)
            | none => .next s
    | _, _ => .next s

/-- Commands whose mode change can no longer run, because the root is failed (R440). -/
def State.dropRootless (s : State) : State :=
  if s.failedDevs.contains s.ceil.root then
    s.mcCoord.foldl (fun s c => s.endCoord c.change { status := Status.deviceFailed, unit := devRef s.ceil.root }) s
  else s

/-- JOB_REMAP (R555, R661). -/
def execJobRemap (k : Cmd) (s : State) : Host.Outcome State Fault Refusal :=
  let w := k.par 0
  let ok := bf w 63 42 = 0 && bf w 21 12 = 0 && k.topZero 1 2 && k.zeroFrom 2
  s.runCmd k { op := 0x0403, gen := 3, pf := true } true ok fun s =>
    let n := bf w 11 0
    let failed := bf w 31 22
    let spare := bf w 41 32
    let slot := bf (k.par 1) 1 0
    s.tableCmd n fun t =>
      let home := (t.shards.filter (· ≠ failed)).headD spare
      if !t.shards.contains failed then refuse s Status.invalidParameter
      else if !s.inFabric spare then refuse s Status.unitUnavailable
      else if home ≠ s.device then .done s { status := Status.notHome, unit := devRef home }
      else
        let c := McContent.remap n failed spare slot t.active t.ce
        match s.checkChange false c with
        | some st => refuse s st
        | none => .later (s.requestChange 0x07 c [k])

end Sys2Proof.Machine
end

