-- ==== Sys2Proof/Machine/Fabric.lean ====
section
/-!
DEFINITION. Membership of a fabric and the bring-up of ports (R382 to R390, R394, R402, R404, R408, R423, R477, R478):
FABRIC_JOIN, FABRIC_LEAVE, FABRIC_QUERY, PORT_BRINGUP_DONE, CONTROL_FRAME_LOST, KEY_RENEWAL, KEY_FRAGMENT, ECHO,
FAB_PORT_CONFIG_WRITE.
-/

namespace Sys2Proof.Machine

open Sys2Proof

/-! ### The identity secret (R556) -/

/-- The identity secret and DEVICE_ID of the module. -/
def State.secret (s : State) : List Byte := secretOf s.nvm.helper
def State.deviceId (s : State) : BitVec 512 := deviceIdOf s.secret

/-! ### Registers -/

/-- STATE of FAB_PORT_STATE. -/
def PortSt.code : PortSt → Nat
  | .down => 0
  | .training => 1
  | .keying => 2
  | .identity => 3
  | .calibrating => 4
  | .up => 5
  | .failed => 6

/-- FAB_PORT_STATE. -/
def Port.stateWord (k : Port) : Word64 :=
  BitVec.ofNat 64 (k.st.code * 2 ^ 60 + b2n k.rate64 * 2 ^ 59 + k.rev * 2 ^ 57 + b2n k.keyPhase * 2 ^ 56 + k.dData * 2 ^ 48 +
    k.dCtrl * 2 ^ 40 + k.peerDev * 2 ^ 30 + k.peerPort * 2 ^ 26 + k.padData * 2 ^ 18 + k.padCtrl * 2 ^ 10 + k.failStep * 2 ^ 6)

/-- FAB_PORT_ERRORS. -/
def Port.errorWord (k : Port) : Word64 :=
  BitVec.ofNat 64 (satN 32 k.corrected * 2 ^ 32 + satN 16 k.uncorrectable * 2 ^ 16 + satN 8 k.authFail * 2 ^ 8 + satN 8 k.ctrlLost)

/-- FAB_CEILING (R423). -/
def CeilTree.word (c : CeilTree) : Word64 :=
  BitVec.ofNat 64 (c.root * 2 ^ 54 + c.parent * 2 ^ 49 + c.children.toNat * 2 ^ 33 + c.depth * 2 ^ 19 + c.diam * 2 ^ 5)

/-- HIF_UNIT_SELF (R34). -/
def State.unitSelf (s : State) : Word64 :=
  BitVec.ofNat 64 (b2n s.assigned * 2 ^ 32 + 2 * 2 ^ 30 + (if s.assigned then s.device else 0) * 2 ^ 20)

/-! ### The fabric description (R388, R389, R402) -/

/-- A field of the description, least significant byte first. -/
def fld (b : List Byte) (off n : Nat) : Nat := fromLe ((b.drop off).take n)

/-- The description that some bytes hold. -/
def parseFabric (b : List Byte) : Fabric :=
  let nd := fld b 2 2
  let nl := fld b 4 4
  let base := 128 + 72 * nd
  { topology := fld b 8 1, x := fld b 9 1, y := fld b 10 1, z := fld b 11 1, digest := BitVec.ofNat 512 (fld b 64 64),
    devices := (List.range nd).map fun i => { id := BitVec.ofNat 512 (fld b (128 + 72 * i) 64), number := fld b (192 + 72 * i) 2 },
    links := (List.range nl).map fun i =>
      let o := base + 16 * i
      { devA := fld b o 2, portA := fld b (o + 2) 1, devB := fld b (o + 3) 2, portB := fld b (o + 5) 1, rate := fld b (o + 6) 1,
        revMax := fld b (o + 7) 1, dDataAB := fld b (o + 8) 1, dCtrlAB := fld b (o + 9) 1, dDataBA := fld b (o + 10) 1,
        dCtrlBA := fld b (o + 11) 1 } }

/-- Whether numbers rise strictly. -/
def rising : List Nat → Bool
  | a :: b :: t => decide (a < b) && rising (b :: t)
  | _ => true

/-- A description that keeps R388 and R385. -/
def descriptionOk (b : List Byte) : Bool :=
  let f := parseFabric b
  let nd := fld b 2 2
  let nl := fld b 4 4
  let size (n : Nat) : Bool := decide (2 ≤ n) && decide (n ≤ 16)
  decide (128 ≤ b.length) && fld b 0 2 = 1 && decide (2 ≤ nd) && decide (nd ≤ 1024) && b.length = 128 + 72 * nd + 16 * nl &&
    fld b 12 52 = 0 &&
    (match f.topology with
    | 1 => f.x = 0 && f.y = 0 && f.z = 0
    | 2 => size f.x && size f.y && f.z = 0
    | 3 => size f.x && size f.y && size f.z
    | _ => false) &&
    ((List.range nd).all fun i => fld b (194 + 72 * i) 6 = 0) && f.devices.all (fun d => decide (d.number < 1024)) &&
    rising (f.devices.map (·.number)) && noDup (f.devices.map (·.id)) &&
    ((List.range nl).all fun i => fld b (128 + 72 * nd + 16 * i + 12) 4 = 0) &&
    f.links.all fun l =>
      decide (l.rate ≤ 1) && (l.revMax = 2 || l.revMax = 3) && l.dDataAB ≠ 0 && l.dCtrlAB ≠ 0 && l.dDataBA ≠ 0 && l.dCtrlBA ≠ 0 &&
        decide (l.portA < 16) && decide (l.portB < 16) && decide (l.devA < 1024) && decide (l.devB < 1024)

/-- Links between two devices. -/
def Fabric.between (f : Fabric) (a b : Nat) : Nat :=
  (f.links.filter fun l => (l.devA = a && l.devB = b) || (l.devA = b && l.devB = a)).length

/-- The neighbours of a device in the positive way of each dimension. -/
def Fabric.nexts (f : Fabric) (d : Nat) : List Nat :=
  let x := d % f.x
  let y := d / f.x % f.y
  let z := d / (f.x * f.y)
  [z * f.x * f.y + y * f.x + (x + 1) % f.x, z * f.x * f.y + (y + 1) % f.y * f.x + x] ++
    (if f.topology = 3 then [(z + 1) % f.z * f.x * f.y + y * f.x + x] else [])

/-- The topologies of R402. -/
def Fabric.topologyOk (f : Fabric) : Bool :=
  let ns := f.devices.map (·.number)
  if f.topology = 1 then
    decide (ns.length ≤ 17) && ns.all fun a => ns.all fun b => a = b || decide (1 ≤ f.between a b)
  else
    let n := f.x * f.y * (if f.topology = 3 then f.z else 1)
    ns = List.range n && decide (n ≤ 1024) && (ns.all fun a => (f.nexts a).all fun b => a = b || decide (2 ≤ f.between a b)) &&
      f.links.all fun l => ((List.range f.dims.length).filter fun k => f.coord l.devA k ≠ f.coord l.devB k).length ≤ 1

/-- Each port is the end of one link, and every link joins listed devices. -/
def Fabric.portsOk (f : Fabric) : Bool :=
  noDup (f.links.flatMap fun l => [(l.devA, l.portA), (l.devB, l.portB)]) &&
    f.links.all fun l => (f.devices.any fun d => d.number = l.devA) && f.devices.any fun d => d.number = l.devB

/-- The link of port `p` of device `d`, and whether `d` is its end A. -/
def Fabric.linkAt (f : Fabric) (d p : Nat) : Option (FabLink × Bool) :=
  (f.links.find? fun l => l.devA = d && l.portA = p).map (·, true) <|> (f.links.find? fun l => l.devB = d && l.portB = p).map (·, false)

/-! ### Ports down and in training -/

/-- A port taken down: its keys end, and what waited on it is gone. Its error counts and settings stay. -/
def Port.takeDown (k : Port) (st : PortSt) : Port :=
  { Port.reset with st := st, corrected := k.corrected, uncorrectable := k.uncorrectable, authFail := k.authFail, ctrlLost := k.ctrlLost,
                    cfg := k.cfg }

/-- Whether a port's settings let it come up. -/
def Port.enabled (k : Port) : Bool := bit k.cfg 0

/-- Whether a loaded image uses a port: in a slot table, or in the tree of a multicast group (R400, R408). -/
def State.portUsed (s : State) (p : Nat) : Bool :=
  s.images.any fun x => match x.2 with
    | some l => (l.img.slots.any fun y => y.port = p) || l.img.mcasts.any fun m => m.ports.contains p
    | none => false

/-- Bring-up begun on a port that the fabric lists (R389). -/
def State.train (s : State) (p : Nat) : State :=
  if s.assigned && (s.port p).enabled && (s.fabric.linkAt s.device p).isSome then s.modPort p fun k => k.takeDown .training else s

/-! ### Bring-up (R385, R389, R390) -/

/-- Electronic latencies in arithmetic cycles: data, control. -/
def latency (rate64 : Bool) : Nat × Nat := if rate64 then (528, 363) else (495, 330)

/-- Padding that gives a described delay of `d` ticks to frames of an electronic latency `e` over a flight time `f` that
complete at phase `psi`, if any (R385). -/
def padding (e f psi d : Nat) : Option Nat :=
  let phi := (e + f - psi) % 33
  let raw := (e + f - phi + 32) / 33
  if raw ≤ d then some (d - raw) else none

/-- The far end of a port's link: device, port, and the data and control delay of the receiving direction. -/
def FabLink.far (l : FabLink) (isA : Bool) : Nat × Nat × Nat × Nat :=
  if isA then (l.devB, l.portB, l.dDataBA, l.dCtrlBA) else (l.devA, l.portA, l.dDataAB, l.dCtrlAB)

/-- Whether this end of a link is the lower one (R382). -/
def FabLink.lower (l : FabLink) (isA : Bool) : Bool :=
  let a := l.devA * 16 + l.portA
  let b := l.devB * 16 + l.portB
  if isA then decide (a < b) else decide (b < a)

/-- Bytes of the certificates in the exchange message of bring-up, in whole fragments; the ciphertext follows them. The layout of
the exchange messages is a DESIGN CHOICE (log entry 105). -/
def chainBytes : Nat := 9475

/-- A fabric ECHO request, and its reply with the cycles that it was held (R390, R416). -/
def echoRequest : Word64 := token 0x1F 0
def echoReply (hold : Nat) : Word64 := token 0x1F (2 ^ 55 + hold * 2 ^ 41)

/-- KEY_FRAGMENT tokens that carry some bytes from fragment `n` on. -/
def fragmentTokens (n : Nat) (b : List Byte) : List Word64 :=
  (List.range ((b.length + 4) / 5)).map fun i => token 0x1E ((n + i) % 65536 * 2 ^ 40 + fromLe ((b.drop (5 * i)).take 5))

/-- Step 3 of bring-up: the peer's chain, and the keys from both ends' secrets (R382, R581); `dz` gives this end's KEM key. -/
def Port.agreeKeys (k : Port) (lower : Bool) (id : BitVec 512) (dz : List Byte) : Option Port :=
  let chain := k.fragments.take 9474
  let cipher := (k.fragments.drop chainBytes).take 1568
  match k.share with
  | none => none
  | some own =>
    if cipher.length ≠ 1568 || !chainOk chain id then none
    else
      let (tx, rx) := endKeys lower own (Config.decapsulate dz cipher) cipher
      some { k with tx := some tx, rxKeys0 := some rx, share := none, fragments := [], txCtrl := 0, rxCtrl := 0, keysUsed := 1,
                    peerKem := certKey (chainParts chain).2.2 }

/-- The step of bring-up in which a port stands, done: the port as the next step finds it (R389), or the number of the step that
failed, with whether the delay was the reason. `id` is the DEVICE_ID that the description gives the far end, `chain` this end's
certificates, `dz` what gives its KEM key. -/
def bringUp (k : Port) (l : FabLink) (isA : Bool) (id : BitVec 512) (chain dz : List Byte) (b : BringUp) : Except (Nat × Bool) Port :=
  let (pd, pp, dd, dc) := l.far isA
  match k.st with
  | .training =>
    if !b.laneTrained then .error (1, false)
    else .ok { k with st := .keying, rate64 := l.rate = 1 || bf k.cfg 9 8 = 1 || b.peer64Only,
                      rev := if b.peerRev3 && l.revMax = 3 then 3 else 2, tokE := fragmentTokens 0 chain }
  | .keying => match k.agreeKeys (l.lower isA) id dz with
    | some k => .ok { k with st := .identity }
    | none => .error (3, false)
  | .identity =>
    if b.peerDevice ≠ pd || b.peerPort ≠ pp then .error (4, false)
    else .ok { k with st := .calibrating, peerDev := pd, peerPort := pp, tokE := k.tokE ++ [echoRequest] }
  | _ => match k.echoes.getLast? with
    | none => .error (5, false)
    | some t =>
      let e := latency k.rate64
      let f := (b.roundTrip - bf t 54 41) / 2 - e.2
      match padding e.1 f b.psiData dd, padding e.2 f b.psiCtrl dc with
      | some x, some y =>
        .ok { k with st := .up, dData := dd, dCtrl := dc, padData := x, padCtrl := y, credits := 4096, txCount := 0, rxCount := 0 }
      | _, _ => .error (5, true)

/-- Whether a port is in bring-up, and whether its control lanes carry frames. -/
def PortSt.rising (x : PortSt) : Bool := x = .training || x = .keying || x = .identity || x = .calibrating
def PortSt.talks (x : PortSt) : Bool := x = .keying || x = .identity || x = .calibrating || x = .up

/-- FABRIC_JOIN completes once none of its ports is still in bring-up: with SUCCESS, or naming the first that failed
(R389, R390). -/
def State.finishJoin (s : State) : State :=
  match s.joining with
  | none => s
  | some (k, ps) =>
    if ps.any fun p => (s.port p).st.rising then s
    else
      let s := { s with joining := none }
      match ps.find? fun p => (s.port p).st ≠ .up with
      | some p => s.completeCmd k { status := Status.linkDown, result := p }
      | none => { s with fabricOn := true }.completeCmd k { status := Status.success }

/-- A step of bring-up failed (R390). -/
def State.failPort (s : State) (p step : Nat) (delay : Bool) : State :=
  let s := s.modPort p fun k => { k.takeDown .failed with failStep := step }
  s.raise { unit := devRef s.device, cls := 0x18, syndrome := p + step * 2 ^ 8 + b2n delay * 2 ^ 12 }

/-- DEVICE_ID that the fabric description gives a device; 0 for one that it does not list. -/
def State.idOf (s : State) (d : Nat) : BitVec 512 := match s.fabric.devices.find? fun x => x.number = d with
  | some x => x.id
  | none => 0

/-- PORT_BRINGUP_DONE: the step in which the port stands is done, or has failed. Each step is an event of its own; a step that
finds its exchange incomplete has failed (log entry 105). -/
def execPortBringupDone (p : Nat) (b : BringUp) (s : State) : Host.Outcome State Fault Refusal :=
  if 16 ≤ p then .refused .noSuchUnit
  else if !(s.port p).st.rising then .next s
  else match s.fabric.linkAt s.device p with
  | none => .next s
  | some (l, isA) =>
    match bringUp (s.port p) l isA (s.idOf (l.far isA).1) (ownChain s.secret s.fwImage) (kemSeed s.secret) b with
    | .ok k => .next ((s.modPort p fun _ => k).finishJoin)
    | .error (step, delay) => .next ((s.failPort p step delay).finishJoin)

/-! ### FABRIC_JOIN, FABRIC_LEAVE, FABRIC_QUERY -/

/-- Ports of this device that a fabric lists, in ascending order. -/
def Fabric.portsHere (f : Fabric) (d : Nat) : List Nat := (List.range 16).filter fun p => (f.linkAt d p).isSome

/-- The fabric accepted (R389, R423, R439, R440): the number, the Ceiling tree, every listed port in bring-up. A port that
is up on the same link stays up, one no longer listed goes down. DESIGN CHOICE (log entry 99): the group
entries keep the HOME and the device numbers that they hold. -/
def State.acceptFabric (s : State) (f : Fabric) (d : Nat) (k : Cmd) : State :=
  let old := (s.fabric, s.device, s.assigned)
  let s := { s with fabric := f, device := d, assigned := true, ceil := f.tree d, lockedGroups := [], lockedTables := [],
                    failedSeen := [],
                    failedDevs := s.failedDevs.filter fun x => f.devices.any fun y => y.number = x }
  let ps := f.portsHere d
  let keeps (p : Nat) : Bool := old.2.2 && (s.port p).st = .up && old.1.linkAt old.2.1 p = f.linkAt d p && old.2.1 = d
  let s := (List.range 16).foldl (fun s p =>
    if !ps.contains p then s.modPort p fun k => k.takeDown .down
    else if keeps p then s
    else if (s.port p).enabled then s.train p
    else s.failPort p 1 false) s
  { s with joining := some (k, ps) }.finishJoin

/-- FABRIC_JOIN (R389, R402). -/
def execFabricJoin (k : Cmd) (s : State) : Host.Outcome State Fault Refusal :=
  s.runCmd k { op := 0x0400, gen := 1, pf := true, dev := true } true (aligned32 (k.par 0) && k.topZero 1 32 && k.zeroFrom 2) fun s =>
    let b := s.hostRead (k.par 0).toNat (k.par 1).toNat
    if !descriptionOk b then refuse s Status.invalidParameter
    else
      let f := parseFabric b
      let digest := BitVec.ofNat 512 (fromLe (Config.shake256 (b.drop 128) 64))
      match f.devices.find? fun d => d.id = s.deviceId with
      | none => refuse s Status.fabricMismatch
      | some d =>
        if digest ≠ f.digest || !f.portsOk || !f.topologyOk then refuse s Status.fabricMismatch
        else if s.joining.isSome then refuse s Status.invalidParameter
        else .later (s.acceptFabric f d.number k)

/-- Whether a defined group involves another device. -/
def State.farGroup (s : State) : Bool := s.groups.any fun x => x.2.st ≠ .free && (x.2.home ≠ s.device || x.2.cores.any fun c => c.1 ≠ s.device)

/-- FABRIC_LEAVE (R477). -/
def execFabricLeave (k : Cmd) (s : State) : Host.Outcome State Fault Refusal :=
  s.runCmd k { op := 0x0401, gen := 2, pf := true, dev := true } true (k.zeroFrom 0) fun s =>
    if !s.heldJobs.isEmpty || (s.images.any fun x => x.2.isSome) || s.farGroup then refuse s Status.partitionBusy
    else
      let s := { s with windows := mapCanon s.windows Window.reset fun _ w => { w with w0 := 0, w1 := 0 } }
      let s := s.mapPorts fun _ k => k.takeDown .down
      .done { s with assigned := false, device := 0, ceil := CeilTree.reset, fabricOn := false, joining := none } { status := Status.success }

/-- The 256 bytes of FABRIC_QUERY (R478). -/
def State.fabricBytes (s : State) : List Byte :=
  wordBytes ([s.unitSelf, s.ceil.word] ++ (List.range 16).map fun p => (s.port p).stateWord) ++ leBytes 64 s.fabric.digest.toNat ++
    List.replicate 48 0

/-- FABRIC_QUERY. -/
def execFabricQuery (k : Cmd) (s : State) : Host.Outcome State Fault Refusal :=
  s.runCmd k { op := 0x0402, gen := 1 } true (aligned32 (k.par 0) && k.topZero 1 32 && k.zeroFrom 2) fun s =>
    s.replyBytes (k.par 0).toNat (k.par 1).toNat s.fabricBytes { status := Status.success }

/-! ### Control frames lost -/

/-- Held jobs whose schedule uses a port. -/
def State.jobsOnPort (s : State) (p : Nat) : List Nat :=
  s.heldJobs.filter fun j => match (s.job j).bind s.jobImage with
    | some i => i.slots.any fun x => x.port = p
    | none => false

/-- A frame's trace record in every partition that traces the port (R69, R590), at a header's timestamp where one is given (R591). -/
def State.traceFrame (s : State) (p ty payload : Nat) (stamp : Option Word64 := none) : State :=
  ((List.range 16).filter fun n => bit (s.part n).trace.p1 (32 + p)).foldl (fun s n =>
    s.trace { part := n, unit := devRef s.device, type := ty, cls := 0, payload := p * 2 ^ 60 + payload, die := some (4 + p / 8), stamp := stamp }) s

/-- The receipt of a frame whose header cannot be read: the sender's TICK is unknown (log entry 4). -/
def State.traceBad (s : State) (p : Nat) : State := (s.used 1).traceFrame p 0x09 (s.freeAt 58 0).toNat

/-- A control frame lost (R394): the port goes down, the loss is recorded, and the device fails for the jobs that use the link,
unless the peer announced the loss of its clock. -/
def State.loseControl (s : State) (p cause : Nat) : State :=
  let js := s.jobsOnPort p
  let clock := (s.port p).peerClock
  let s := s.modPort p fun k => { k.takeDown .down with ctrlLost := satN 8 (k.ctrlLost + 1) }
  let s := s.raise { unit := devRef s.device, cls := 0x1C, syndrome := p + cause * 2 ^ 8 + b2n clock * 2 ^ 12 }
  if clock || js.isEmpty then s else s.failFor js 0x1C

/-- CONTROL_FRAME_LOST; a CAUSE that is reserved names no loss. -/
def execControlFrameLost (p cause : Nat) (s : State) : Host.Outcome State Fault Refusal :=
  if 16 ≤ p then .refused .noSuchUnit
  else if (s.port p).st ≠ .up || 3 ≤ cause then .next s
  else .next ((if cause = 2 then s else s.traceBad p).loseControl p cause)

/-- A port that lost its control frames is brought up again once no job uses it (R394, R408). -/
def State.retrainPorts (s : State) : State :=
  (List.range 16).foldl (fun s p => if (s.port p).st = .down && (s.jobsOnPort p).isEmpty then s.train p else s) s

/-! ### Key exchange (R382, R383) -/

/-- Ciphertext and switch value of the exchange message of a renewal; all ones announces no switch (log entry 105). -/
def renewalBytes (x : KeyShare) : List Byte := padTo 1568 x.cipher ++ leBytes 8 (x.switch.getD (2 ^ 64 - 1))

/-- This end's share of a key exchange made for the key of its peer, and its exchange message sent from fragment `n` on. -/
def State.makeShare (s : State) (p : Nat) (key : List Byte) (switch : Option Nat) (n : Nat) : State :=
  let (secret, cipher) := Config.encapsulate key s.fresh
  let x : KeyShare := { secret := secret, cipher := cipher, switch := switch }
  (s.used 1).modPort p fun k =>
    { k with share := some x, tokE := k.tokE ++ fragmentTokens n (if k.st = .up then renewalBytes x else padTo 1568 cipher) }

/-- KEY_RENEWAL (R383): after the frames of a key set the port announces, in a new exchange, the switch to new keys; its value,
above the counter and at most 2^40, is a live one. -/
def execKeyRenewal (p : Nat) (s : State) : Host.Outcome State Fault Refusal :=
  if 16 ≤ p then .refused .noSuchUnit
  else
    let k := s.port p
    if k.st ≠ .up || k.switchAt.isSome || k.share.isSome || decide (k.txCount < 2 ^ (28 + bf k.cfg 7 4)) then .next s
    else
      let v := k.txCount + 1 + (s.freeAt 16 0).toNat
      let v := if k.txCount < 2 ^ 40 then min v (2 ^ 40) else k.txCount
      .next (((s.used 1).modPort p fun k => { k with switchAt := some v }).makeShare p k.peerKem (some v) 0)

/-- The keys of a phase for receiving. -/
def Port.rxKeys (k : Port) (phase : Bool) : Option KeySet := if phase then k.rxKeys1 else k.rxKeys0
def Port.setRxKeys (k : Port) (phase : Bool) (v : Option KeySet) : Port :=
  if phase then { k with rxKeys1 := v } else { k with rxKeys0 := v }

/-- A renewal's exchange complete on both sides: the new keys of the directions that announced a switch (R383). -/
def Port.renew (k : Port) (lower : Bool) (dz : List Byte) : Port :=
  match k.share with
  | none => k
  | some own =>
    let cipher := k.fragments.take 1568
    let v := fromLe ((k.fragments.drop 1568).take 8)
    let (tx, rx) := endKeys lower own (Config.decapsulate dz cipher) cipher
    let k := { k with share := none, fragments := [], txNext := if own.switch.isSome then some tx else k.txNext }
    if v = 2 ^ 64 - 1 then k else { k.setRxKeys (!k.rxPhase) (some rx) with rxSwitch := some v }

/-- Five bytes of the exchange message put at their place. -/
def Port.takeFragment (k : Port) (t : Word64) : Port :=
  let n := 5 * bf t 55 40
  let l := k.fragments ++ List.replicate (n + 5 - k.fragments.length) 0
  { k with fragments := l.take n ++ leBytes 5 (bf t 39 0) ++ l.drop (n + 5) }

/-- KEY_FRAGMENT (R382, R383): the peer's certificates complete, this end encapsulates to the KEM key that they certify; a renewal's
message complete, this end answers it and derives the new keys. -/
def execKeyFragment (p : Nat) (t : Word64) (s : State) : Host.Outcome State Fault Refusal :=
  if 16 ≤ p then .refused .noSuchUnit
  else
    let s := s.modPort p fun k => k.takeFragment t
    let k := s.port p
    let n := k.fragments.length
    if k.st = .keying && k.share.isNone && decide (chainBytes ≤ n) then
      .next (s.makeShare p (certKey (chainParts (k.fragments.take 9474)).2.2) none (chainBytes / 5))
    else if k.st = .up && decide (1576 ≤ n) then
      let s := if k.share.isNone then s.makeShare p k.peerKem none 0 else s
      .next (s.modPort p fun k => k.renew (match s.fabric.linkAt s.device p with
        | some (l, isA) => l.lower isA
        | none => true) (kemSeed s.secret))
    else .next s

/-- ECHO (R390): a request is answered at the next control-frame boundary with the cycles it was held, a live value; a
reply is kept for the calibration. -/
def execEcho (p : Nat) (t : Word64) (s : State) : Host.Outcome State Fault Refusal :=
  if 16 ≤ p then .refused .noSuchUnit
  else if bit t 55 then .next (s.modPort p fun k => { k with echoes := k.echoes ++ [t] })
  else
    let hold := (s.freeAt 14 0).toNat
    .next ((s.used 1).modPort p fun k => { k with tokE := k.tokE ++ [echoReply hold] })

/-! ### FAB_PORT_CONFIG (R408) -/

/-- Writable bits of FAB_PORT_CONFIG, and whether a value holds no reserved one. -/
def portCfgMask : Word64 := 0x00000000FFFFFFF1
def portCfgOk (v : Word64) : Bool := bf v 31 16 ≠ 0 && decide (bf v 15 10 ≤ 36) && decide (bf v 9 8 ≤ 1) && decide (bf v 7 4 ≤ 12)

/-- A write to FAB_PORT_CONFIG of a port that no loaded image uses. -/
def State.writePortCfg (s : State) (p : Nat) (v : Word64) : State :=
  let w := v &&& portCfgMask
  let k := s.port p
  if !bit w 0 then
    (s.modPort p fun k => if k.st = .up then { k.takeDown .down with cfg := w } else { k with cfg := w }).modPort p fun k =>
      if k.st.rising then k.takeDown .down else k
  else if k.st = .up then s
  else (s.modPort p fun k => { k with cfg := w }).train p

/-- FAB_PORT_CONFIG_WRITE: ignored for a port that a loaded image uses, and for a reserved value. -/
def execFabPortConfigWrite (p : Nat) (v : Word64) (s : State) : Host.Outcome State Fault Refusal :=
  if 16 ≤ p then .refused .noSuchUnit
  else if s.portUsed p || !portCfgOk v || !s.on then .next s
  else .next ((s.writePortCfg p v).finishJoin)

end Sys2Proof.Machine
end

