-- ==== Sys2Proof/Machine/Frames.lean ====
section
/-!
DEFINITION. Tick frames and control frames sent (R374 to R383, R395 to R399, R409 to R412, R432), and the service tokens of
the elastic class (R392, R397 to R401).
-/

namespace Sys2Proof.Machine

open Sys2Proof

/-! ### The scheduled segment -/

/-- Whether a job's schedule time goes on. -/
def Job.onSchedule (b : Job) : Bool := b.phase = .running && b.slips.isEmpty

/-- The schedule tick by which a job's slot tables are read: that of its own counter, or of the replay counter in a replay slip that runs
(R72, R540); none in any other slip. -/
def Job.slotTick (b : Job) : Option Nat :=
  if b.phase ≠ .running then none
  else match b.slips with
  | [] => some b.stick
  | { kind := .replay _, left := _ + 1 } :: _ => b.replayTick
  | _ => none

/-- The running job whose slot table has an entry for a port direction in this schedule tick, with the entry (R395). -/
def State.slotNow (s : State) (p : Nat) (receive : Bool) : Option (Nat × Job × SlotImg) :=
  s.heldJobs.findSome? fun j => match s.job j with
    | none => none
    | some b =>
      match s.jobImage b with
      | none => none
      | some i => (i.slots.find? fun x => x.port = p && x.receive = receive && b.slotTick = some x.tick).map fun x => (j, b, x)

/-- Job key of a number, with the job. -/
def State.numbered (s : State) (n : Word32) : Option (Nat × Job) :=
  match s.jobNumbered n with
  | none => none
  | some j => (s.job j).map fun b => (j, b)

/-- The TRANSLATION record of a refused access of another device, and its REFUSE (R367). EPOCH and PART are those of the job that the
access names, when it is held here, else `epoch` and the window's partition. -/
def State.refuseFar (s : State) (src : Nat) (job epoch : Word32) (cause window off : Nat) (write : Bool) : State :=
  let u := devRef s.device
  let (part, epoch) := match s.numbered job with
    | some (j, b) => (partOf j, b.epoch)
    | none => (bf (s.window window).w0 61 58, epoch)
  let s := s.raise { unit := u, cls := 0x07, job := job, epoch := epoch, part := part, address := off,
                     syndrome := engineRef u 6 0 + cause * 2 ^ 64 + b2n write * 2 ^ 68 + src * 2 ^ 80 + window * 2 ^ 96 }
  s.sendRefuse src job 2

/-- Partition, virtual address and leaves of `len` bytes at an offset of a window, when it serves an access (R366), by the cache and
walks of the placement engine of I/O die `io`. -/
def State.windowVa (s : State) (io w off len : Nat) (write : Bool) : Option (Nat × Nat × List Leaf) :=
  let e := s.window w
  let part := bf e.w0 61 58
  let va := bf e.w0 51 0 + off
  if !bit e.w0 63 || decide (bf e.w1 18 0 * 65536 < off + len) || (write && !bit e.w0 62) then none
  else match s.translateBy (.place io) part va len write with
  | .error _ => none
  | .ok ls => if ls.all fun l => decide (l.kind ≤ 1) then some (part, va, ls) else none

/-- Whether a place lies in the source of a transfer that missed its WCET tick in the job's step (R84). -/
def Job.isLate (b : Job) (core : Option Nat) (a : Nat) : Bool :=
  b.lateSrc.any fun x => x.1 = b.epoch && x.2.1 = core && decide (x.2.2.1 ≤ a) && decide (a < x.2.2.1 + x.2.2.2)

/-- A sector of memory that a slot table's source names: none of a bounce page, which the placement engine's translation refuses as
unmapped (R573). -/
def State.slotMem (s : State) (p j : Nat) (b : Job) (va : Nat) : List Sector × State :=
  match s.leafAt (partOf j) va with
  | some l =>
    if l.kind = 2 && l.prot then
      let u := devRef s.device
      let s := s.raise { unit := u, cls := 0x07, job := b.number, epoch := b.epoch, part := partOf j, address := pageOf va,
                         syndrome := engineRef u 4 (p / 8 * 2 ^ 42) + Refuse.unmapped.cause * 2 ^ 64 }
      ([], s.stopJob j { status := Status.translationFault, unit := u } [])
    else s.readVa none (partOf j) va 1
  | none => s.readVa none (partOf j) va 1

/-- One sector that a slot table's source gives, with its tags (R377). A read that a window refuses gives a poisoned one (R367), and so
does a source that is late (R84). A forwarded sector is the oldest that waits to be passed out through the port in the schedule tick of
the entry `x` (R395). -/
def State.slotSector (s : State) (p j : Nat) (b : Job) (x : SlotImg) (d : SlotDest) : BitVec 256 × Byte × State :=
  match d with
  | .also a _ => s.slotSector p j b x a
  | .store c off =>
    let (x, s) := carried (s.readSector .store (storeAddr c off / 32)) (c / 96) (ioDie p)
    (BitVec.ofNat 256 (fromLe x.data), tagByte (x.poison || b.isLate (some c) off) (bit x.tag 6), s)
  | .mem va =>
    let (xs, s) := s.slotMem p j b va
    (BitVec.ofNat 256 (fromLe (sectorBytes xs)), tagByte (xs.isEmpty || xs.any (·.poison) || b.isLate none va) (xs.any fun x => bit x.tag 6), s)
  | .window w off => match s.windowVa (p / 8) w off 32 false with
    | none => (0, tagByte true false, s.refuseFar x.source b.number b.epoch 4 w off false)
    | some (q, va, ls) =>
      let (xs, t) := ((s.keepLeaves (.place (p / 8)) ls).under ls).readVa none q va 1
      (BitVec.ofNat 256 (fromLe (sectorBytes xs)), tagByte (xs.any (·.poison)) (xs.any fun x => bit x.tag 6), { t with leaves := s.leaves })
  | .forward _ _ =>
    match (s.port p).passOn.find? fun y => y.1 = x.tick with
    | some y => (y.2.1, y.2.2, s.modPort p fun k => { k with passOn := k.passOn.erase y })
    | none => (0, tagByte true false, s)

/-- The sectors of a slot's sources, in order. -/
def State.slotSectors (s : State) (p j : Nat) (b : Job) (x : SlotImg) : List SlotDest → List (BitVec 256 × Byte) × State
  | [] => ([], s)
  | d :: t =>
    let (a, g, s) := s.slotSector p j b x d
    let (l, s) := State.slotSectors s p j b x t
    ((a, g) :: l, s)

/-! ### The elastic segment (R396 to R401, R509) -/

/-- Order of streams in the round robin: (SRC, STREAM). -/
def TxStream.key (t : TxStream) : Nat := t.src.getD 1024 * 65536 + t.stream

/-- Credits of a partition's pool left on a port (R509); of no pool, those that the partitions' records leave unassigned (R504). -/
def State.poolLeft (s : State) (p : Nat) (pool : Option Nat) : Nat :=
  match pool with
  | none => 4096 - 64 * sumN ((List.range 16).map fun n => recCredits (s.part n).recWords) -
      sumN (((s.port p).spent.filter fun x => x.1.isNone).map (·.2))
  | some n => 64 * recCredits (s.part n).recWords - NMap.get (s.part n).credUsed p 0

/-- How many sectors a multicast stream can send so that every branch has credit for them (R400): a branch needs none for those that
it has sent already. -/
def State.branchRoom (s : State) (t : TxStream) : Nat :=
  if !t.mcast then 4096
  else (s.ports.flatMap fun x => (x.2.txStreams.filter fun u => u.mcast && u.src = t.src && u.stream = t.stream).map fun u =>
    x.2.credits + u.next - t.next).foldl min 4096

/-- The run of consecutive offsets with which a stream's waiting sectors begin, at most `n`. -/
def runOf : Nat → List (Nat × BitVec 256 × Byte) → List (Nat × BitVec 256 × Byte)
  | 0, _ => []
  | _, [] => []
  | n + 1, x :: t => match t with
    | y :: _ => if y.1 = x.1 + 1 then x :: runOf n t else [x]
    | [] => [x]

/-- First tokens of the STREAM_OPEN messages that wait in a queue; `m` bounds the messages. -/
def openHeads : Nat → List Word64 → List Word64
  | 0, _ => []
  | _, [] => []
  | m + 1, t :: q => (if bf t 63 56 = 0x1B then [t] else []) ++ openHeads m ((t :: q).drop (messageLen t))

/-- Whether the STREAM_OPEN of a stream still waits at its port: no sector goes before it (R398). -/
def Port.opening (k : Port) (t : TxStream) : Bool :=
  (openHeads k.tokE.length k.tokE).any fun w => bf w 55 46 = t.dst && bf w 45 30 = t.stream && bit w 21 = t.mcast

/-- Streams of a port that can send, in the order of the round robin after the last one served (R399). -/
def State.turn (s : State) (p : Nat) : Option TxStream :=
  let k := s.port p
  let ok := sortBy TxStream.key (k.txStreams.filter fun t => !t.sectors.isEmpty && t.src.isSome && decide (0 < k.credits) &&
    decide (0 < s.poolLeft p t.pool) && decide (0 < s.branchRoom t) && !k.opening t)
  let last := k.rrLast.1 * 65536 + k.rrLast.2
  (ok.find? fun t => decide (last < t.key)) <|> ok.head?

/-- A stream that relays an Ethernet message from this device (R498). -/
def TxStream.relays (t : TxStream) (self : Nat) : Bool := t.src = some self && t.job = 0 && t.pool.isNone && t.via.isNone

/-- The next relayed message to a device handed to the fabric once the stream of the one before has left, and acknowledged to its peer
(R498, R500); without a way it is refused. -/
def State.relayNext (s : State) (d : Nat) : State :=
  if s.ports.any fun x => x.2.txStreams.any fun t => t.dst = d && t.relays s.device then s
  else match s.relayQ.find? fun m => m.dev = d with
  | none => s
  | some m =>
    let s : State := { s with relayQ := s.relayQ.erase m }
    match s.openStream d m.window m.base false 0 0 0xFFFF 0xFFFF false none m.sectors with
    | some t => t.ethSend (.ack m.link m.qp m.psn)
    | none => s.ethSend (.nakAccess m.link m.qp m.psn)

/-- A segment of a stream taken from its port: spent credits noted, the credits of forwarded sectors returned to the port
that brought them, a finished stream closed. -/
def State.takeSegment (s : State) (p : Nat) (t : TxStream) (seg : List (Nat × BitVec 256 × Byte)) (counter : Nat) : State :=
  let n := seg.length
  let rest : TxStream := { t with next := t.next + n, sectors := t.sectors.drop n }
  let s := s.modPort p fun k =>
    { k with
      credits := k.credits - n, spent := k.spent ++ [(t.pool.map fun q => (q, t.job), n)], rrLast := (t.src.getD 0, t.stream),
      sent := lastN 1024 (k.sent ++ [{ keys := k.keysUsed, counter := counter, src := t.src.getD 0, stream := t.stream, offset := (seg.head?.map (·.1)).getD 0, count := n }]),
      txStreams := if t.length ≤ rest.next then k.txStreams.filter (· ≠ t) else k.txStreams.map fun u => if u = t then rest else u }
  let s := match t.pool with
    | some q => s.modPart q fun x => { x with credUsed := NMap.modify x.credUsed p 0 (· + n) }
    | none => s
  match t.via with
  | some q => (s.modPort q fun k => { k with rxHeld := k.rxHeld - n }).sendCredit q n
  | none => if t.relays s.device then s.relayNext t.dst
    else if t.src = some s.device && decide (t.length ≤ rest.next) then s.streamSent t.stream else s

/-! ### The data frame (R375, R376, R405) -/

/-- A mask with bit `i` of each listed sector's tag bit `b`. -/
def maskBits (b : Nat) (l : List (BitVec 256 × Byte)) : BitVec 40 := l.zipIdx.foldl (fun m x => if bit x.1.2 b then m ||| (1#40 <<< x.2) else m) 0

/-- A frame with both segments empty. -/
def emptyFrame (stamp : Word64) (phase : Bool) : Frame :=
  { timestamp := stamp, route := BitVec.ofNat 32 (b2n phase), sJob := 0, sEpoch := 0, sLayer := 0, sOperator := 0, nodeLo := 0,
    nodeLen := 0, eJob := 0, eEpoch := 0, eLayer := 0, eOperator := 0, stream := 0, ePos := 0, poison := 0, protect := 0,
    payload := List.replicate 36 0 }

/-- The scheduled segment put into a frame; a device that is failed for the job sends none of it (R432). -/
def State.putScheduled (s : State) (p : Nat) (f : Frame) : Frame × List (BitVec 256 × Byte) × State :=
  match s.slotNow p false with
  | none => (f, [], s)
  | some (j, b, x) =>
    if b.failed then (f, [], s)
    else
      let (l, s) := s.slotSectors p j b x x.places
      if l.isEmpty then (f, [], s)
      else
        ({ f with route := f.route ||| BitVec.ofNat 32 (l.length * 2 ^ 5 + 2 ^ 4 + b2n x.collective * 2 ^ 3), sJob := b.number,
                  sEpoch := b.epoch, sLayer := b.tags.layer, sOperator := b.tags.operator,
                  nodeLo := if x.collective then BitVec.ofNat 16 x.nodeLo else 0,
                  nodeLen := if x.collective then BitVec.ofNat 16 x.nodeLen else 0 }, l, s)

/-- The elastic segment put into a frame that has `room` sectors left. -/
def State.putElastic (s : State) (p room counter : Nat) (f : Frame) : Frame × List (BitVec 256 × Byte) × State :=
  match s.turn p with
  | none => (f, [], s)
  | some t =>
    let seg := runOf (min room (min (s.branchRoom t) (min (s.port p).credits (s.poolLeft p t.pool)))) t.sectors
    match seg with
    | [] => (f, [], s)
    | x :: _ =>
      let n := seg.length
      let last := decide (t.length ≤ t.next + n)
      let rev2 := (s.port p).rev = 2
      ({ f with route := f.route ||| BitVec.ofNat 32 (t.dst * 2 ^ 22 + t.src.getD 0 * 2 ^ 12 + b2n t.mcast * 2 ^ 11 + b2n t.prov * 2 ^ 2 + b2n last * 2),
                eJob := t.job, eEpoch := t.epoch, eLayer := if rev2 then 0 else t.layer, eOperator := if rev2 then 0 else t.operator,
                stream := BitVec.ofNat 16 t.stream, ePos := BitVec.ofNat 32 (n * 2 ^ 26 + x.1) },
        seg.map (·.2), s.takeSegment p t seg counter)

/-! ### TICK_FRAME_SEND -/

/-- The frame period in ticks (R374). -/
def Port.period (k : Port) : Nat := if k.rate64 then 2 else 1

/-- Whether a frame of the port begins in this tick: its period has run since the last one. -/
def Port.frameDue (k : Port) (tick : Nat) : Bool := match k.lastSent with
  | some t => decide (t + k.period ≤ tick)
  | none => true

/-- The keys under which the next frame goes: at the announced counter value the new ones take effect, once they are agreed
(R383). -/
def Port.switchKeys (k : Port) : Port :=
  match k.switchAt, k.txNext with
  | some v, some y =>
    if v ≤ k.txCount then
      { k with keyPhase := !k.keyPhase, tx := some y, txNext := none, txCount := 0, txCtrl := 0, switchAt := none, keysUsed := k.keysUsed + 1,
               renewals := k.renewals + 1 }
    else k
  | _, _ => k

/-- The data frame of a port in this tick, with the state after its sectors were taken (R375, R376, R405). -/
def State.dataFrame (s : State) (p : Nat) : Frame × State :=
  let (f, a, s) := s.putScheduled p (emptyFrame s.stamp (s.port p).keyPhase)
  let (f, b, s) := s.putElastic p (36 - a.length) (s.port p).txCount f
  let l := a ++ b
  ({ f with poison := maskBits 7 l, protect := if (s.port p).rev = 2 then 0 else maskBits 6 l,
            payload := l.map (·.1) ++ List.replicate (36 - l.length) 0 }, s)

/-- Class S places that the slot tables of the running jobs reserve on a port direction in this tick (R412). -/
def State.reservedPlaces (s : State) (p : Nat) (receive : Bool) : List (Word32 × SPlace) :=
  s.heldJobs.flatMap fun j => match s.job j with
    | none => []
    | some b =>
      match s.jobImage b with
      | none => []
      | some i => (i.slots.filter fun x => x.port = p && x.receive = receive && b.slotTick = some x.tick).flatMap fun x =>
          x.tokens.map fun y => (b.number, y)

/-- A data frame and a control frame sent by an up port (R374, R378 to R381, R383). -/
def State.sendFrames (s : State) (p : Nat) : State :=
  let s := s.modPort p Port.switchKeys
  let c := (s.port p).txCount
  let reserved := s.reservedPlaces p false
  let (f, s) := s.dataFrame p
  let s := s.traceFrame p 0x08 (c % 2 ^ 60) (some f.timestamp)
  let k := (s.port p).sendControl f.timestamp reserved
  let starved := k.credits = 0 && k.txStreams.any fun t => t.mcast && !t.sectors.isEmpty
  s.modPort p fun _ =>
    { k with txCount := c + 1, outFrame := some f, lastSent := some s.tick,
             outWire := match k.tx with
               | some y => dataWord (sealFrame y c f)
               | none => [],
             mcastSince := if starved then k.mcastSince else s.tick }

/-- Whether the next data frame waits for new keys: the announced switch value, or 2^40 frames under one key set, is reached and the new keys
are not agreed (R383; log entry 105). -/
def Port.keysSpent (k : Port) : Bool :=
  k.txNext.isNone && ((match k.switchAt with
    | some v => decide (v ≤ k.txCount)
    | none => false) || decide (2 ^ 40 ≤ k.txCount))

/-- The frames that a port sends in this tick, if they are due: both when it is up, the control frame alone in bring-up and
while the port waits for new keys. -/
def State.sendDue (s : State) (p : Nat) : State :=
  let k := s.port p
  if s.framesStopped || !k.frameDue s.tick then s
  else if k.st = .up && !k.keysSpent then s.sendFrames p
  else if k.st.talks then s.modPort p fun k => { k.sendControl s.stamp [] with lastSent := some s.tick }
  else s

/-- TICK_FRAME_SEND: the frames of a port that begin at this tick boundary. -/
def execTickFrameSend (p : Nat) (s : State) : Host.Outcome State Fault Refusal :=
  if 16 ≤ p then .refused .noSuchUnit else .next (s.sendDue p)

/-! ### Credits, lost frames, streams -/

/-- Credits taken off the oldest spending, pool by pool. -/
def settle : Nat → List (Option (Nat × Word32) × Nat) → List (Option (Nat × Word32) × Nat) × List (Nat × Nat)
  | _, [] => ([], [])
  | n, (q, m) :: t =>
    if n = 0 then ((q, m) :: t, [])
    else
      let d := min n m
      let (rest, back) := settle (n - d) t
      let back := match q with
        | some p => (p.1, d) :: back
        | none => back
      if m ≤ d then (rest, back) else ((q, m - d) :: t, back)

/-- CREDIT (R397, R509): the sender's count rises, and the pools that paid regain theirs. -/
def execCredit (p : Nat) (t : Word64) (s : State) : Host.Outcome State Fault Refusal :=
  if 16 ≤ p then .refused .noSuchUnit
  else
    let n := bf t 55 43
    let (rest, back) := settle n (s.port p).spent
    let s := s.modPort p fun k => { k with credits := min 4096 (k.credits + n), spent := rest }
    .next (back.foldl (fun s x => s.modPart x.1 fun q => { q with credUsed := NMap.modify q.credUsed p 0 (· - x.2) }) s)

/-- The two tokens of FRAME_ACCOUNT (R416). -/
def accountTokens (x : SentSeg) : List Word64 :=
  [token 0x1A (x.src * 2 ^ 46 + x.stream * 2 ^ 30 + x.count * 2 ^ 24 + x.counter % 2 ^ 24), token 0x1A (x.offset * 2 ^ 30)]

/-- FRAME_LOST (R392): the sender accounts for the elastic sectors of the frame: one of the key set in use, or, for a counter that
this set has not reached, of the one before. -/
def execFrameLost (p : Nat) (t : Word64) (s : State) : Host.Outcome State Fault Refusal :=
  if 16 ≤ p then .refused .noSuchUnit
  else
    let c := bf t 55 0
    let k := s.port p
    let set := if c < k.txCount % 2 ^ 56 then k.keysUsed else k.keysUsed - 1
    let x := (k.sent.find? fun x => x.keys = set && x.counter % 2 ^ 56 = c).getD { keys := set, counter := c, src := 0, stream := 0, offset := 0, count := 0 }
    .next (s.sendTokens p .e (accountTokens x))

/-- MCAST_TIMEOUT (R401): a branch that has lacked credit for MCAST_TIMEOUT leaves the stream, and its receivers are told.
Its sectors' credits go back unless another branch still has to send them. -/
def execMcastTimeout (p src stream : Nat) (s : State) : Host.Outcome State Fault Refusal :=
  if 16 ≤ p then .refused .noSuchUnit
  else
    let k := s.port p
    match k.txStreams.find? fun t => t.mcast && t.src = some src && t.stream = stream with
    | none => .next s
    | some t =>
      if k.credits ≠ 0 || t.sectors.isEmpty || decide (s.tick < k.mcastSince + 100 * bf k.cfg 31 16) then .next s
      else
        let s := s.modPort p fun k => { k with txStreams := k.txStreams.filter (· ≠ t) }
        let s := s.sendTokens p .e [token 0x1C (src * 2 ^ 46 + stream * 2 ^ 30)]
        let s := s.raise { unit := devRef s.device, cls := 0x1B, job := t.job, epoch := t.epoch,
                           syndrome := p + src * 2 ^ 16 + stream * 2 ^ 32 + t.dst * 2 ^ 48 }
        match t.via with
        | none => .next s
        | some q =>
          let same (u : TxStream) : Bool := u.mcast && u.src = some src && u.stream = stream
          match s.upPorts.find? fun o => (s.port o).txStreams.any same with
          | some o => .next (s.modPort o fun k => { k with txStreams := k.txStreams.map fun u => if same u then { u with via := some q } else u })
          | none => .next ((s.modPort q fun k => { k with rxHeld := k.rxHeld - t.sectors.length }).sendCredit q t.sectors.length)

end Sys2Proof.Machine
end

