-- ==== Sys2Proof/Machine/Receive.lean ====
section
/-!
DEFINITION. Tick frames received (R377, R391 to R395, R405), elastic streams into windows and through this device (R366,
R367, R397 to R401, R500), remote posts and refusals (R422, R667).
-/

namespace Sys2Proof.Machine

open Sys2Proof

/-! ### Scheduled sectors (R391, R393, R395) -/

/-- A delivered sector of a job is poisoned: its step is suspect, and no core is named (R527). -/
def State.portPoison (s : State) (j : Nat) (b : Job) (poison : Bool) : State := if poison then s.suspect j b.epoch 384 0x02 else s

/-- One scheduled sector brought to its place; the state answers whether it was refused: CAUSE, window, offset or page (R366, R367). -/
def State.placeSector (s : State) (p j : Nat) (b : Job) (d : SlotDest) (data : BitVec 256) (poison prot : Bool) :
    Option (Nat × Nat × Nat) × State :=
  let bytes := leBytes 32 data.toNat
  match d with
  | .also x y =>
    let (e, s) := s.placeSector p j b x data poison prot
    let (f, s) := State.placeSector s p j b y data poison prot
    (e <|> f, s)
  | .store c off =>
    let (bad, s) := s.cross (ioDie p) (c / 96)
    (none, (s.putSector .store (storeAddr c off / 32) bytes (poison || bad) prot).portPoison j b (poison || bad))
  | .mem va => match s.translateBy (.place (p / 8)) (partOf j) va 32 true with
    | .error e => (some (e.1.cause, 0, e.2), s)
    | .ok ls => match (ls.head?.map fun l => (l.prot, l.target va) : Option (Bool × Target)) with
    | some (true, .host _) => (some (Refuse.unmapped.cause, 0, pageOf va), s)
    | some (false, .host a) => (none, ((s.keepLeaves (.place (p / 8)) ls).hold j (.hostWrite b.epoch a bytes)).portPoison j b poison)
    | _ =>
      let t := ((s.keepLeaves (.place (p / 8)) ls).under ls).writeVa none (partOf j) va [(bytes, poison)]
      (none, (State.markPath { t with leaves := s.leaves } j 2).portPoison j b poison)
  | .window w off => match s.windowVa (p / 8) w off 32 true with
    | none => (some (4, w, off), s)
    | some (q, va, ls) =>
      let t := ((s.keepLeaves (.place (p / 8)) ls).under ls).writeVa none q va [(bytes, poison)]
      (none, State.portPoison { t with leaves := s.leaves } j b poison)
  | .forward q t =>
    let (bad, s) := s.cross (ioDie p) (ioDie q)
    (none, s.modPort q fun k => { k with passOn := k.passOn ++ [(t, data, tagByte (poison || bad) prot)] })

/-- The sectors that a slot table expects in a frame, delivered with what the frame carries, or all poisoned; the first
refused access is recorded and refused once (R367). -/
def State.deliverSlot (s : State) (p j : Nat) (b : Job) (x : SlotImg) (f : Option Frame) (rev2 : Bool) : State :=
  let (bad, s) := x.places.zipIdx.foldl (fun (acc : Option (Nat × Nat × Nat) × State) y =>
    let (data, poison, prot) : BitVec 256 × Bool × Bool := match f with
      | some f => (f.payload.getD y.2 0, bit f.poison y.2, !rev2 && bit f.protect y.2)
      | none => (0, true, false)
    let (e, s) := acc.2.placeSector p j b y.1 data poison prot
    (acc.1 <|> e, s)) (none, s)
  match bad with
  | none => s
  | some (cause, w, a) => s.refuseFar x.source b.number b.epoch cause w a true

/-! ### Elastic sectors (R397 to R401, R500) -/

/-- The post that a relayed message's last segment makes (R497, R500): the stream names no job, and the region of the
window's number asks for it. -/
def State.relayPost (s : State) (r : RxStream) : State :=
  match NMap.get s.regions r.window none with
  | some g => if r.job = 0 && bit g.w0 63 && !bit g.w0 62 && bit g.w0 61 then s.post (bf g.w1 53 48) (bf g.w1 47 40) 1 none else s
  | none => s

/-- An incoming stream replaced, or closed. -/
def State.setRx (s : State) (r : RxStream) (v : Option RxStream) : State :=
  match s.rxStreams.findIdx? (· = r) with
  | none => s
  | some i => { s with rxStreams := match v with
      | some x => s.rxStreams.set i x
      | none => s.rxStreams.eraseIdx i }

/-- The relayed messages of a source that are written whole, with none before them that is not, post in the order in which their streams
were opened, and close (R497). One of a source not yet known may be of this one. -/
def State.relayPosts (s : State) (src : Nat) : State :=
  let due := (s.rxStreams.filter fun r => r.job = 0 && !r.refused && (r.src = none || r.src = some src)).takeWhile (·.waits)
  due.foldl (fun s r => (s.setRx r none).relayPost r) s

/-- The accesses that a window has admitted and not finished, changed (R368). -/
def State.modOpen (s : State) (w : Nat) (f : Nat → Nat) : State := s.setWindow w { s.window w with open_ := f (s.window w).open_ }

/-- A stream at its window (R366, R368): the translation under which it was admitted, or under which its first segment now is, the
whole range at once. -/
def State.admitStream (s : State) (r : RxStream) : Option (Nat × Nat × List Leaf) :=
  if r.refused then none
  else match r.admitted with
  | some a => some a
  | none => s.windowVa (r.port / 8) r.window r.base (32 * r.length) true

/-- Bytes stored from a virtual address: at most two sectors' worth. -/
def State.writeBytesVa (s : State) (part va : Nat) (b : List Byte) (poison : Bool) : State :=
  let put (s : State) (a : Nat) (b : List Byte) : State := match s.leafAt part a with
    | some l => s.writeAt none (l.target a) b poison l.prot
    | none => s
  put (put s va (b.take (32 - va % 32))) (va + (32 - va % 32)) (b.drop (32 - va % 32))

/-- Sectors of a stream stored from a virtual address, which a relayed message need not align (R495, R498). -/
def State.writeStream (s : State) (part va : Nat) (xs : List (List Byte × Bool)) : State :=
  if va % 32 = 0 then s.writeVa none part va xs
  else xs.zipIdx.foldl (fun s x => s.writeBytesVa part (va + 32 * x.2) x.1.1 x.1.2) s

/-- Sectors of a stream written into its window, or refused (R366, R367, R398). The segment that carries E_LAST closes it, once
no account of a lost frame of its port is outstanding (R392). A stream that was admitted runs to its end under its translation
(R368, R370; log entry 110). -/
def State.intoWindow (s : State) (r : RxStream) (src off : Nat) (epoch : Option Word32) (last : Bool) (xs : List (BitVec 256 × Byte)) : State :=
  let n := xs.length
  let ended := r.last || last
  let done := decide (r.length ≤ r.seen + n) || (ended && decide ((s.port r.port).lost = 0))
  let keep (s : State) (x : RxStream) : State :=
    let y := { x with src := some src, seen := r.seen + n, last := ended, epoch := epoch, waits := done }
    s.setRx r (if done && (y.refused || y.job ≠ 0) then none else some y)
  match s.admitStream r with
  | none =>
    let s := keep s { r with refused := true }
    if r.refused then s else s.refuseFar src r.job (epoch.getD 0) 4 r.window (r.base + 32 * off) true
  | some (part, va, ls) =>
    let first := r.admitted.isNone
    let s := if first then (s.keepLeaves (.place (r.port / 8)) ls).modOpen r.window (· + 1) else s
    let t := (s.under ls).writeStream part (va + 32 * off) ((xs.take (r.length - off)).map fun x => (leBytes 32 x.1.toNat, bit x.2 7))
    let s : State := { t with leaves := s.leaves }
    let s := match s.numbered r.job with
      | some (j, b) => s.portPoison j b (xs.any fun x => bit x.2 7)
      | none => s
    let s := keep s { r with admitted := some (part, va, ls) }
    if done then (s.modOpen r.window (· - 1)).relayPosts src else s

/-- Place in a list of the stream that a segment belongs to: the one of its source, else the first that no segment has claimed and that
fits (R398, log entry 51). -/
def pickStream {α : Type} (src : Nat) (known : α → Option Nat) (same fits : α → Bool) (l : List α) : Option Nat :=
  (l.findIdx? fun x => same x && known x = some src) <|> l.findIdx? fun x => same x && (known x).isNone && fits x

/-- The stream into a window here that a segment belongs to: SRC, STREAM, its job where the frame names it. -/
def State.rxOf (s : State) (p src stream : Nat) (job : Option Word32) : Option RxStream :=
  (pickStream src RxStream.src (fun r => r.stream = stream && r.port = p && !r.waits) (fun r => job.all fun n => r.job = n) s.rxStreams).bind
    fun i => s.rxStreams[i]?

/-- Place among a port's streams of the one that passes on a segment that came in on port `p`. -/
def Port.passes (k : Port) (p src stream : Nat) (job : Option Word32) : Option Nat :=
  pickStream src TxStream.src (fun t => t.stream = stream && (t.via = some p || (t.mcast && t.via.isNone))) (fun t => job.all fun n => t.job = n)
    k.txStreams

/-- Sectors that came in on port `p` put at the ports that pass their stream on. -/
def State.forward (s : State) (p src stream off : Nat) (f : Option Frame) (xs : List (BitVec 256 × Byte)) : State :=
  let more := xs.zipIdx.map fun (x : (BitVec 256 × Byte) × Nat) => (off + x.2, x.1)
  let put (t : TxStream) : TxStream :=
    let u := { t with src := some src, sectors := t.sectors ++ more }
    match f with
    | some f => { u with epoch := f.eEpoch, layer := f.eLayer, operator := f.eOperator, prov := bit f.route 2 }
    | none => u
  s.mapPorts fun _ k => match k.passes p src stream (f.map (·.eJob)) with
    | some i => { k with txStreams := k.txStreams.modify i put }
    | none => k

/-- Elastic sectors that came in on a port: written to the window of the stream, or passed on with their credits held, or
both for a multicast; sectors of no stream are dropped. -/
def State.elasticPlace (s : State) (p src stream off : Nat) (f : Option Frame) (xs : List (BitVec 256 × Byte)) : State :=
  let n := xs.length
  let job := f.map (·.eJob)
  let out := s.upPorts.any fun o => ((s.port o).passes p src stream job).isSome
  let s := match s.rxOf p src stream job with
    | some r => match f with
      | some f => s.intoWindow r src off (some f.eEpoch) (bit f.route 1) xs
      | none => s.intoWindow r src off r.epoch false xs
    | none => s
  if out then (s.modPort p fun k => { k with rxHeld := k.rxHeld + n }).forward p src stream off f xs
  else s.sendCredit p n

/-- Elastic sectors that came in on a port. In Quiet they wait in the receiving buffer with their credits held (R606). -/
def State.elasticIn (s : State) (p src stream off : Nat) (f : Option Frame) (xs : List (BitVec 256 × Byte)) : State :=
  if s.quiet then
    { s.modPort p fun k => { k with rxHeld := k.rxHeld + xs.length } with
      waitSegs := s.waitSegs ++ [{ port := p, src := src, stream := stream, offset := off, frame := f, sectors := xs }] }
  else s.elasticPlace p src stream off f xs

/-! ### TICK_FRAME_RECEIVE -/

/-- Frame counter of a data frame that a port receives, given its KEY_PHASE where it is known: under the new keys from the announced
counter value on, which begin at 0 (R380, R383). -/
def Port.arrive (k : Port) (phase : Option Bool) : Nat × Port :=
  let new := match phase with
    | some x => x ≠ k.rxPhase && (k.rxKeys x).isSome
    | none => match k.rxSwitch with
      | some v => decide (v ≤ k.rxCount)
      | none => false
  if new then (0, { k with rxCount := 1, rxPhase := !k.rxPhase, rxSwitch := none }) else (k.rxCount, { k with rxCount := k.rxCount + 1 })

/-- The old keys given up, once frames of both kinds have come under the new phase (R383). -/
def Port.dropOld (k : Port) : Port := if k.rxPhase = k.rxCtrlPhase && k.rxSwitch.isNone then k.setRxKeys (!k.rxPhase) none else k

/-- A frame that is lost (R391, R392): what the slot table expects is delivered poisoned, the frame counted and recorded,
and the sender told. Its receipt is recorded before (R69). -/
def State.loseFrame (s : State) (p counter cause : Nat) : State :=
  let s := s.modPort p fun k => if cause = 0 then { k with uncorrectable := satN 16 (k.uncorrectable + 1) }
    else { k with authFail := satN 8 (k.authFail + 1) }
  let s := s.modPort p fun k => { k with lost := k.lost + 1 }
  let s := s.raise { unit := devRef s.device, cls := 0x19, syndrome := p + cause * 2 ^ 8 + counter * 2 ^ 64 }
  let s := match s.slotNow p true with
    | some (j, b, x) => s.deliverSlot p j b x none false
    | none => s
  s.sendTokens p .e [token 0x19 (counter % 2 ^ 56)]

/-- The scheduled segment of a good frame against the slot table (R393). -/
def State.checkSlot (s : State) (p counter : Nat) (f : Frame) : State :=
  let got := bf f.route 10 5
  let rev2 := (s.port p).rev = 2
  let record (s : State) (want : Nat) (node : Bool) : State :=
    s.raise { unit := devRef s.device, cls := 0x1A, syndrome := p + want * 2 ^ 8 + got * 2 ^ 16 + b2n node * 2 ^ 24 + counter * 2 ^ 64 }
  match s.slotNow p true with
  | none => if got = 0 then s else record s 0 false
  | some (j, b, x) =>
    let node := x.collective && (f.nodeLo.toNat ≠ x.nodeLo || f.nodeLen.toNat ≠ x.nodeLen)
    if got ≠ x.places.length || node then record (s.deliverSlot p j b x none rev2) x.places.length node
    else s.deliverSlot p j b x (some f) rev2

/-- The sender's TICK in the header of a message, which goes in the clear (R375, R381). -/
def headerTick (w : Wire) : Nat := bf (BitVec.ofNat 64 (fromLe (w.message.take 8))) 63 6

/-- A control frame received (R379, R381, R383, R394): corrected, opened under the keys of its phase, its receipt traced (R69). The
tokens that it brought take effect as the commands named for them (log entry 107). -/
def State.controlIn (s : State) (p : Nat) (w : Wire) : State :=
  let n := wrongSymbols w 128
  if 4 < n then (s.traceBad p).loseControl p 0
  else
    let s := s.modPort p fun k => { k with corrected := satN 32 (k.corrected + n) }
    let phase := controlPhase w.message
    let k := s.port p
    let c := if phase = k.rxCtrlPhase then k.rxCtrl else 0
    match (k.rxKeys phase).bind fun y => openControl y c w.message with
    | none => (s.traceFrame p 0x09 (headerTick w)).loseControl p 1
    | some ts =>
      (s.modPort p fun k => { k with rxCtrl := c + 1, rxCtrlPhase := phase, inTokens := ts }).traceFrame p 0x09 (headerTick w)

/-- A control frame of a port in bring-up: what it carries counts, and a bad one is passed over. -/
def State.controlEarly (s : State) (p : Nat) (w : Wire) : State :=
  let k := s.port p
  if 4 < wrongSymbols w 128 then s
  else match k.rxKeys0 with
  | none => s.modPort p fun k => { k with corrected := satN 32 (k.corrected + wrongSymbols w 128), inTokens := tokensOf (w.message.drop 22) }
  | some y => match openControl y k.rxCtrl w.message with
    | none => s
    | some ts => s.modPort p fun k => { k with corrected := satN 32 (k.corrected + wrongSymbols w 128), rxCtrl := k.rxCtrl + 1, inTokens := ts }

/-- The sectors of a good frame delivered (R376, R377, R395, R397, R405). -/
def State.frameIn (s : State) (p counter : Nat) (f : Frame) : State :=
  let s := (s.modPort p Port.dropOld).traceFrame p 0x09 (bf f.timestamp 63 6)
  let s := s.checkSlot p counter f
  let n := bf f.ePos 31 26
  let base := bf f.route 10 5
  let rev2 := (s.port p).rev = 2
  let xs := (List.range n).map fun i =>
    (f.payload.getD (base + i) 0, tagByte (bit f.poison (base + i)) (!rev2 && bit f.protect (base + i)))
  let f := if rev2 then { f with eLayer := 0xFFFF, eOperator := 0xFFFF } else f
  if n = 0 then s else s.elasticIn p (bf f.route 21 12) f.stream.toNat (bf f.ePos 25 0) (some f) xs

/-- A tick frame received (R378, R381, R383, R391): corrected, opened under the keys of its phase, delivered; or lost. -/
def State.dataIn (s : State) (p : Nat) (w : Wire) : State :=
  let n := wrongSymbols w 1024
  if 16 < n then
    let (c, k) := (s.port p).arrive none
    ((s.modPort p fun _ => k).traceBad p).loseFrame p c 0
  else
    let phase := bit (BitVec.ofNat 8 (fromLe ((w.message.drop 8).take 1))) 0
    let (c, k) := (s.port p).arrive (some phase)
    let s := s.modPort p fun _ => { k with corrected := satN 32 (k.corrected + n) }
    match (k.rxKeys phase).bind fun y => openFrame y c w.message with
    | none => (s.traceFrame p 0x09 (headerTick w)).loseFrame p c 1
    | some f => s.frameIn p c f

/-- TICK_FRAME_RECEIVE: a tick frame that completes at a port, and the control frame that completes with it. -/
def execTickFrameReceive (p : Nat) (message : List Byte) (errors : NMap (BitVec 10)) (control : Option Wire) (s : State) :
    Host.Outcome State Fault Refusal :=
  if 16 ≤ p then .refused .noSuchUnit
  else
    let s := match control with
      | none => s
      | some w => if (s.port p).st = .up then s.controlIn p w else if (s.port p).st.talks then s.controlEarly p w else s
    .next (if (s.port p).st = .up then s.dataIn p { message := message, errors := errors } else s)

/-! ### Service tokens -/

/-- FRAME_ACCOUNT (R392): the lost elastic sectors arrive poisoned. -/
def execFrameAccount (p : Nat) (t0 t1 : Word64) (s : State) : Host.Outcome State Fault Refusal :=
  if 16 ≤ p then .refused .noSuchUnit
  else
    let n := bf t0 29 24
    let s := s.modPort p fun k => { k with lost := k.lost - 1 }
    .next (if n = 0 then s
      else s.elasticIn p (bf t0 55 46) (bf t0 45 30) (bf t1 55 30) none (List.replicate n (0, tagByte true false)))

/-- Ports and presence of a multicast group here, by the image of the job that a stream names (R400). -/
def State.mcastOf (s : State) (job : Word32) (g : Nat) : Option McastImg :=
  ((s.numbered job).bind fun x => s.jobImage x.2).bind fun i => i.mcasts.find? fun m => m.group = g

/-- STREAM_OPEN (R398 to R400): a stream into a window of this device, or passed on toward its device or along the ports
of its multicast group. -/
def execStreamOpen (p : Nat) (t0 t1 t2 : Word64) (s : State) : Host.Outcome State Fault Refusal :=
  if 16 ≤ p then .refused .noSuchUnit
  else
    let dst := bf t0 55 46
    let stream := bf t0 45 30
    let mcast := bit t0 21
    let job : Word32 := BitVec.ofNat 32 (bf t1 55 24)
    let len := bf t1 23 0 + bf t2 55 54 * 2 ^ 24
    let (here, outs) : Bool × List Nat :=
      if mcast then match s.mcastOf job dst with
        | some m => (m.here, m.ports.filter (· ≠ p))
        | none => (false, [])
      else if dst = s.device then (true, [])
      else (false, (s.portToward dst stream).toList)
    let r : RxStream := { src := none, stream := stream, port := p, window := bf t0 29 22, base := bf t2 53 20, length := len, job := job,
                          rel := bit t0 20, seen := 0, admitted := none, refused := false, last := false }
    let s := if here then { s with rxStreams := s.rxStreams ++ [r] } else s
    .next (outs.zipIdx.foldl (fun s x =>
      let t : TxStream := { src := none, stream := stream, dst := dst, mcast := mcast, job := job, epoch := 0, layer := 0xFFFF, operator := 0xFFFF,
                            prov := false, length := len, next := 0, sectors := [], pool := none, via := if x.2 = 0 then some p else none }
      (s.sendTokens x.1 .e [t0, t1, t2]).modPort x.1 fun k => { k with txStreams := k.txStreams ++ [t] }) s)

/-- STREAM_DROP (R401): a dropped receiver writes what was not delivered poisoned; the token goes on along the stream. -/
def execStreamDrop (p : Nat) (t : Word64) (s : State) : Host.Outcome State Fault Refusal :=
  if 16 ≤ p then .refused .noSuchUnit
  else
    let src := bf t 55 46
    let stream := bf t 45 30
    let outs := s.upPorts.filter fun o => o ≠ p && ((s.port o).passes p src stream none).isSome
    let s := outs.foldl (fun s o =>
      (s.sendTokens o .e [t]).modPort o fun k => { k with txStreams := match k.passes p src stream none with
        | some i => k.txStreams.eraseIdx i
        | none => k.txStreams }) s
    match s.rxOf p src stream none with
    | none => .next s
    | some r => .next (s.intoWindow r src r.seen r.epoch true (List.replicate (r.length - r.seen) (0, tagByte true false)))

/-- SEM_POST (R414, R420): on its way to its sync unit (`State.landPost`); or passed on, in class S only
when it came in a place that a slot table names for it. -/
def execSemPostToken (p : Nat) (t0 t1 : Word64) (s : State) : Host.Outcome State Fault Refusal :=
  if 16 ≤ p then .refused .noSuchUnit
  else
    let dev := bf t0 55 46
    let job : Word32 := BitVec.ofNat 32 (bf t1 45 14)
    if dev ≠ s.device then .next (s.sendPost dev job [t0, t1] (!(s.reservedPlaces p true).any fun x => takesToken x.2.kind x.1 [t0, t1]))
    else
      let cl := 12 * bf t0 45 44 + bf t0 43 40
      .next { s with postsDue := s.postsDue ++
        [{ due := s.tick + 6, dev := dev, cluster := cl, sem := bf t0 39 32, count := bf t0 31 16, number := job, src := bf t1 55 46, core := none }] }

/-- Engine references of the engines of a device that reach windows of others (R644): cores, DMA engines, embedding engines. -/
def accessEngines (dev : Nat) : List Nat :=
  ((List.range 384).map fun c => engineRef (coreRef dev c) 1 0) ++
    ((List.range 192).map fun i => engineRef (clusterRef dev (i / 4)) 2 (i % 4 * 2 ^ 40)) ++
    (List.range 48).map fun cl => engineRef (clusterRef dev cl) 3 0

/-- The TRANSLATION record at the device whose access a window refused (R367, R547). The token names the job alone: the engine and the
side are live values among those they may take (R16), and REMOTE, WINDOW and the offset those of one of the partition's pages there,
or, without such a page, live values; a relayed write (R499) names no job, and comes from a placement engine (log entry 36). -/
def State.recordRefused (s : State) (job : Word32) : State :=
  let (part, epoch, engines) : Nat × Word32 × List Nat := match s.numbered job with
    | some (j, b) => (partOf j, b.epoch, accessEngines s.device)
    | none => ((s.freeAt 4 5).toNat, 0, if job = 0 then [engineRef (devRef s.device) 4 0, engineRef (devRef s.device) 4 (2 ^ 42)] else accessEngines s.device)
  let pages := s.leaves.filterMap fun l => if l.part ≠ part then none else match l.target l.va with
    | .remote d w o => some (d, w, o)
    | _ => none
  let (d, w, o) := pages.getD ((s.freeAt 32 2).toNat % pages.length) ((s.freeAt 10 2).toNat, (s.freeAt 8 3).toNat, 0)
  (s.used 6).raise { unit := devRef s.device, cls := 0x07, job := job, epoch := epoch, part := part,
                     syndrome := s.freeOf engines 0 + 4 * 2 ^ 64 + (s.freeAt 1 1).toNat * 2 ^ 68 + d * 2 ^ 80 + w * 2 ^ 96,
                     address := o + (s.freeAt 16 4).toNat }

/-- REFUSE (R367, R667): what was refused at a window is recorded here too, and the task of the job that it names ends; or the token
goes on. -/
def execRefuse (p : Nat) (t : Word64) (s : State) : Host.Outcome State Fault Refusal :=
  if 16 ≤ p then .refused .noSuchUnit
  else if bf t 55 46 ≠ s.device then .next (s.sendToward (bf t 55 46) .e [t])
  else
    let job : Word32 := BitVec.ofNat 32 (bf t 45 14)
    let s := if bf t 13 6 = 2 then s.recordRefused job else s
    match s.numbered job with
    | none => .next s
    | some (j, _) => .next (s.stopJob j { status := Status.remoteRefused } [])

end Sys2Proof.Machine
end

