-- ==== Sys2Proof/Machine/Registers.lean ====
section
/-!
DEFINITION. The host's register and aperture accesses (R13, R15, R65, R451 to R455, R565): BAR0 writes, the reads that have
an effect, BAR2.
-/

namespace Sys2Proof.Machine

open Sys2Proof

/-- A read answered with bytes. -/
def State.answerRead (s : State) (b : List Byte) : State :=
  { s with readOut := some { bytes := b, ep := false, abort := false, retry := false } }

/-! ### FAB_TIMESTAMP (R65) -/

/-- FAB_TIMESTAMP_READ: a 64-bit read samples; a read of the low half latches the high one for the next read of it by the
same function. -/
def execFabTimestampRead (f : Nat) (part : TimestampPart) (s : State) : Host.Outcome State Fault Refusal :=
  if 17 ≤ f then .refused .noSuchUnit
  else if !s.on then .next s
  else
    let v := s.stamp
    let latch (s : State) (x : Option Word32) : State := { s with tsLatch := NMap.set s.tsLatch f x none }
    match part with
    | .full => .next ((s.used 1).answerRead (leBytes 8 v.toNat))
    | .low => .next ((latch (s.used 1) (some (BitVec.ofNat 32 (bf v 63 32)))).answerRead (leBytes 4 (bf v 31 0)))
    | .high => match NMap.get s.tsLatch f none with
      | some x => .next ((latch s none).answerRead (leBytes 4 x.toNat))
      | none => .next ((s.used 1).answerRead (leBytes 4 (bf v 63 32)))

/-! ### The error ring (R454, R455) -/

/-- Whether LOG2_SLOTS of a ring word holds a value of its map (R457). -/
def log2Ok (v : Word64) : Bool := bf v 4 0 = 0 || (decide (4 ≤ bf v 4 0) && decide (bf v 4 0 ≤ 16))

/-- HIF_ERR_RING_WRITE: a write that configures the ring sets HEAD and TAIL to 0; a reserved LOG2_SLOTS is ignored. -/
def execHifErrRingWrite (v : Word64) (s : State) : Host.Outcome State Fault Refusal :=
  if !log2Ok v || !s.on then .next s
  else
    let s := { s with errRing := ringWord v false }
    .next (if bf v 4 0 = 0 then s else { s with errHead := 0, errTail := 0 })

/-- HIF_ERR_PTRS_READ: DROPPED is cleared after its value is returned. -/
def execHifErrPtrsRead (s : State) : Host.Outcome State Fault Refusal :=
  if !s.on then .next s
  else .next ({ s with errDropped := 0 }.answerRead (leBytes 8 (s.errDropped * 2 ^ 48 + s.errTail * 2 ^ 16 + s.errHead)))

/-! ### Settings that are registers (R617) -/

/-- HIF_ERR_ROUTE without its reserved bits. -/
def errRouteWord (v : Word64) : Word64 := v &&& 0x1FFC03

/-- DBG_HBM_CONTROL without its reserved bits, and whether its fields hold values of their map. -/
def hbmCtlWord (v : Word64) : Word64 := v &&& 0xFFFFFF00
def hbmCtlOk (v : Word64) : Bool := bf v 31 16 ≠ 0 && bf v 15 8 ≠ 0

/-! ### REGISTER_WRITE -/

/-- Ring words of function `f` written: `cq` names the completion ring's; a reserved LOG2_SLOTS is ignored. -/
def State.writeRing (s : State) (f : Nat) (cq : Bool) (v : Word64) : State :=
  if !log2Ok v then s
  else
    let a := s.adminOf f
    s.setAdmin f (if cq then { a with cq := ringWord v false } else { a with sq := ringWord v true })

/-- The debug access that touches the partition of a core (R565). -/
def State.debugCore (s : State) (c : Nat) : State := s.debugAccess (s.clusterPart (c / 8)).toList

/-- A write to DBG_CORE_FLAGS (`reg` 0), DBG_CORE_EXC or DBG_CORE_EXC_ADDR of a group: W1C bits cleared, after the debug
access is counted (R13, R566). -/
def State.writeDbgCore (s : State) (reg c g : Nat) (v : Word64) : State :=
  let s := s.debugCore c
  match reg with
  | 0 => s.modGrp c g fun x => { x with flags := x.flags &&& ~~~(BitVec.ofNat 5 (bf v 4 0)) }
  | 1 => if bit v 63 then s.modGrp c g fun x => { x with exc := setBf x.exc 63 63 0 } else s
  | _ => s

/-- A write at an offset of the physical function's BAR0 that has no row of its own; an offset that is reserved or read only
is ignored (R13, R454). -/
def State.writePf (s : State) (off : Nat) (v : Word64) : State :=
  if off = 0x10 then
    let base := bf v 9 0
    if base % 2 ^ s.bar2Log2 = 0 then { s with bar2Base := BitVec.ofNat 10 base } else s
  else if off = 0x18 then { s with errRoute := errRouteWord v }
  else if off = 0x28 then { s with errHead := bf v 15 0 }
  else if 0x100 ≤ off ∧ off < 0x100 + 32 * 17 then
    if off % 32 = 0 then s.writeRing ((off - 0x100) / 32) false v
    else if off % 32 = 8 then s.writeRing ((off - 0x100) / 32) true v
    else s
  else if 0x3000 ≤ off ∧ off < 0x3000 + 8 * 12 ∧ off % 8 = 0 then
    if bit v 39 then s.modStack ((off - 0x3000) / 8) fun k => { k with lateFlag := false } else s
  else if off = 0x3200 then if hbmCtlOk v then { s with hbmCtl := hbmCtlWord v } else s
  else if 0x10000 ≤ off ∧ off < 0x40000 ∧ off % 8 = 0 ∧ off % 0x10000 / 128 < 384 then
    s.writeDbgCore (off / 0x10000 - 1) (off % 0x10000 / 128) (off % 128 / 8) v
  else s

/-- REGISTER_WRITE: function 0 reaches the physical function's map, a virtual function its own admin ring words (R451). -/
def execRegisterWrite (f off : Nat) (v : Word64) (s : State) : Host.Outcome State Fault Refusal :=
  if 17 ≤ f then .refused .noSuchUnit
  else if !s.on then .next s
  else if f = 0 then .next (s.writePf off v)
  else if off = 0x100 then .next (s.writeRing f false v)
  else if off = 0x108 then .next (s.writeRing f true v)
  else .next s

/-- DBG_CORE_REGISTER_READ (R565, R566): the debug access is counted before the value returns; a virtual function's BAR0 has
no such register. -/
def execDbgCoreRegisterRead (f reg c g : Nat) (s : State) : Host.Outcome State Fault Refusal :=
  if 17 ≤ f ∨ 3 ≤ reg ∨ 384 ≤ c ∨ 16 ≤ g then .refused .noSuchUnit
  else if !s.on then .next s
  else if f ≠ 0 then .next (s.answerRead (leBytes 8 0))
  else
    let x := s.grp c g
    let v := match reg with
      | 0 => x.flags.toNat
      | 1 => x.exc.toNat
      | _ => x.excAddr.toNat
    .next ((s.debugCore c).answerRead (leBytes 8 v))

/-! ### What the registers read (R454) -/

/-- HIF_STATUS (R454, R557, R622, R623). -/
def State.hifStatus (s : State) : Word64 :=
  BitVec.ofNat 64 (b2n s.ready * 2 ^ 63 + b2n (s.failedAll || s.recovery || !s.idOk) * 2 ^ 62 + b2n s.warmFlag * 2 ^ 61 +
    b2n s.fabricOn * 2 ^ 60 + s.linkGen * 2 ^ 56 + s.linkWidth * 2 ^ 53 +
    (if s.recovery then 0 else (Config.firmwareVersion s.fwImage).toNat))

/-- HIF_QUEUE_STATE of queue `q`. -/
def State.queueState (s : State) (q : Nat) : Word64 :=
  let h := s.queue q
  let st := match h.st with
    | .absent => 0
    | .running => 1
    | .stopped => 2
  if st = 0 then 0
  else BitVec.ofNat 64 (st * 2 ^ 62 + h.fn * 2 ^ 57 + h.part * 2 ^ 53 + h.cause * 2 ^ 48 + h.head * 2 ^ 32 + h.expect.toNat)

/-- PWR_SQUALL: the greatest severity of any sensor, its source and sensor, the lowest such sensor. -/
def State.pwrSquall (s : State) : Word64 :=
  let sev := ((List.range 17).map fun i => (s.sensor i).sev).foldl max 0
  let i := firstOr 0 (fun i => (s.sensor i).sev = sev) (List.range 17)
  BitVec.ofNat 64 (sev * 2 ^ 61 + (if sev = 0 then 0 else sensorSource i * 2 ^ 59 + sensorIndex i * 2 ^ 55) + s.notices)

/-- DBG_HBM_STACK and DBG_HBM_ERRORS. -/
def Stack.stateWord (k : Stack) : Word64 :=
  let st := if k.lost then 2 else b2n k.inWindow
  BitVec.ofNat 64 (st * 2 ^ 62 + (if k.lost then k.lostPc else 0) * 2 ^ 56 + satN 8 k.repairs.length * 2 ^ 48 + satN 8 k.spares * 2 ^ 40 +
    b2n k.lateFlag * 2 ^ 39 + k.passes)
def Stack.errorWord (k : Stack) : Word64 := BitVec.ofNat 64 (k.corrected * 2 ^ 32 + k.uncorrectable * 2 ^ 16 + k.ondie)

/-- What a register of the physical function's map without a read effect holds; 0 at a reserved offset (R451, R454). -/
def State.regPf (s : State) (off : Nat) : Word64 :=
  let i := off % 256 / 8
  if off % 8 ≠ 0 then 0
  else if off = 0 then s.hifStatus
  else if off = 0x08 then s.unitSelf
  else if off = 0x10 then BitVec.ofNat 64 s.bar2Base.toNat
  else if off = 0x18 then s.errRoute
  else if off = 0x20 then s.errRing
  else if 0x100 ≤ off ∧ off < 0x100 + 32 * 17 then
    let a := s.adminOf ((off - 0x100) / 32)
    match off % 32 with
    | 0 => a.sq
    | 8 => a.cq
    | 16 => a.ctrl
    | _ => 0
  else if off = 0x1008 then BitVec.ofNat 64 (satN 24 s.slipCount * 2 ^ 40 + satN 40 s.slipTicks)
  else if off = 0x1010 then s.ceil.word
  else if 0x1100 ≤ off ∧ off < 0x1180 then (s.port i).stateWord
  else if 0x1200 ≤ off ∧ off < 0x1280 then (s.port i).errorWord
  else if 0x1300 ≤ off ∧ off < 0x1380 then (s.port i).cfg
  else if off = 0x2000 then s.pwrSquall
  else if 0x3000 ≤ off ∧ off < 0x3060 then (s.stack i).stateWord
  else if 0x3100 ≤ off ∧ off < 0x3160 then (s.stack i).errorWord
  else if off = 0x3200 then s.hbmCtl
  else if 0x100000 ≤ off ∧ off < 0x102000 then s.queueState ((off - 0x100000) / 8)
  else 0

/-- What a register of virtual function `f`'s BAR0 without a read effect holds: its own admin queue's, HIF_QUEUE_STATE of the queues bound to
it; 0 elsewhere (R451). -/
def State.regVf (s : State) (f off : Nat) : Word64 :=
  let a := s.adminOf f
  let q := (off - 0x100000) / 8
  if off = 0 ∨ off = 0x08 then s.regPf off
  else if off = 0x100 then a.sq
  else if off = 0x108 then a.cq
  else if off = 0x110 then a.ctrl
  else if off % 8 = 0 ∧ 0x100000 ≤ off ∧ off < 0x102000 ∧ (s.queue q).fn = f then s.queueState q
  else 0

/-! ### BAR2 (R452, R453) -/

/-- Device-physical address of an aperture offset. -/
def State.bar2Addr (s : State) (off : Nat) : Nat := s.bar2Base.toNat * 2 ^ 30 + off

/-- The partition in whose HBM ranges a device-physical address lies (R503). -/
def State.hbmOwner (s : State) (a : Nat) : Option Nat :=
  (List.range 16).find? fun p =>
    (recRanges (s.part p).recWords).any fun x => decide (x.1 * 2 ^ 28 ≤ a) && decide (a < x.2 * 2 ^ 28)

/-- A BAR2 transaction over some sectors counted as a debug access of the partitions whose PROTECTED sectors it touches
(R565). -/
def State.debugSectors (s : State) (xs : List Nat) : State :=
  let seen := xs.filter fun i => s.bar2Live (32 * i) && bit (s.hbm.sector i).tag 6
  let ps := (List.range 16).filter fun p => seen.any fun i => s.hbmOwner (32 * i) = some p
  if ps.isEmpty then s else s.debugAccess ps

/-- Sectors of an address range. -/
def sectorsOf (a len : Nat) : List Nat := if len = 0 then [] else upFrom (a / 32) ((a + len - 1) / 32 - a / 32 + 1)

/-- Sectors as the aperture reads them, with whether one was poisoned. -/
def State.bar2Sectors (s : State) : List Nat → List Byte × Bool × State
  | [] => ([], false, s)
  | i :: t =>
    if s.bar2Live (32 * i) then
      let (x, s) := s.readSector .hbm i
      let (b, p, s) := State.bar2Sectors s t
      (x.data ++ b, x.poison || p, s)
    else
      let (b, p, s) := State.bar2Sectors s t
      (List.replicate 32 0 ++ b, p, s)

/-- Whether a transaction lies in the aperture. -/
def State.inBar2 (s : State) (off len : Nat) : Bool := decide (off + len ≤ 2 ^ (30 + s.bar2Log2))

/-- A transaction answered with Completer Abort (R607). -/
def State.abortRead (s : State) : State := { s with readOut := some { bytes := [], ep := false, abort := true, retry := false } }

/-- BAR2_READ. -/
def execBar2Read (off len : Nat) (s : State) : Host.Outcome State Fault Refusal :=
  if !s.on then .next s
  else if !s.inBar2 off len then .fault .noMemory
  else if s.quiet then .next s.abortRead
  else
    let a := s.bar2Addr off
    let xs := sectorsOf a len
    let (b, p, s) := (s.debugSectors xs).bar2Sectors xs
    .next { s with readOut := some { bytes := (b.drop (a % 32)).take len, ep := p, abort := false, retry := false } }

/-- Bytes written through the aperture from a device-physical address, sector by sector, each after the read-only lines that
hold it are invalidated (R453); `n` bounds the sectors. -/
def State.bar2Store (s : State) : Nat → Nat → List Byte → State
  | 0, _, _ => s
  | n + 1, a, b =>
    match b with
    | [] => s
    | _ =>
      let k := 32 - a % 32
      let s := if s.bar2Live a then (s.dropReadOnly (a / 32)).mergeSector .hbm (a / 32) (a % 32) (b.take k) false false else s
      State.bar2Store s n (a + (b.take k).length) (b.drop k)

/-- BAR2_WRITE. -/
def execBar2Write (off : Nat) (data : List Byte) (s : State) : Host.Outcome State Fault Refusal :=
  if !s.on then .next s
  else if !s.inBar2 off data.length then .fault .noMemory
  else if s.quiet then .next s.abortRead
  else
    let a := s.bar2Addr off
    .next ((s.debugSectors (sectorsOf a data.length)).bar2Store (data.length / 32 + 2) a data)

end Sys2Proof.Machine
end

