-- ==== Sys2Proof/Machine/Resync.lean ====
section
/-!
DEFINITION. RESYNC (R484 to R486): the records of a snapshot of the device's state.
-/

namespace Sys2Proof.Machine

open Sys2Proof

/-- A record: its type and payload. -/
structure SyncRec where
  type : Nat
  payload : Nat
deriving DecidableEq, Repr

/-- STATE of a held job in a JOB record: running, pre-empted, waiting, stopping. -/
def Job.syncState (b : Job) : Nat :=
  if b.stopAt.isSome || b.ending.isSome then 3
  else match b.phase with
  | .waiting => 2
  | .preempted => 1
  | _ => 0

/-- Partitions that a RESYNC of function `fn` covers, of those defined (R484). -/
def State.syncParts (s : State) (fn : Nat) : List Nat :=
  (List.range 16).filter fun p => recClusters (s.part p).recWords ≠ 0 && (fn = 0 || p + 1 = fn)

/-- Partitions whose state a RESYNC of function `fn` covers, defined or not (R484). -/
def syncReach (fn : Nat) : List Nat := if fn = 0 then List.range 16 else [fn - 1]

/-- PARTITION record. -/
def State.syncPart (s : State) (p : Nat) : SyncRec :=
  let r := (s.part p).recWords
  let running := ((s.partJobs p).filter fun j => match s.job j with | some b => b.active | none => false).length
  let images := (s.images.filter fun x => match x.2 with | some l => l.part = p | none => false).length
  let hbm := sumN ((recRanges r).map fun x => (x.2 - x.1) * 2 ^ 28)
  { type := 2, payload := p * 2 ^ 124 + (recClusters r).toNat * 2 ^ 76 + running * 2 ^ 72 + satN 8 images * 2 ^ 64 + hbm }

/-- QUEUE record. -/
def syncQueue (q : Nat) (h : HQueue) : SyncRec :=
  let st := match h.st with
    | .absent => 0
    | .running => 1
    | .stopped => 2
  { type := 3, payload := q * 2 ^ 118 + h.fn * 2 ^ 113 + h.part * 2 ^ 109 + st * 2 ^ 107 + h.cause * 2 ^ 102 + h.head * 2 ^ 86 +
                          h.cqTail * 2 ^ 70 + b2n h.phase * 2 ^ 69 + bf h.sq 4 0 * 2 ^ 64 + h.expect.toNat * 2 ^ 32 +
                          (h.accepted.length + h.running.length) }

/-- JOB records of a partition: its held jobs, then the requests in its batcher, which have no slot. -/
def State.syncJobs (s : State) (p : Nat) : List SyncRec :=
  ((s.partJobs p).filterMap fun j => (s.job j).map fun b =>
    { type := 4, payload := p * 2 ^ 124 + j % 8 * 2 ^ 121 + b.syncState * 2 ^ 119 + b.image * 2 ^ 103 + b.number.toNat * 2 ^ 32 +
                            b.epoch.toNat }) ++
    (s.part p).batchQ.map fun r =>
      { type := 4, payload := p * 2 ^ 124 + 2 * 2 ^ 119 + bf (r.cmd.par 0) 63 48 * 2 ^ 103 + bf (r.cmd.par 0) 31 0 * 2 ^ 32 }

/-- IMAGE records of a partition. -/
def State.syncImages (s : State) (p : Nat) : List SyncRec :=
  s.images.filterMap fun x => x.2.bind fun l =>
    if l.part = p then some { type := 5, payload := p * 2 ^ 124 + x.1 * 2 ^ 108 + bf l.img.digest 63 0 } else none

/-- TABLE records. -/
def State.syncTables (s : State) : List SyncRec :=
  s.tables.filterMap fun x => x.2.map fun t =>
    let st := sumN ((List.range 4).map fun i => (t.slot i).st.code * 8 ^ i)
    let pins := sumN ((List.range 4).map fun i => (t.slot i).pins)
    { type := 6, payload := x.1 * 2 ^ 116 + t.active.toNat * 2 ^ 108 + st * 2 ^ 96 + satN 24 (s.staged x.1) * 2 ^ 72 +
                            t.ce.toNat * 2 ^ 32 + satN 32 pins }

/-- GROUP records: the header of each entry in use; for a virtual function, of those whose local cores its partition holds. -/
def State.syncGroups (s : State) (fn : Nat) : List SyncRec :=
  (s.groups.filter fun x => x.2.st ≠ .free && (fn = 0 || (x.2.part + 1 = fn && !(s.here x.2.cores).isEmpty))).map fun x => { type := 7, payload := fromLe ((s.groupBytes x.1).take 16) }

/-- Whether leaf `b` follows leaf `a` in a run: the next page, with the target one page further, in the same window for a remote one, and
equal flags. -/
def Leaf.follows (a b : Leaf) : Bool :=
  b.big = a.big && b.va = a.va + a.size && b.entry = a.entry + BitVec.ofNat 64 a.size &&
    (bf b.entry 60 59 ≠ 3 || bf b.entry 33 16 ≠ 0)

/-- Leaves in rising address cut into runs of at most 1,048,575 pages, each with its first and last leaf and its pages. -/
def leafRuns : List Leaf → List (Leaf × Leaf × Nat)
  | [] => []
  | l :: t => match leafRuns t with
    | [] => [(l, l, 1)]
    | (f, z, n) :: r => if l.follows f && decide (n < 1048575) then (l, z, n + 1) :: r else (l, l, 1) :: (f, z, n) :: r

/-- MAPPING records of a partition. -/
def State.syncMaps (s : State) (p : Nat) : List SyncRec :=
  (leafRuns (sortBy (·.va) (s.leaves.filter fun l => l.part = p))).map fun x =>
    { type := 8, payload := p * 2 ^ 124 + x.1.va / 65536 * 2 ^ 88 + x.2.2 * 2 ^ 68 + b2n x.1.big * 2 ^ 67 + x.1.entry.toNat }

/-- WINDOW records of some partitions. -/
def State.syncWindows (s : State) (ps : List Nat) : List SyncRec :=
  (s.windows.filter fun x => bit x.2.w0 63 && ps.contains (bf x.2.w0 61 58)).map fun x =>
    { type := 9, payload := x.1 * 2 ^ 120 + x.2.w1.toNat % 2 ^ 19 * 2 ^ 101 + x.2.w0.toNat }

/-- HELD records (R486), in ascending SEQ (R485). -/
def State.syncHeld (s : State) : List SyncRec :=
  (sortBy (fun x => x.2.seq.toNat) s.heldOut).map fun x =>
    { type := 10, payload := x.2.seq.toNat * 2 ^ 96 + x.2.opcode.toNat * 2 ^ 80 + x.2.status.toNat * 2 ^ 64 + x.1 * 2 ^ 54 +
                             bf x.2.result 53 0 }

/-- DEVICE record, with the number of records in the reply. -/
def State.syncDevice (s : State) (ps : List Nat) (n : Nat) : SyncRec :=
  let st := s.hifStatus
  { type := 1, payload := s.stamp.toNat * 2 ^ 64 + n * 2 ^ 32 + sumN (ps.map (2 ^ ·)) * 2 ^ 16 + b2n (bit st 62) * 2 ^ 15 +
                          b2n (bit st 61) * 2 ^ 14 + b2n (bit st 60) * 2 ^ 13 + s.device * 2 ^ 2 }

/-- Every record after the DEVICE record, in ascending type. Tables and held completions are the physical function's. -/
def State.syncRecords (s : State) (fn : Nat) : List SyncRec :=
  let ps := syncReach fn
  (s.syncParts fn).map s.syncPart ++
    ((s.queues.filter fun x => x.2.st ≠ .absent && (fn = 0 || x.2.fn = fn)).map fun x => syncQueue x.1 x.2) ++
    ps.flatMap s.syncJobs ++ ps.flatMap s.syncImages ++ (if fn = 0 then s.syncTables else []) ++ s.syncGroups fn ++
    ps.flatMap s.syncMaps ++ s.syncWindows ps ++ (if fn = 0 then s.syncHeld else [])

/-- The entries of a reply: MORE is 0 on the last (R485). -/
def syncEntries (k : Cmd) : List SyncRec → List Completion
  | [] => []
  | r :: t =>
    { completionOf k { status := Status.success } with
        recType := BitVec.ofNat 4 r.type, more := !t.isEmpty, payload := some (BitVec.ofNat 128 r.payload) } :: syncEntries k t

/-- RESYNC: accepted only on an admin queue (R484). One whose queue a reset has ended reports to no ring; it completes as any command of
that queue, and what is held stays (R486). -/
def execResync (k : Cmd) (s : State) : Host.Outcome State Fault Refusal :=
  s.runCmd k { op := 0x0001, gen := 1 } true (k.zeroFrom 0) fun s =>
    if 17 ≤ k.queue then refuse s Status.invalidParameter
    else if (s.queue k.queue).orphans.any fun x => x.1 = k then refuse s Status.success
    else
      let fn := s.cmdFn k
      let rs := s.syncRecords fn
      let es := syncEntries k (s.syncDevice (s.syncParts fn) (rs.length + 1) :: rs)
      let s := s.modQueue k.queue fun h => { h.settle k with done := h.done ++ es }
      .later { s.used 1 with heldOut := if fn = 0 then [] else s.heldOut }

end Sys2Proof.Machine
end

