-- ==== Sys2Proof/Machine/Observe.lean ====
section
/-!
DEFINITION. Observation of the module: counters (R582 to R589), trace (R590 to R595), debug access (R473, R565) and the hold
of error records (R549).
-/

namespace Sys2Proof.Machine

open Sys2Proof

/-! ### Units of an observation -/

/-- The clusters that an observation of UNIT reaches with those of their cores that it reaches, whether whole clusters are
meant; none for a unit that is no core, cluster or group (R584). -/
def observed (u : UnitName) (cores : List Nat) : Option (List (Nat × List Nat) × Bool) :=
  let per := (clustersHolding cores).map fun cl => (cl, (upFrom (8 * cl) 8).filter cores.contains)
  match u with
  | .core _ _ => some (per, false)
  | .cluster _ _ => some (per, true)
  | .group _ => some (per, true)
  | _ => none

/-- R648 for the counter commands: the physical function may name units of any partition. -/
def State.counterUnit (s : State) (k : Cmd) : Bool := s.cmdFn k = 0 || s.unitIn (k.unitAt 0) (s.cmdPart k) (s.cmdFn k)

/-- Whether a UNIT has a form that the counter commands take. -/
def counterForm (u : Word32) : Bool := (observed (unitOf u) []).isSome

/-! ### Counters -/

/-- A set configured: its counters 0, its closing snapshot cleared (R584); `present` are the jobs that count on in it (R589). -/
def CntSet.configure (c : CntSet) (sel : NMap Byte) (scope : Bool) (present : List (Nat × Word32)) : CntSet :=
  { c with vals := [], sel := sel, scope := scope, jobs := present, closing := none }

/-- The event codes of P1 and P2. -/
def counterCodes (k : Cmd) : List Nat := (List.range 16).map fun n => bf (k.par (1 + n / 8)) (8 * (n % 8) + 7) (8 * (n % 8))

/-- COUNTER_CONFIG (R584). -/
def execCounterConfig (k : Cmd) (s : State) : Host.Outcome State Fault Refusal :=
  let u := k.unitAt 0
  let codes := counterCodes k
  let ok := k.topZero 0 34 && decide (bf (k.par 0) 33 32 ≤ 1) && counterForm u && codes.all (fun c => decide (c ≤ 15)) && k.zeroFrom 3
  s.runCmd k { op := 0x0602, gen := 1 } (s.counterUnit k) ok fun s =>
    match s.resolve u true with
    | .error a => .done s a
    | .ok cores => match observed (unitOf u) (s.here cores) with
      | none => refuse s Status.invalidParameter
      | some (per, whole) =>
        let scope := bit (k.par 0) 32
        let sel : NMap Byte := (codes.zipIdx.filter fun x => x.1 ≠ 0).map fun x => (x.2, BitVec.ofNat 8 x.1)
        let s := (per.flatMap (·.2)).foldl (fun s c => s.modCore c fun x => { x with cnt := x.cnt.configure sel scope (s.coreJobs c) }) s
        let s := if whole then (per.map (·.1)).foldl (fun s cl => s.modCluster cl fun x =>
            { x with engCnt := x.engCnt.configure [] scope (s.engineJobs cl), deckCnt := x.deckCnt.configure [] scope (s.sliceJobs cl) }) s
          else s
        .done s { status := Status.success }

/-- What a block shows of a set: its present interval, or its closing snapshot (R587, R589). -/
structure SampleView where
  vals : NMap Word64
  tags : CntTags
  shared : Bool
  closed : Bool
  stamp : Word64

/-- A set as a sample shows it; a closing snapshot that a set does not have shows zeros. `meets` says whether the sample latches in the
cycle of a reset of its tick, when the set shows what it closed (R587). -/
def CntSet.view (c : CntSet) (closing meets : Bool) (now : Word64) : SampleView :=
  if closing || (meets && c.closing.any fun x => bf x.2.2.2 63 6 = bf now 63 6) then
    match c.closing with
    | some (v, t, sh, st) => { vals := v, tags := t, shared := sh, closed := true, stamp := st }
    | none => { vals := [], tags := CntTags.none, shared := false, closed := false, stamp := 0 }
  else { vals := c.vals, tags := c.tags, shared := c.shared, closed := false, stamp := now }

/-- A sample header (R589). -/
def sampleHeader (v : SampleView) (unit : Word32) (scope sat : Bool) : List Byte :=
  let t := v.tags
  leBytes 8 v.stamp.toNat ++
    leBytes 8 (unit.toNat * 2 ^ 32 + t.opcode.toNat * 2 ^ 16 + b2n v.shared * 8 + b2n sat * 4 + b2n scope * 2 + b2n v.closed) ++
    leBytes 8 (t.layer.toNat * 2 ^ 48 + t.operator.toNat * 2 ^ 32 + t.job.toNat) ++ leBytes 8 (t.seq.toNat * 2 ^ 32)

/-- Values of counters 0 to `n` - 1 of a view. -/
def SampleView.words (v : SampleView) (n : Nat) : List Word64 := (List.range n).map fun i => NMap.get v.vals i 0

/-- Whether a value has saturated. -/
def saturated (l : List Word64) : Bool := l.contains 0xFFFFFFFFFFFFFFFF

/-- The block of a core: header, C0 to C15, the fixed counters. -/
def State.coreBlock (s : State) (c : Nat) (closing meets : Bool) : List Byte :=
  let n := (s.core c).cnt
  let v := n.view closing meets s.stamp
  sampleHeader v (coreRef s.device c) n.scope (saturated (v.words 20)) ++ wordBytes (v.words 20)

/-- The block of a cluster: header, engine counters, slice counters. -/
def State.clusterBlock (s : State) (cl : Nat) (closing meets : Bool) : List Byte :=
  let k := s.cluster cl
  let e := k.engCnt.view closing meets s.stamp
  let d := k.deckCnt.view closing meets s.stamp
  let w := e.words 8 ++ d.words 8
  sampleHeader { e with shared := e.shared || d.shared || (!e.closed && decide (2 ≤ (k.engCnt.jobs ++ k.deckCnt.jobs).eraseDups.length)) }
    (clusterRef s.device cl) k.engCnt.scope (saturated w) ++ wordBytes w

/-- COUNTER_SAMPLE (R586, R587, R589). Whether it latches in the cycle of a reset of its tick is a free value (log entry 121). -/
def execCounterSample (k : Cmd) (s : State) : Host.Outcome State Fault Refusal :=
  let u := k.unitAt 0
  let ok := k.topZero 0 33 && counterForm u && aligned32 (k.par 1) && k.topZero 2 32 && k.zeroFrom 3
  s.runCmd k { op := 0x0603, gen := 1 } (s.counterUnit k) ok fun s =>
    match s.resolve u true with
    | .error a => .done s a
    | .ok cores => match observed (unitOf u) (s.here cores) with
      | none => refuse s Status.invalidParameter
      | some (per, whole) =>
        let closing := bit (k.par 0) 32
        let meets := s.freeAt 1 1 = 1
        let b := per.flatMap fun x =>
          (if whole then s.clusterBlock x.1 closing meets else []) ++ x.2.flatMap fun c => s.coreBlock c closing meets
        (s.used 2).replyBytes (k.par 1).toNat (k.par 2).toNat b { status := Status.success }

/-! ### Trace -/

/-- ACTION of TRACE_CONFIG. -/
def traceAction (k : Cmd) : Nat := bf (k.par 0) 63 60

/-- A trace command of the header's partition: `f` on the partition's trace. -/
def State.traceCmd (s : State) (k : Cmd) (op : Nat) (ok : Bool) (f : State → Nat → Trace → Reply) : Host.Outcome State Fault Refusal :=
  s.runCmd k { op := op, gen := 2 } true ok fun s =>
    f s (s.cmdPart k) (s.part (s.cmdPart k)).trace

/-- A partition's trace replaced. -/
def State.setTrace (s : State) (p : Nat) (t : Trace) : State := s.modPart p fun q => { q with trace := t }

/-- Whether configure's fields hold no reserved value. -/
def traceFieldsOk (k : Cmd) : Bool :=
  let p1 := k.par 1
  let p2 := k.par 2
  bf (k.par 0) 59 52 = 0 && bf (k.par 0) 15 0 = 0 && bf p1 63 48 = 0 && bf p1 22 20 = 0 && bf p2 46 32 = 0 &&
    (bf p2 63 56 = 0 || errorClasses.contains (bf p2 63 56)) && decide (bf p2 55 48 ≤ 0x0C) &&
    unitOf (BitVec.ofNat 32 (bf p2 31 0)) ≠ .reserved && k.zeroFrom 3

/-- TRACE_CONFIG, action configure (R590), or a reserved action (R17). -/
def execTraceConfigConfigure (k : Cmd) (s : State) : Host.Outcome State Fault Refusal :=
  if 2 ≤ traceAction k ∧ traceAction k ≤ 5 then .next s
  else s.traceCmd k 0x0600 (traceAction k = 1 && traceFieldsOk k) fun s p t =>
    let base := bf (k.par 0) 51 0
    let ports := bf (k.par 1) 47 32
    if t.running then refuse s Status.partitionBusy
    else match s.translateEngine p base ((bf (k.par 1) 19 0 + 1) * 65536) true with
    | .error e => s.refusePage k e 1 Status.invalidParameter
    | .ok ls =>
    if !(ls.all fun l => l.kind = 0) || ports &&& recPorts (s.part p).recWords ≠ ports then refuse s Status.invalidParameter
    else .done (s.setTrace p { Trace.reset with baseVa := base, p1 := k.par 1, p2 := k.par 2, configured := true })
      { status := Status.success }

/-- Actions other than configure carry no further field. -/
def actionAlone (k : Cmd) : Bool := (k.par 0).toNat % 2 ^ 60 = 0 && k.zeroFrom 1

/-- TRACE_CONFIG, action start: writing begins at record 0. -/
def execTraceConfigStart (k : Cmd) (s : State) : Host.Outcome State Fault Refusal :=
  if traceAction k ≠ 2 then .next s
  else s.traceCmd k 0x0600 (actionAlone k) fun s p t =>
    if !t.configured then refuse s Status.invalidParameter
    else .done (s.setTrace p { Trace.reset with baseVa := t.baseVa, p1 := t.p1, p2 := t.p2, configured := true, running := true })
      { status := Status.success }

/-- The pending VIRGA records of every writer staged (R594). -/
def Trace.flushVirga (t : Trace) (stamp : Word64) (unit : Word32) : Trace :=
  let t' := t.virga.foldl (fun t x => t.stage (x.1 / 4) (virgaRec stamp unit (x.1 % 4) x.2)) { t with post := none }
  { t' with virga := [], post := t.post }

/-- Whether the region is full in stop mode (R593). -/
def Trace.full (t : Trace) : Bool := bit t.p1 23 && decide (t.records ≤ t.next)

/-- The oldest staged record of a writer written to the region (R591, R592); a stop-mode region that is full takes none. -/
def State.writeTrace (s : State) (die p : Nat) : State :=
  let t := (s.part p).trace
  match NMap.get t.staged die [] with
  | [] => s
  | r :: rest =>
    let t := { t with staged := NMap.set t.staged die rest [] }
    if t.full then s.setTrace p t
    else
      let s := s.writeVa none p (t.baseVa + 32 * t.next) [(leBytes 32 r.toNat, false)]
      let n := t.next + 1
      let wraps := !bit t.p1 23 && n = t.records
      s.setTrace p { t with next := if wraps then 0 else n, wrapped := t.wrapped || wraps, count := satN 32 (t.count + 1) }

/-- After a trigger's quota: the pending VIRGA records are staged, and with nothing left to write the region is frozen
(R595). In stop mode, writing ends when the region is full (R593). -/
def State.settleTrace (s : State) (p : Nat) : State :=
  let t := (s.part p).trace
  if t.full then s.setTrace p { t with running := false, staged := [] }
  else if t.post = some 0 && !t.frozen && t.stagedCount = 0 then
    if t.virga.isEmpty then s.setTrace p { t with frozen := true, post := none }
    else (s.setTrace p (t.flushVirga s.stamp (devRef s.device))).used 1
  else s

/-- TRACE_RECORD_WRITE (R592 to R595). -/
def execTraceRecordWrite (die p : Nat) (s : State) : Host.Outcome State Fault Refusal :=
  if 6 ≤ die ∨ 16 ≤ p then .refused .noSuchUnit
  else if !(s.part p).trace.running || (s.part p).trace.frozen then .next s
  else .next ((s.writeTrace die p).settleTrace p)

/-- Every staged record of a partition written, `n` times from each writer. -/
def State.drainTrace (s : State) (p : Nat) (n : Nat) : State :=
  (List.range 6).foldl (fun s d => (List.range n).foldl (fun s _ => s.writeTrace d p) s) s

/-- TRACE_CONFIG, action stop: the pending VIRGA records are written (R594), writing ends, the region stays. -/
def execTraceConfigStop (k : Cmd) (s : State) : Host.Outcome State Fault Refusal :=
  if traceAction k ≠ 3 then .next s
  else s.traceCmd k 0x0600 (actionAlone k) fun s p t =>
    if !t.running then .done s { status := Status.success }
    else
      let s := if t.frozen then s
        else
          let s := (s.setTrace p (t.flushVirga s.stamp (devRef s.device))).used 1
          s.drainTrace p (s.part p).trace.stagedCount
      .done (s.modPart p fun q => { q with trace := { q.trace with running := false, staged := [] } }) { status := Status.success }

/-- TRACE_CONFIG, action status. -/
def execTraceConfigStatus (k : Cmd) (s : State) : Host.Outcome State Fault Refusal :=
  if traceAction k ≠ 4 then .next s
  else s.traceCmd k 0x0600 (actionAlone k) fun s _ t =>
    .done s { status := Status.success, count := t.count,
              result := b2n t.running * 2 ^ 63 + b2n t.frozen * 2 ^ 62 + b2n t.wrapped * 2 ^ 61 + t.next % 2 ^ 31 }

/-- TRACE_CONFIG, action rearm: FROZEN is cleared and writing restarts at NEXT. -/
def execTraceConfigRearm (k : Cmd) (s : State) : Host.Outcome State Fault Refusal :=
  if traceAction k ≠ 5 then .next s
  else s.traceCmd k 0x0600 (actionAlone k) fun s p t =>
    if !t.configured then refuse s Status.invalidParameter
    else .done (s.setTrace p { t with frozen := false, post := none, running := true }) { status := Status.success }

/-- TRACE_TRIGGER (R595). -/
def execTraceTrigger (k : Cmd) (s : State) : Host.Outcome State Fault Refusal :=
  s.traceCmd k 0x0601 (k.zeroFrom 0) fun s p t =>
    .done ((s.setTrace p (t.trigger 4 s.stamp (devRef s.device) 1)).used 1) { status := Status.success }

/-! ### DEBUG_ACCESS (R473, R565) -/

/-- SPACE and WRITE of a debug access. -/
def debugSpace (k : Cmd) : Nat := bf (k.par 0) 35 32
def debugWrite (k : Cmd) : Bool := bit (k.par 0) 36

/-- Bytes of a space read in sectors at flat address `a`. -/
def State.debugBytes (s : State) (sp : Space) (a n : Nat) : List Byte × State :=
  let (b, _, s) := s.readBytes sp a n
  (b, s)

/-- Bytes stored from a virtual address of a partition, cut at sectors; `n` bounds the pieces. -/
def State.storeVa (s : State) (p : Nat) : Nat → Nat → List Byte → State
  | 0, _, _ => s
  | n + 1, va, b =>
    match b with
    | [] => s
    | _ =>
      let k := 32 - va % 32
      let s := match s.leafAt p va with
        | some l => s.writeAt none (l.target va) (b.take k) false l.prot
        | none => s
      State.storeVa s p n (va + (b.take k).length) (b.drop k)

/-- What a debug access acts on: flat bytes of a memory, instruction memory, a virtual range. -/
inductive DebugSpan where
  | flat (sp : Space) (a : Nat)
  | code (a : Nat)
  | va (p a : Nat)
deriving DecidableEq, Repr

/-- The span of a debug access; an error where UNIT, address and length do not fit SPACE, with the refused page if there is one. -/
def State.debugSpan (s : State) (k : Cmd) : Except (Option (Refuse × Nat)) DebugSpan :=
  let a := bf (k.par 1) 51 0
  let n := (k.par 2).toNat
  match debugSpace k, unitOf (k.unitAt 0) with
  | 0, .core _ c => if a + n ≤ 2 ^ 19 then .ok (.flat .store (storeAddr c a)) else .error none
  | 1, .cluster _ cl => if a + n ≤ 2 ^ 25 then .ok (.flat .deck (deckAddr cl a)) else .error none
  | 3, .core _ c => if a + n ≤ 2 ^ 17 then .ok (.code (c * 2 ^ 17 + a)) else .error none
  | 2, _ =>
    let p := s.cmdPart k
    match s.translateEngine p a n (debugWrite k) with
    | .ok ls => if ls.all fun l => l.kind ≠ 3 then .ok (.va p a) else .error none
    | .error e => .error (some e)
  | _, _ => .error none

/-- Paths that a debug write of `n` bytes takes (R467, R482). -/
def State.spanPaths (s : State) (d : DebugSpan) (n : Nat) : Nat :=
  match d with
  | .va p a => match s.translate p a n true with
    | .ok ls => pathsOf ls
    | .error _ => 0
  | .flat .deck _ => 2
  | _ => 0

/-- DEBUG_ACCESS. -/
def execDebugAccess (k : Cmd) (s : State) : Host.Outcome State Fault Refusal :=
  let u := k.unitAt 0
  let n := (k.par 2).toNat
  let buf := (k.par 3).toNat
  let ok := k.topZero 0 37 && decide (debugSpace k ≤ 3) && k.topZero 1 52 && (k.par 1).toNat % 8 = 0 && n % 8 = 0 && decide (8 ≤ n) &&
    decide (n ≤ 2 ^ 20) && aligned32 (k.par 3) && k.zeroFrom 4 && unitOf u ≠ .reserved
  s.runCmd k { op := 0x0605, gen := 2, pf := true, mem := debugSpace k = 1 || debugSpace k = 2 }
      (s.unitIn u (s.cmdPart k) (s.cmdFn k)) ok fun s =>
    match s.resolve u true with
    | .error a => .done s a
    | .ok _ =>
      match s.debugSpan k with
      | .error none => refuse s Status.invalidParameter
      | .error (some e) => s.refusePage k e (b2n (debugWrite k)) Status.invalidParameter
      | .ok d =>
        if debugWrite k then
          let b := s.hostRead buf n
          let s := match d with
            | .flat sp a => s.writeBytes sp a b false false
            | .code a => { s with imem := putBytes s.imem a b }
            | .va p a => s.storeVa p (n / 32 + 2) a b
          .done s { status := Status.success, paths := s.spanPaths d n }
        else
          let (b, s) := match d with
            | .flat sp a => s.debugBytes sp a n
            | .code a => ((upFrom a n).map fun i => NMap.get s.imem i 0, s)
            | .va p a =>
              let (xs, s) := s.readVa none p (a / 32 * 32) ((a % 32 + n + 31) / 32)
              (((sectorBytes xs).drop (a % 32)).take n, s)
          .done (s.hostWrite buf b) { status := Status.success, paths := 1 }

/-! ### Held error records (R549) -/

/-- ERROR_RECORD_HOLD_EXPIRY: 10,000 ticks after its first occurrence a held record is routed. -/
def execErrorRecordHoldExpiry (i : Nat) (s : State) : Host.Outcome State Fault Refusal :=
  match s.errHold[i]? with
  | none => .next s
  | some (t, r) =>
    if s.tick < t + 10000 then .next s else .next ({ s with errHold := listDrop s.errHold i }.routeRecord r)

end Sys2Proof.Machine
end

