-- ==== Sys2Proof/Machine/Settings.lean ====
section
/-!
DEFINITION. Settings and NVM (R616 to R621), firmware (R624), and field tests (R550 to R553).
-/

namespace Sys2Proof.Machine

open Sys2Proof

/-! ### Settings (R618) -/

/-- Numbers of the persistent settings, in ascending order. -/
def persistentSettings : List Nat := [0x0001, 0x0010, 0x0020, 0x0030] ++ upFrom 0x0100 16 ++ [0x3E00]

/-- A region entry's live word: word 0 of the region in effect, words 1 to 3 as last staged (R493). -/
def State.regionWord (s : State) (n w : Nat) : Word64 :=
  if w = 0 then match NMap.get s.regions n none with
    | some r => r.w0
    | none => 0
  else NMap.get s.ethWords (4 * n + w) 0

/-- The live value of a setting, or none for a reserved number. -/
def State.liveSetting (s : State) (n : Nat) : Option Word64 :=
  if n = 0x0001 then some s.warmSetting
  else if n = 0x0010 then some s.errRoute
  else if n = 0x0020 then some s.hbmCtl
  else if n = 0x0030 then some (BitVec.ofNat 64 s.overlayMib)
  else if 0x0100 ≤ n ∧ n < 0x0110 then some (s.port (n - 0x0100)).cfg
  else if n = 0x3E00 then some s.ftCtl
  else if 0x3F00 ≤ n ∧ n < 0x3F02 then some (s.ethPortWord (n - 0x3F00))
  else if 0x3F10 ≤ n ∧ n < 0x3F14 then some (NMap.get s.ethAddr (n - 0x3F10) 0)
  else if 0x4000 ≤ n ∧ n < 0x8000 then some (s.regionWord ((n - 0x4000) / 4) (n % 4))
  else none

/-- Reset value of a persistent setting. -/
def settingReset (n : Nat) : Word64 :=
  if n = 0x0010 then errRouteReset
  else if n = 0x0020 then hbmCtlReset
  else if 0x0100 ≤ n ∧ n < 0x0110 then portCfgReset
  else if n = 0x3E00 then ftCtlReset
  else 0

/-- The value of a persistent setting stored in NVM; the reset value while no page is valid (R620). -/
def State.storedSetting (s : State) (n : Nat) : Word64 :=
  if s.nvm.valid then NMap.get s.nvm.stored n (settingReset n) else settingReset n

/-- A stage by SETTINGS_STAGE: the packet carries no reserved value (R17), and the setting's own rules apply (R408, R279). -/
def State.stageSetting (s : State) (n : Nat) (v : Word64) : Reply :=
  let ok (s : State) : Reply := .done s { status := Status.success }
  let bad : Reply := refuse s Status.invalidParameter
  if n = 0x0001 then if decide (v.toNat ≤ 1) then ok { s with warmSetting := v } else bad
  else if n = 0x0010 then if v = errRouteWord v then ok { s with errRoute := v } else bad
  else if n = 0x0020 then if v = hbmCtlWord v && hbmCtlOk v then ok { s with hbmCtl := v } else bad
  else if n = 0x0030 then if decide (v.toNat ≤ 6) then s.setOverlay v.toNat else bad
  else if 0x0100 ≤ n ∧ n < 0x0110 then
    let p := n - 0x0100
    if v &&& portCfgMask ≠ v || !portCfgOk v then bad
    else if s.portUsed p then ok s
    else ok (s.writePortCfg p v).finishJoin
  else if n = 0x3E00 then if v &&& 0xFF01 = v then ok { s with ftCtl := v } else bad
  else if 0x3F10 ≤ n ∧ n < 0x3F14 then
    if decide (v.toNat < 2 ^ 32) then ok { s with ethAddr := NMap.set s.ethAddr (n - 0x3F10) v 0 } else bad
  else if 0x4000 ≤ n ∧ n < 0x8000 then ok { s with ethWords := NMap.set s.ethWords (n - 0x4000) v 0 }
  else bad

/-- Settings whose stage is a command row of its own: ETH_PORT, and word 0 of a region entry. -/
def ownStage (n : Nat) : Bool :=
  (decide (0x3F00 ≤ n) && decide (n < 0x3F02)) || (decide (0x4000 ≤ n) && decide (n < 0x8000) && n % 4 = 0)

/-- Setting number of a SETTINGS_STAGE, and its opcode row. -/
def settingOf (k : Cmd) : Nat := bf (k.par 0) 15 0
def stageRow : OpRow := { op := 0x0701, gen := 1, pf := true, dev := true }

/-- Reserved bits of words 1 to 3 of a region entry. -/
def regionWordOk (w : Nat) (v : Word64) : Bool :=
  match w with
  | 1 => bf v 63 54 = 0 && bf v 19 0 = 0 && decide (bf v 53 48 < 48) && bf v 39 20 ≠ 0
  | 2 => bf v 31 10 = 0
  | _ => true

/-- SETTINGS_STAGE (R617) of every setting that has no row of its own. -/
def execSettingsStage (k : Cmd) (s : State) : Host.Outcome State Fault Refusal :=
  let n := settingOf k
  if ownStage n then .next s
  else
    let word := decide (n < 0x4000) || regionWordOk (n % 4) (k.par 1)
    s.runCmd k stageRow true (k.topZero 0 16 && k.zeroFrom 2 && word) fun s => s.stageSetting n (k.par 1)

/-- SETTINGS_READ (R618). -/
def execSettingsRead (k : Cmd) (s : State) : Host.Outcome State Fault Refusal :=
  s.runCmd k { op := 0x0702, gen := 1 } true (k.topZero 0 17 && k.zeroFrom 1) fun s =>
    let n := settingOf k
    match s.liveSetting n with
    | none => refuse s Status.invalidParameter
    | some v =>
      let r := if !bit (k.par 0) 16 then v else if persistentSettings.contains n then s.storedSetting n else 0
      .done s { status := Status.success, result := r.toNat }

/-! ### NVM (R619 to R621) -/

/-- The most writes made to any page of the settings ring. -/
def Nvm.most (m : Nvm) : Nat := (m.pageWrites.map (·.2)).foldl max 0

/-- Live values of the persistent settings, with their numbers. -/
def State.liveValues (s : State) : NMap Word64 := persistentSettings.map fun n => (n, (s.liveSetting n).getD 0)

/-- STORE_SETTINGS: the next page of the ring takes the live values and a sequence number one higher. -/
def execStoreSettings (k : Cmd) (s : State) : Host.Outcome State Fault Refusal :=
  s.runCmd k { op := 0x0703, gen := 1, pf := true, dev := true } true (k.zeroFrom 0) fun s =>
    let m := s.nvm
    let live := s.liveValues
    let same := m.valid && live.all fun x => s.storedSetting x.1 = x.2
    let page := m.seq % 64
    let done (s : State) : Reply := .done s { status := Status.success, count := s.nvm.most }
    if same then done s
    else if 100000 ≤ NMap.get m.pageWrites page 0 then refuse s Status.notPermitted
    else
      done { s with nvm := { m with stored := live, valid := true, seq := m.seq + 1,
                                    pageWrites := NMap.modify m.pageWrites page 0 (· + 1) } }

/-- The persistent settings loaded from NVM; without a valid page, reset values and a SETTINGS_INVALID record (R616, R620). -/
def State.loadSettings (s : State) : State :=
  let v := s.storedSetting
  let s := (List.range 16).foldl (fun s p => s.modPort p fun k => { k with cfg := v (0x0100 + p) })
    { s with warmSetting := v 0x0001, errRoute := v 0x0010, hbmCtl := v 0x0020, overlayMib := (v 0x0030).toNat, ftCtl := v 0x3E00 }
  if s.nvm.valid then s else s.raise { unit := devRef s.device, cls := 0x38, syndrome := 64 }

/-! ### Field tests (R550 to R553) -/

/-- Whether the footprint of a job that runs, is pre-empted or is chosen to start includes a core (R550, R551). -/
def State.coreUsed (s : State) (c : Nat) : Bool :=
  s.heldJobs.any fun j => (match s.job j with
    | some b => b.phase ≠ .waiting
    | none => false) && (s.jobFootprint j).any (·.1 = c)

/-- Whether a core's periodic test is due. -/
def State.testDue (s : State) (c : Nat) : Bool :=
  bit s.ftCtl 0 && bf s.ftCtl 15 8 ≠ 0 && !(s.core c).removed && decide ((s.core c).lastTest + bf s.ftCtl 15 8 * hourTicks ≤ s.tick)

/-- Whether a FIELD_TEST command waits for a core's test. -/
def Core.placed (k : Core) : Bool := match k.test with
  | some t => !t.cmds.isEmpty
  | none => false

/-- The core on which the next segment runs: one that a command placed first, else a suspect one, else one that is due, each
in ascending index, of those that no running or pre-empted job uses and whose cluster sequencer has not stopped (R20). -/
def State.nextTest (s : State) : Option Nat :=
  let free := (List.range 384).filter fun c => !s.coreUsed c && !(s.cluster (c / 8)).seqStopped
  match free.find? fun c => (s.core c).placed with
  | some c => some c
  | none => match free.find? fun c => (s.core c).suspect with
    | some c => some c
    | none => free.find? s.testDue

/-- Whether a segment runs on some core. -/
def State.testing (s : State) : Bool := s.cores.any fun x => match x.2.test with
  | some t => t.active
  | none => false

/-- The health word (R553). -/
def State.healthWord (s : State) (c : Nat) : Nat :=
  let k := s.core c
  (if k.removed then 2 else b2n k.suspect) * 2 ^ 62 + b2n k.passed * 2 ^ 61 + satN 16 k.segment * 2 ^ 32 +
    (Config.testSegments s.flash.scan).toNat * 2 ^ 16 + k.suspects

/-- The FIELD_TEST record of flash content that fails its signature, and the end of the commands that wait (R552). -/
def State.noTest (s : State) (c : Nat) : State :=
  let cmds := match (s.core c).test with
    | some t => t.cmds
    | none => []
  let s := s.raise { unit := coreRef s.device c, cls := 0x32, syndrome := c + 0xFFFF * 2 ^ 16 }
  let s := s.modCore c fun k => { k with test := none, lastTest := s.tick }
  cmds.foldl (fun s k => s.complete k { status := Status.success, result := s.healthWord c }) s

/-- FIELD_TEST_SEGMENT (R550): a segment starts on the core whose turn it is. -/
def execFieldTestSegment (c : Nat) (s : State) : Host.Outcome State Fault Refusal :=
  if 384 ≤ c then .refused .noSuchUnit
  else if s.testing || s.nextTest ≠ some c then .next s
  else if !s.flash.scanOk then .next (s.noTest c)
  else
    let cmds := match (s.core c).test with
      | some t => t.cmds
      | none => []
    .next (s.modCore c fun k => { k with test := some { until_ := s.tick + 4000, active := true, cmds := cmds } })

/-- ACTION and CORE of FIELD_TEST. -/
def testAction (k : Cmd) : Nat := bf (k.par 0) 63 62
def testCore (k : Cmd) : Nat := bf (k.par 0) 8 0

/-- The end of a whole test (R552, R553): a match clears the suspect mark, and returns a removed core that a command tests;
anything else removes the core. -/
def State.judge (s : State) (c segments : Nat) (cmds : List Cmd) (r : TestResult) : State :=
  let s := s.modCore c fun k => { k with segment := 0, lastTest := s.tick, test := none }
  let s :=
    if r.passed then
      let back := cmds.any fun k => testAction k = 2
      let s := s.modCore c fun k => { k with suspect := false, passed := true, removed := k.removed && !back }
      if back then s.recordRemoved (s.nvm.removed.filter (· ≠ c)) else s
    else s.removeCore c segments r.signature
  cmds.foldl (fun s k => s.complete k { status := Status.success, result := s.healthWord c }) s

/-- FIELD_TEST_SEGMENT_END (R551, R552): after 4,000 ticks the progress is kept and the core reset; after the last segment the
test is judged. -/
def execFieldTestSegmentEnd (c : Nat) (final : Option TestResult) (s : State) : Host.Outcome State Fault Refusal :=
  if 384 ≤ c then .refused .noSuchUnit
  else match (s.core c).test with
  | none => .next s
  | some t =>
    if !t.active || decide (s.tick < t.until_) then .next s
    else
      let n := (s.core c).segment + 1
      let s := s.resetCore c
      match final with
      | some r => .next (s.judge c n t.cmds r)
      | none =>
        let rest : Option TestRun := if t.cmds.isEmpty then none else some { t with active := false }
        .next (s.modCore c fun k => { k with segment := n, test := rest })

/-- A FIELD_TEST command with an action: `f` with the core. The reserved action is
refused with action 0 (R17). -/
def State.testCmd (s : State) (k : Cmd) (action : Nat) (f : State → Nat → Reply) : Host.Outcome State Fault Refusal :=
  if testAction k ≠ action ∧ !(action = 0 && testAction k = 3) then .next s
  else
    let c := testCore k
    s.runCmd k { op := 0x0604, gen := 3, pf := true } true (testAction k ≠ 3 && bf (k.par 0) 61 9 = 0 && decide (c < 384) && k.zeroFrom 1) fun s =>
      f s c

/-- A test asked for: refused while the core lies in the footprint of a held job. -/
def State.placeTest (s : State) (k : Cmd) (c : Nat) : Reply :=
  if s.coreHeld c then refuse s Status.partitionBusy
  else
    .later (s.modCore c fun x => { x with test := match x.test with
      | some t => some { t with cmds := t.cmds ++ [k] }
      | none => some { until_ := 0, active := false, cmds := [k] } })

/-- FIELD_TEST, action 0b00: the core's health. -/
def execFieldTestRead (k : Cmd) (s : State) : Host.Outcome State Fault Refusal :=
  s.testCmd k 0 fun s c => .done s { status := Status.success, result := s.healthWord c }

/-- FIELD_TEST, action 0b01. -/
def execFieldTestRun (k : Cmd) (s : State) : Host.Outcome State Fault Refusal :=
  s.testCmd k 1 fun s c => s.placeTest k c

/-- FIELD_TEST, action 0b10: of a removed core. -/
def execFieldTestReturn (k : Cmd) (s : State) : Host.Outcome State Fault Refusal :=
  s.testCmd k 2 fun s c => if (s.core c).removed then s.placeTest k c else refuse s Status.invalidParameter

end Sys2Proof.Machine
end

