-- ==== Sys2Proof/Machine/Ethernet.lean ====
section
/-!
DEFINITION. Ethernet ports, registered regions, queue pairs and direct placement (R487 to R502).
-/

namespace Sys2Proof.Machine

open Sys2Proof

/-! ### Links and queue pairs (R488, R491) -/

/-- QP number of queue pair `q` of link `l`, under which it is kept. -/
def qpKey (l q : Nat) : Nat := 0x100 * (l + 1) + q

/-- Queue pair `q` of link `l`. -/
def State.qp (s : State) (l q : Nat) : Option QPair := NMap.get s.qps (qpKey l q) none
def State.setQp (s : State) (l q : Nat) (v : Option QPair) : State := { s with qps := NMap.set s.qps (qpKey l q) v none }

/-- Whether a port has a queue pair open. -/
def State.ethPortBusy (s : State) (p : Nat) : Bool := s.qps.any fun x => (x.1 / 256 - 1) / 2 = p && x.2.isSome

/-- CONNECTION_REQUEST (R491): the lowest queue pair of the link that is free, or a refusal. -/
def execConnectionRequest (link peerQp : Nat) (s : State) : Host.Outcome State Fault Refusal :=
  if 4 ≤ link then .refused .noSuchUnit
  else if !s.on || !s.linkUsed link then .next s
  else match (List.range 256).find? fun q => (s.qp link q).isNone with
  | none => .next (s.ethSend (.reject link))
  | some q =>
    let pair : QPair := { peer := peerQp, expectPsn := 0, rkey := 0, offset := 0, length := 0, taken := 0, buffer := [] }
    .next ((s.setQp link q (some pair)).ethSend (.accept link (qpKey link q)))

/-- PFC_PAUSE (R490): pause frames of the priority that carries RoCE traffic stop the link's sends; when it goes on, what waits
leaves in order. -/
def execPfcPause (link prio : Nat) (pause : Bool) (s : State) : Host.Outcome State Fault Refusal :=
  if 4 ≤ link then .refused .noSuchUnit
  else if !s.on || !s.linkUsed link || prio ≠ bf (s.ethPortWord (link / 2)) 7 5 then .next s
  else
    let s : State := { s with pfc := NMap.set s.pfc link pause false }
    if pause then .next s
    else .next { s with ethOut := s.ethOut ++ s.ethWait.filter (fun m => m.link = link), ethWait := s.ethWait.filter fun m => m.link ≠ link }

/-! ### Settings (R492 to R494) -/

/-- A port's word changed: another SPLIT or ENABLE retrains the port, which ends the pauses of its links (R490, R492). -/
def State.setEthPort (s : State) (p : Nat) (v : Word64) : State :=
  let t : State := { s with ethPort := NMap.set s.ethPort p v ethPortReset }
  if bf (s.ethPortWord p) 1 0 = bf v 1 0 then t
  else { t with pfc := t.pfc.filter (fun x => x.1 / 2 ≠ p), ethWait := t.ethWait.filter fun m => m.link / 2 ≠ p }

/-- ETH_PORT_STAGE (R492): ignored while the port has a queue pair open. -/
def execEthPortStage (k : Cmd) (s : State) : Host.Outcome State Fault Refusal :=
  let n := settingOf k
  if n < 0x3F00 ∨ 0x3F02 ≤ n then .next s
  else
    let v := k.par 1
    s.runCmd k stageRow true (k.topZero 0 16 && k.zeroFrom 2 && v &&& 0xE3 = v) fun s =>
      let p := n - 0x3F00
      .done (if s.ethPortBusy p then s else s.setEthPort p v) { status := Status.success }

/-- Whether a SETTINGS_STAGE names word 0 of a region entry, and the entry. -/
def regionStage (k : Cmd) : Option Nat :=
  let n := settingOf k
  if 0x4000 ≤ n ∧ n < 0x8000 ∧ n % 4 = 0 then some ((n - 0x4000) / 4) else none

/-- Parameters of a stage of word 0. -/
def word0Ok (k : Cmd) : Bool := k.topZero 0 16 && k.zeroFrom 2 && bf (k.par 1) 55 52 = 0 && bf (k.par 1) 5 0 = 0

/-- Base, length, partition, cluster, semaphore and tag of a region. -/
def Region.base (r : Region) : Nat := bf r.w0 51 16 * 65536
def Region.length (r : Region) : Nat := bf r.w1 39 20 * 65536
def Region.part (r : Region) : Nat := bf r.w0 59 56
def Region.cluster (r : Region) : Nat := bf r.w1 53 48
def Region.sem (r : Region) : Nat := bf r.w1 47 40
def Region.tag (r : Region) : Nat := bf r.w0 15 6
def Region.valid (r : Region) : Bool := bit r.w0 63
def Region.egress (r : Region) : Bool := bit r.w0 62
def Region.posts (r : Region) : Bool := bit r.w0 61

/-- Region entry `n`. -/
def State.region (s : State) (n : Nat) : Option Region := NMap.get s.regions n none
def State.setRegion (s : State) (n : Nat) (r : Region) : State := { s with regions := NMap.set s.regions n (some r) none }

/-- Whether a region's partition and semaphore let it take effect (R493). -/
def State.regionFits (s : State) (r : Region) : Bool :=
  recClusters (s.part r.part).recWords ≠ 0 && s.clusterPart r.cluster = some r.part

/-- ETH_REGION_STAGE (R493): word 0 staged with VALID = 1. The engine writes an inbound region, which must allow it (R245). -/
def execEthRegionStage (k : Cmd) (s : State) : Host.Outcome State Fault Refusal :=
  match regionStage k with
  | none => .next s
  | some n =>
    if !bit (k.par 1) 63 then .next s
    else s.runCmd k stageRow true (word0Ok k) fun s =>
      let busy := match s.region n with
        | some r => r.valid || !r.clearing.isEmpty
        | none => false
      let r : Region := { w0 := k.par 1, w1 := s.regionWord n 1, w2 := s.regionWord n 2, w3 := s.regionWord n 3, clearing := [] }
      if busy || !s.regionFits r then refuse s Status.invalidParameter
      else match s.translateEngine r.part r.base r.length (!r.egress) with
      | .error e => s.refusePage k e (b2n (!r.egress)) Status.invalidParameter
      | .ok _ => .done (s.setRegion n r) { status := Status.success }

/-- Whether a message is a send of a region. -/
def Region.sends (r : Region) (m : EthMessage) : Bool := match m with
  | .write l q key a _ _ => l = bf r.w2 9 8 && q = bf r.w2 7 0 && key = BitVec.ofNat 32 (bf r.w2 63 32) && decide ((a - r.w3).toNat < r.length)
  | _ => false

/-- Whether a send that region `n` admitted still waits for its epoch, or for its link to go on (R490, R494, R501). -/
def State.regionBusy (s : State) (n : Nat) : Bool :=
  (s.heldJobs.any fun j => match s.job j with
    | none => false
    | some b => b.outs.any fun h => match h with
      | .ethSend _ m _ _ _ => m = n
      | .hostCopy _ _ region => region.any fun x => x.1 = n
      | _ => false) || s.ethWait.any fun m => (s.region n).any fun r => r.sends m

/-- A clearing finished: the entry holds word 0 as last staged, and the stagings complete. -/
def State.finishRegion (s : State) (n : Nat) : State :=
  match s.region n with
  | none => s
  | some r =>
    if r.clearing.isEmpty || s.regionBusy n then s
    else
      let w := match r.clearing.getLast? with
        | some k => k.par 1
        | none => r.w0
      r.clearing.foldl (fun s k => s.complete k { status := Status.success }) (s.setRegion n { r with w0 := w, clearing := [] })

/-- ETH_REGION_CLEAR (R494): word 0 staged with VALID = 0. -/
def execEthRegionClear (k : Cmd) (s : State) : Host.Outcome State Fault Refusal :=
  match regionStage k with
  | none => .next s
  | some n =>
    if bit (k.par 1) 63 then .next s
    else s.runCmd k stageRow true (word0Ok k) fun s =>
      let r : Region := (s.region n).getD { w0 := 0, w1 := s.regionWord n 1, w2 := s.regionWord n 2, w3 := s.regionWord n 3, clearing := [] }
      let r := { r with w0 := setBf r.w0 63 63 0, clearing := r.clearing ++ [k] }
      .later ((s.setRegion n r).finishRegion n)

/-! ### Inbound writes (R489, R495 to R500) -/

/-- A packet refused (R496): the rest of its message is refused too. -/
def State.nak (s : State) (link qp psn : Nat) (q : QPair) (invalid : Bool) : State :=
  (s.setQp link qp (some { q with length := 0, taken := 0, buffer := [] })).ethSend
    (if invalid then .nakInvalid link qp psn else .nakAccess link qp psn)

/-- A write refused with its ETHERNET record (R496, R547). -/
def State.nakRecord (s : State) (link qp psn : Nat) (q : QPair) (cause : Nat) : State :=
  let n := bf q.rkey 11 0
  let part := match s.region n with
    | some r => r.part
    | none => 0
  (s.raise { unit := devRef s.device, cls := 0x20, part := part, syndrome := link + qp * 2 ^ 8 + n * 2 ^ 16 + cause * 2 ^ 32,
             address := q.offset }).nak link qp psn q false

/-- The first case of R496 that refuses a message, as the record's CAUSE. -/
def State.nakCause (s : State) (link : Nat) (q : QPair) (r : Option Region) : Option Nat :=
  match r with
  | none => some 1
  | some r => firstFail
      [(r.valid && !r.egress, 1), (bf q.rkey 21 12 = r.tag, 2), (decide (q.offset + q.length ≤ r.length), 3),
       (match (s.under (s.cached (.place (link / 2)))).translateEngine r.part (r.base + q.offset) q.length true with
        | .ok ls => ls.all fun l => l.kind ≠ 3
        | .error _ => false, 4)]

/-- Bytes placed at a virtual address by the placement engine of a link's port. -/
def State.placeBytes (s : State) (link part va : Nat) (b : List Byte) : State :=
  match s.translateBy (.place (link / 2)) part va b.length true with
  | .error _ => s
  | .ok ls =>
    let t := ((s.keepLeaves (.place (link / 2)) ls).under ls).storeVa part (b.length / 32 + 2) va b
    { t with leaves := s.leaves }

/-- A message for another device, once whole: one elastic stream toward window REGION there (R498), after those that went before it.
One for a region that no relay reaches, or beyond the offsets that STREAM_OPEN carries (log entry 131), is refused, and an empty one has
nothing to relay. -/
def State.relay (s : State) (link qp psn : Nat) (q : QPair) : State :=
  let n := bf q.rkey 11 0
  let d := bf q.rkey 31 22
  if 256 ≤ n || decide (2 ^ 34 ≤ q.offset) then s.ethSend (.nakAccess link qp psn)
  else if q.buffer.isEmpty then s.ethSend (.ack link qp psn)
  else
    let pad := (32 - q.buffer.length % 32) % 32
    let b := q.buffer ++ (List.range pad).map fun i => s.freeAt 8 i
    let m : RelayWait :=
      { link := link, qp := qp, psn := psn, dev := d, window := n, base := q.offset,
        sectors := (toSectors (b.length / 32) b).map fun x => streamSector (x, false) false }
    let s := s.used pad
    State.relayNext { s with relayQ := s.relayQ ++ [m] } d

/-- A packet of a queue pair in its turn (R489, R495 to R498, R500, R607). -/
def State.takePacket (s : State) (link qp : Nat) (p : RocePacket) (q : QPair) : State :=
  let q := { q with expectPsn := (p.psn + 1) % 2 ^ 24 }
  if p.other then s.nak link qp p.psn q true
  else
    let q := if p.first then { q with rkey := p.rkey, offset := p.offset, length := p.length, taken := 0, buffer := [] } else q
    let n := q.taken + p.payload.length
    if !p.first && q.length = 0 then s.nak link qp p.psn q false
    else if decide (4096 < p.payload.length) || decide (q.length < n) || p.last ≠ decide (n = q.length) then s.nak link qp p.psn q true
    else if s.quiet then (s.used 1).nakRecord link qp p.psn q (s.freeOf [1, 2, 3, 4] 0)
    else if bf q.rkey 31 22 ≠ s.device then
      let q := { q with taken := n, buffer := q.buffer ++ p.payload }
      if !p.last then s.setQp link qp (some q)
      else (s.setQp link qp (some { q with length := 0, taken := 0, buffer := [] })).relay link qp p.psn q
    else
      let r := s.region (bf q.rkey 11 0)
      match s.nakCause link q r, r with
      | none, some r =>
        let s := (s.placeBytes link r.part (r.base + q.offset + q.taken) p.payload).setQp link qp
          (some { q with taken := if p.last then 0 else n, length := if p.last then 0 else q.length })
        if !p.last then s
        else (if r.posts then s.post r.cluster r.sem 1 none else s).ethSend (.ack link qp p.psn)
      | some c, _ => s.nakRecord link qp p.psn q c
      | none, none => s.nak link qp p.psn q false

/-- RDMA_WRITE_RECEIVE: a packet marked by ECN is answered with a congestion notification (R490); one out of its turn has no other effect
here, for transport retry brings it again. -/
def execRdmaWriteReceive (link qp : Nat) (p : RocePacket) (s : State) : Host.Outcome State Fault Refusal :=
  if 4 ≤ link ∨ 256 ≤ qp then .refused .noSuchUnit
  else match s.qp link qp with
  | none => .next s
  | some q =>
    if !s.on then .next s
    else
      let s := if p.marked then s.ethSend (.congestion link qp) else s
      if p.psn ≠ q.expectPsn then .next s else .next (s.takePacket link qp p q)

end Sys2Proof.Machine
end

