-- ==== Sys2Proof/Machine/Security.lean ====
section
/-!
DEFINITION. Certificates, attestation, sessions, job keys, weight packages, and the scrub after a host crash (R556 to
R580).
-/

namespace Sys2Proof.Machine

open Sys2Proof

/-! ### Digests and certificates (R559 to R561) -/

/-- Digest of the running firmware, over the bytes that its signature covers (R559). -/
def State.firmwareDigest (s : State) : List Byte := firmwareDigestOf s.fwImage

/-- Digest of the live persistent settings and the SKU and trim records (R559). -/
def State.settingsDigest (s : State) : List Byte :=
  padTo 64 (digestOf ((s.liveValues.flatMap fun x => leBytes 2 x.1 ++ leBytes 8 x.2.toNat) ++ Config.trimRecords))

/-- CERT_READ (R561). -/
def execCertRead (k : Cmd) (s : State) : Host.Outcome State Fault Refusal :=
  s.runCmd k { op := 0x0501, gen := 2 } true (aligned32 (k.par 0) && k.topZero 1 32 && k.zeroFrom 2) fun s =>
    let b := padTo 3264 authorityCert ++ padTo 3264 (identityCert s.secret) ++ padTo 3264 (attestationCert s.secret s.fwImage) ++ padTo 3008 (kemCert s.secret)
    s.replyBytes (k.par 0).toNat (k.par 1).toNat b { status := Status.success, count := 12800 }

/-! ### The attestation report (R562 to R564) -/

/-- An entry: TYPE, a reserved byte, the body's length, the body. -/
def reportEntry (type : Nat) (body : List Byte) : List Byte := [BitVec.ofNat 8 type, 0] ++ leBytes 2 body.length ++ body

/-- Slots of the job keys bound to a partition. -/
def State.keySlots (s : State) (p : Nat) : List Nat := (List.range 64).filter fun k => match NMap.get s.jobKeys k none with
  | some y => y.part = p
  | none => false

/-- PARTITION entry. -/
def State.partEntry (s : State) (p : Nat) : List Byte :=
  let q := s.part p
  let slots := s.keySlots p
  reportEntry 1 ([BitVec.ofNat 8 p, BitVec.ofNat 8 (b2n q.session.isSome + b2n (!slots.isEmpty) * 2), 0, 0] ++
    leBytes 8 (recClusters q.recWords).toNat ++ leBytes 2 (recPorts q.recWords) ++ [0, 0] ++ leBytes 8 q.dbg ++
    leBytes 8 (sumN (slots.map fun k => 2 ^ k)))

/-- IMAGE entries of a partition. -/
def State.imageEntries (s : State) (p : Nat) : List (List Byte) := s.images.filterMap fun x => x.2.bind fun l =>
  if l.part = p then
    some (reportEntry 2 ([BitVec.ofNat 8 p, 0] ++ leBytes 2 x.1 ++ leBytes 4 0 ++ digestBytes l.img.digest ++ digestBytes l.img.signer))
  else none

/-- PACKAGE entries of a partition. -/
def State.packageEntries (s : State) (p : Nat) : List (List Byte) := (s.packages.filter fun x => x.part = p).map fun x =>
  reportEntry 3 ([BitVec.ofNat 8 p] ++ leBytes 7 0 ++ leBytes 8 x.va ++ leBytes 8 x.length ++ digestBytes x.digest ++ digestBytes x.signer)

/-- LINK entry of a port. -/
def State.linkEntry (s : State) (p : Nat) : List Byte :=
  let k := s.port p
  reportEntry 4 ([BitVec.ofNat 8 p, BitVec.ofNat 8 k.st.code, BitVec.ofNat 8 k.rev, BitVec.ofNat 8 (b2n k.keyPhase)] ++
    leBytes 2 k.peerDev ++ [0, 0] ++ leBytes 8 k.renewals ++ digestBytes (if k.st = .up then s.idOf k.peerDev else 0))

/-- JOBKEY entries of some partitions. -/
def State.keyEntries (s : State) (ps : List Nat) : List (List Byte) := s.jobKeys.filterMap fun x => x.2.bind fun y =>
  if ps.contains y.part then
    some (reportEntry 5 ([BitVec.ofNat 8 x.1, BitVec.ofNat 8 y.part, BitVec.ofNat 8 (b2n (y.inLen ≠ 0) + b2n (y.outLen ≠ 0) * 2)] ++
      leBytes 5 0 ++ digestBytes y.digest))
  else none

/-- SESSION entry of a partition. -/
def State.sessionEntry (s : State) (p : Nat) : List (List Byte) := match (s.part p).session with
  | some x => [reportEntry 6 ([BitVec.ofNat 8 p] ++ leBytes 7 0 ++ digestBytes x.digest)]
  | none => []

/-- The entries of a report over some partitions, in ascending TYPE. -/
def State.reportEntries (s : State) (ps : List Nat) : List (List Byte) :=
  ps.map s.partEntry ++ ps.flatMap s.imageEntries ++ ps.flatMap s.packageEntries ++ (List.range 16).map s.linkEntry ++
    s.keyEntries ps ++ ps.flatMap s.sessionEntry

/-- The report's bytes before the signature. -/
def State.attestation (s : State) (ps : List Nat) (nonce : List Byte) : List Byte :=
  let es := s.reportEntries ps
  let body := es.flatten
  leBytes 2 1 ++ leBytes 2 es.length ++ leBytes 4 (288 + body.length) ++ leBytes 8 s.stamp.toNat ++
    leBytes 8 (bf (BitVec.ofNat 24 s.nvm.boots) 23 0 * 2 ^ 40 + s.dbgCount) ++
    leBytes 2 ((if s.assigned then s.device else 0) * 64 + b2n s.assigned) ++ leBytes 6 0 ++ nonce ++ digestBytes s.deviceId ++
    s.firmwareDigest ++ s.settingsDigest ++ body

/-- ATTEST_REPORT: the report over the partitions that the function covers, signed, and the nonce kept with each (R572). -/
def execAttestReport (k : Cmd) (s : State) : Host.Outcome State Fault Refusal :=
  s.runCmd k { op := 0x0500, gen := 2 } true (aligned32 (k.par 0) && k.topZero 1 32 && k.zeroFrom 2) fun s =>
    let ps := s.syncParts (s.cmdFn k)
    let nonce := s.hostRead (k.par 0).toNat 64
    let r := s.attestation ps nonce
    let b := r ++ padTo 1280 (Config.falconSign (attestSeed s.secret s.fwImage) (ascii "TVF-REPORT" ++ r))
    if (k.par 1).toNat < b.length then .done s { status := Status.invalidParameter, result := b.length }
    else
      let s := ps.foldl (fun s p => s.modPart p fun q => { q with nonce := some (digestWord nonce) }) (s.used 1)
      .done (s.hostWrite (k.par 0).toNat b) { status := Status.success, count := b.length, paths := 1 }

/-! ### Scrubbing (R579, R580) -/

/-- The session and the job keys of a partition erased; commands that wait for that end complete. -/
def State.eraseKeys (s : State) (p : Nat) : State :=
  let ok : Answer := { status := Status.success }
  let s := (s.part p).closing.foldl (fun s k => s.complete k ok) s
  let s := s.modPart p fun q => { q with session := none, closing := [] }
  (s.keySlots p).foldl (fun s n => match NMap.get s.jobKeys n none with
    | none => s
    | some y => y.clearing.foldl (fun s k => s.complete k ok) { s with jobKeys := NMap.set s.jobKeys n none none }) s

/-- The keys of a partition whose scrub has begun erased once its jobs have ended (R580 steps 1 and 2). -/
def State.finishCrash (s : State) (p : Nat) : State :=
  if (s.part p).scrub && (s.partJobs p).isEmpty then s.eraseKeys p else s

/-- A host crash of a partition: its jobs are aborted, its keys erased, and the scrub begins (R580). -/
def State.hostCrash (s : State) (p : Nat) : State := ((s.abortPart p).modPart p fun q => { q with scrub := true }).finishCrash p

/-- Whether a partition is protected (R579). -/
def State.protected_ (s : State) (p : Nat) : Bool := (s.part p).session.isSome || !(s.keySlots p).isEmpty

/-- The protected sectors of a partition's HBM ranges, zeroed with tag 0. -/
def State.zeroProtected (s : State) (p : Nat) : State :=
  let inside (i : Nat) : Bool := (recRanges (s.part p).recWords).any fun x => decide (x.1 * 2 ^ 23 ≤ i) && decide (i < x.2 * 2 ^ 23)
  let xs := s.hbm.tags.filterMap fun x => if bit x.2 6 && inside x.1 then some x.1 else none
  { s with hbm := xs.foldl (fun m i => m.putSector i (List.replicate 32 0) 0) s.hbm }

/-- SCRUB_END (R580): what the scrub of a partition leaves. Dirty lines of unprotected pages reach HBM first. -/
def execScrubEnd (p : Nat) (s : State) : Host.Outcome State Fault Refusal :=
  if 16 ≤ p then .refused .noSuchUnit
  else if !(s.part p).scrub || !(s.partJobs p).isEmpty then .next s
  else
    let cls := s.partClusters p
    let s := ((s.eraseKeys p).cleanClusters cls).zeroProtected p
    let s := cls.foldl (fun s cl => { s.zeroSlice cl with store := s.store.clear (storeAddr (8 * cl) 0) (storeAddr (8 * cl + 8) 0) }) s
    .next ({ s with packages := s.packages.filter fun x => x.part ≠ p }.modPart p fun q => { q with scrub := false })

/-! ### Sessions (R572, R578) -/

/-- Fresh use of a key. -/
def KeyUse.start (key salt : List Byte) : KeyUse := { key := key, salt := salt, next := 0, seen := [] }

/-- The confirmation that proves a ciphertext's shared key (R572). -/
def confirms (shared ct confirmation : List Byte) : Bool := derive_ "TVF-CONFIRM" (shared ++ ct) 32 = confirmation

/-- SESSION_OPEN (R572). -/
def execSessionOpen (k : Cmd) (s : State) : Host.Outcome State Fault Refusal :=
  s.runCmd k { op := 0x0502, gen := 3 } true (k.zeroFrom 1) fun s =>
    let p := s.cmdPart k
    let b := s.hostRead (k.par 0).toNat 1664
    let ct := b.take 1568
    let nonce := (b.drop 1568).take 64
    if (s.part p).session.isSome || (s.part p).nonce ≠ some (digestWord nonce) then refuse s Status.invalidParameter
    else
      let shared := Config.decapsulate (kemSeed s.secret) ct
      if !confirms shared ct (b.drop 1632) then refuse s Status.signatureInvalid
      else
        let m := derive_ "TVF-SESSION" (shared ++ ct ++ nonce) 72
        let x : Session :=
          { inbound := KeyUse.start (m.take 32) ((m.drop 64).take 4), outbound := KeyUse.start ((m.drop 32).take 32) (m.drop 68),
            digest := digestWord (digestOf ct), fn := s.cmdFn k }
        .done (s.modPart p fun q => { q with session := some x }) { status := Status.success }

/-- Whether an accepted descriptor moves data under a cipher (R573, R577), under the translation of its acceptance (R370). -/
def State.movesUnder (s : State) (cl : Nat) (d : Desc) (c : Cipher) : Bool :=
  let src := s.descSrc cl d
  let dst := s.descDst cl d
  let t := s.under d.leaves
  (t.ciphers src dst d.length false).contains c || (t.ciphers dst src (t.destLength src dst d.length) true).contains c

/-- Whether an accepted descriptor of a partition moves data under a cipher. -/
def State.transfers (s : State) (p : Nat) (c : Cipher) : Bool := (List.range 48).any fun cl =>
  ((s.cluster cl).dma.flatMap (·.2)).any fun d => d.accepted && partOf d.job = p && s.movesUnder cl d c

/-- A closing session ended once every transfer through its bounce pages has finished: its keys go, its SESSION_CLOSEs complete, and
the partition is scrubbed as after a host crash. -/
def State.finishSession (s : State) (p : Nat) : State :=
  if (s.part p).closing.isEmpty || s.transfers p .session then s
  else
    let s := (s.part p).closing.foldl (fun s k => s.complete k { status := Status.success }) s
    (s.modPart p fun q => { q with session := none, closing := [] }).hostCrash p

/-- SESSION_CLOSE (R578). -/
def execSessionClose (k : Cmd) (s : State) : Host.Outcome State Fault Refusal :=
  s.runCmd k { op := 0x0503, gen := 3 } true (k.zeroFrom 0) fun s =>
    let p := s.cmdPart k
    if (s.part p).session.isNone then refuse s Status.invalidParameter
    else .later ((s.modPart p fun q => { q with closing := q.closing ++ [k] }).finishSession p)

/-! ### Job keys (R576, R578) -/

/-- The pages of the two ranges that a key binds, the inbound one first (R364, R576); a range of length 0 has none. -/
def State.keyLeaves (s : State) (p inVa inLen outVa outLen : Nat) : Except (Refuse × Nat) (List Leaf) :=
  match s.translate p inVa inLen false with
  | .error e => .error e
  | .ok a => match s.translate p outVa outLen false with
    | .error e => .error e
    | .ok b => .ok (a ++ b)

/-- Whether two bound ranges overlap; a length of 0 binds none. -/
def boundMeet (a n b m : Nat) : Bool := n ≠ 0 && m ≠ 0 && Sys2Proof.Machine.meets a n b m

/-- Whether a range overlaps one that a key of its partition binds. -/
def State.keyOverlap (s : State) (p va len : Nat) : Bool := (s.keySlots p).any fun n => match NMap.get s.jobKeys n none with
  | none => false
  | some y => boundMeet va len y.inVa y.inLen || boundMeet va len y.outVa y.outLen

/-- Bases and lengths of JOBKEY_SET are multiples of 4,096. -/
def keyParams (k : Cmd) : Bool :=
  k.topZero 1 52 && k.topZero 2 40 && k.topZero 3 52 && k.topZero 4 40 && k.zeroFrom 5 &&
    (upFrom 1 4).all fun i => (k.par i).toNat % 4096 = 0

/-- JOBKEY_SET (R576). -/
def execJobkeySet (k : Cmd) (s : State) : Host.Outcome State Fault Refusal :=
  s.runCmd k { op := 0x0504, gen := 3 } true (keyParams k) fun s =>
    let p := s.cmdPart k
    let inVa := (k.par 1).toNat
    let inLen := (k.par 2).toNat
    let outVa := (k.par 3).toNat
    let outLen := (k.par 4).toNat
    let b := s.hostRead (k.par 0).toNat 1600
    let ct := b.take 1568
    let free := (List.range 64).find? fun n => (NMap.get s.jobKeys n none).isNone
    let shared := Config.decapsulate (kemSeed s.secret) ct
    match s.keyLeaves p inVa inLen outVa outLen with
    | .error e => s.refusePage k e 0 Status.invalidParameter
    | .ok ls => match firstFail
      [((ls.all fun l => l.kind = 0 && l.prot) &&
          !(s.keyOverlap p inVa inLen || s.keyOverlap p outVa outLen || boundMeet inVa inLen outVa outLen),
        Status.invalidParameter),
       (free.isSome, Status.keySlotFull), (confirms shared ct (b.drop 1568), Status.signatureInvalid)], free with
    | some st, _ => refuse s st
    | none, none => refuse s Status.keySlotFull
    | none, some n =>
      let m := derive_ "TVF-JOB" (shared ++ ct) 72
      let y : JobKey :=
        { part := p, fn := s.cmdFn k, inVa := inVa, inLen := inLen, outVa := outVa, outLen := outLen,
          inbound := KeyUse.start (m.take 32) ((m.drop 64).take 4), outbound := KeyUse.start ((m.drop 32).take 32) (m.drop 68),
          digest := digestWord (digestOf ct), clearing := [] }
      .done { s with jobKeys := NMap.set s.jobKeys n (some y) none } { status := Status.success, result := n }

/-- A job key that is being cleared erased once every descriptor that uses its slot has finished. -/
def State.finishKey (s : State) (n : Nat) : State :=
  match NMap.get s.jobKeys n none with
  | none => s
  | some y =>
    if y.clearing.isEmpty || s.transfers y.part (.jobKey n) then s
    else y.clearing.foldl (fun s k => s.complete k { status := Status.success }) { s with jobKeys := NMap.set s.jobKeys n none none }

/-- JOBKEY_CLEAR (R578). -/
def execJobkeyClear (k : Cmd) (s : State) : Host.Outcome State Fault Refusal :=
  s.runCmd k { op := 0x0505, gen := 3 } true (k.topZero 0 6 && k.zeroFrom 1) fun s =>
    let n := (k.par 0).toNat
    match NMap.get s.jobKeys n none with
    | none => refuse s Status.invalidParameter
    | some y =>
      if y.part ≠ s.cmdPart k then refuse s Status.invalidParameter
      else
        let y := { y with clearing := y.clearing ++ [k] }
        .later ({ s with jobKeys := NMap.set s.jobKeys n (some y) none }.finishKey n)

/-! ### Weight packages (R568 to R571) -/

/-- A package as its bytes give it: devices in the set, plaintext length, and all bytes before the signature. -/
structure PackageView where
  sets : Nat
  length : Nat
  body : List Byte
  signature : List Byte
deriving DecidableEq, Repr

/-- The package at a host address, or none when its sizes are not those of a package. -/
def State.packageAt (s : State) (addr : Nat) : Option PackageView :=
  let h := s.hostRead addr 16
  let n := fromLe ((h.drop 2).take 2)
  let len := fromLe ((h.drop 8).take 8)
  if n = 0 || decide (1024 < n) || len % 32 ≠ 0 || len = 0 || decide (2 ^ 40 < len) then none
  else
    let size := 2080 + 1680 * n + (len + 4063) / 4064 * 4096
    some { sets := n, length := len, body := s.hostRead addr size, signature := s.hostRead (addr + size) 1280 }

/-- `n` bytes of a package from byte `a`. -/
def PackageView.bytes (x : PackageView) (a n : Nat) : List Byte := (x.body.drop a).take n

/-- Whether the signature verifies (R568). -/
def PackageView.signed (x : PackageView) : Bool := Config.falconVerify (x.bytes 256 1793) (ascii "TVF-PACKAGE" ++ x.body) x.signature

/-- DEVICE_ID of set entry `i`. -/
def PackageView.idAt (x : PackageView) (i : Nat) : Nat := fromLe (x.bytes (2080 + 1680 * i) 64)

/-- Whether the fields hold values of R569: FORMAT, and DEVICE_IDs that rise. What is reserved or padding is ignored (R15). -/
def PackageView.ok (x : PackageView) : Bool :=
  fromLe (x.bytes 0 2) = 1 && (List.range (x.sets - 1)).all fun i => decide (x.idAt i < x.idAt (i + 1))

/-- Place of the set entry of a device. -/
def PackageView.entry (x : PackageView) (id : BitVec 512) : Option Nat :=
  ((List.range x.sets).map fun i => 2080 + 1680 * i).find? fun a => x.bytes a 64 = digestBytes id

/-- The package key (R570), as the device of an identity secret opens it. -/
def PackageView.key (x : PackageView) (secret : List Byte) (a : Nat) : Option (List Byte) :=
  let shared := Config.decapsulate (kemSeed secret) (x.bytes (a + 64) 1568)
  Config.gcmOpen (derive_ "TVF-WRAP" (shared ++ digestBytes (deviceIdOf secret)) 32) (List.replicate 12 0) (x.bytes 0 256)
    (x.bytes (a + 1632) 32) (x.bytes (a + 1664) 16)

/-- The plaintext of the package's records from record `i` on, `n` of them (R570, R574). -/
def PackageView.records (x : PackageView) (key : List Byte) : Nat → Nat → Option (List Byte)
  | 0, _ => some []
  | n + 1, i =>
    let a := 2080 + 1680 * x.sets + 4096 * i
    if fromLe (x.bytes a 8) ≠ i then none
    else match Config.gcmOpen key (List.replicate 4 0 ++ beBytes 8 i) (x.bytes a 16) (x.bytes (a + 32) 4064) (x.bytes (a + 16) 16) with
    | none => none
    | some p => (x.records key n (i + 1)).map fun t => padTo 4064 p ++ t

/-- The plaintext, or none where a tag or the digest fails. -/
def PackageView.plain (x : PackageView) (secret : List Byte) (a : Nat) : Option (List Byte) :=
  match x.key secret a with
  | none => none
  | some key => match x.records key ((x.length + 4063) / 4064) 0 with
    | none => none
    | some p => if digestOf (p.take x.length) = x.bytes 16 64 then some (p.take x.length) else none

/-- PACKAGE_LOAD (R571): the first failure ends it. Bytes of the sizes that no package has verify under no signature; a FORMAT or an order of
the DEVICE_IDs that R569 does not give is refused after the signature (log entry 130). -/
def execPackageLoad (k : Cmd) (s : State) : Host.Outcome State Fault Refusal :=
  s.runCmd k { op := 0x0506, gen := 3, mem := true } true ((k.par 1).toNat % 32 = 0 && k.topZero 1 52 && k.zeroFrom 2) fun s =>
    let p := s.cmdPart k
    let va := (k.par 1).toNat
    match s.packageAt (k.par 0).toNat with
    | none => refuse s Status.signatureInvalid
    | some x =>
      if !x.signed then refuse s Status.signatureInvalid
      else if !x.ok then refuse s Status.invalidParameter
      else match x.entry s.deviceId with
      | none => refuse s Status.notInSet
      | some a =>
        match s.translate p va x.length true with
        | .error e => s.refusePage k e 1 Status.invalidParameter
        | .ok ls =>
        if !(ls.all fun l => l.kind = 0 && l.prot) then refuse s Status.invalidParameter
        else
          let put (s : State) (b : List Byte) : State := s.writeVa none p va ((toSectors (x.length / 32) b).map fun y => (y, false))
          match x.plain s.secret a with
          | none => .done (put s (List.replicate x.length 0)) { status := Status.signatureInvalid, paths := 2 }
          | some b =>
            let e : Package := { part := p, va := va, length := x.length, digest := digestWord (x.bytes 16 64), signer := digestWord (x.bytes 80 64) }
            .done { put s b with packages := s.packages ++ [e] } { status := Status.success, paths := 2 }

end Sys2Proof.Machine
end

