-- ==== Sys2Proof/Machine/Power.lean ====
section
/-!
DEFINITION. Power states of clusters and Deck slices, and Quiet (R599 to R608).
-/

namespace Sys2Proof.Machine

open Sys2Proof

/-! ### Idle (R599) -/

/-- Whether no engine of a cluster has work queued: lookups, descriptors, array queues, bulk streams. -/
def State.enginesIdle (s : State) (cl : Nat) : Bool :=
  let k := s.cluster cl
  k.lookups.isEmpty && k.lookWait.isEmpty && (k.dma.all fun q => q.2.isEmpty) &&
    (upFrom (8 * cl) 8).all fun c => (s.core c).bulk = 0 && (s.core c).arr.queues.all fun q => q.2.isEmpty

/-- Whether every group of a cluster's cores is parked or idle. -/
def State.groupsIdle (s : State) (cl : Nat) : Bool :=
  (upFrom (8 * cl) 8).all fun c => (s.core c).groups.all fun g => g.2.run ≠ .running

/-- CLUSTER_IDLE. -/
def execClusterIdle (cl : Nat) (s : State) : Host.Outcome State Fault Refusal :=
  if 48 ≤ cl then .refused .noSuchUnit
  else if (s.cluster cl).pwr ≠ .run || !s.groupsIdle cl || !s.enginesIdle cl then .next s
  else .next (s.modCluster cl fun k => { k with pwr := .idle })

/-- CLUSTER_WAKE: the cluster runs 2 ticks later. -/
def execClusterWake (cl : Nat) (s : State) : Host.Outcome State Fault Refusal :=
  if 48 ≤ cl then .refused .noSuchUnit
  else if (s.cluster cl).pwr ≠ .idle then .next s
  else .next (s.setPower cl .run)

/-! ### POWER_STATE (R601, R603) -/

/-- UNIT, STATE and DECK of POWER_STATE. -/
def powerTo (k : Cmd) : Nat := bf (k.par 0) 35 32
def powerDeck (k : Cmd) : Nat := bf (k.par 0) 39 38
def powerParams (k : Cmd) : Bool := bf (k.par 0) 63 40 = 0 && bf (k.par 0) 37 36 = 0 && k.zeroFrom 1
def powerRow : OpRow := { op := 0x0700, gen := 2, pf := true }

/-- The state that a STATE from 0 to 2 names. -/
def powerName (n : Nat) : Power := if n = 0 then .run else if n = 1 then .retain else .off

/-- The slice state that STATE and DECK give a cluster's slice, or none where the pair breaks R601. With DECK 0b00 a slice
that R601 allows stays as it is. -/
def sliceFor (want deck : Nat) (now : DeckPower) (owned : Bool) : Option DeckPower :=
  match want, deck with
  | 0, 0 => some .on
  | 0, 1 => some .on
  | 0, _ => none
  | _, 1 => some .on
  | _, 2 => some .retain
  | 1, 0 => some (if now = .off then .retain else now)
  | 1, _ => none
  | _, 0 => some now
  | _, _ => if owned then none else some .off

/-- Clusters in Run or Idle. -/
def State.runMask (s : State) : Nat :=
  sumN (((List.range 48).filter fun cl => (s.cluster cl).pwr = .run || (s.cluster cl).pwr = .idle).map fun cl => 2 ^ cl)

/-- Whether some cores are whole clusters. -/
def wholeClusters (cores : List Nat) : Bool := cores.all fun c => (upFrom (c / 8 * 8) 8).all cores.contains

/-- Whether a reference names a cluster, a group or a device. -/
def powerForm (u : Word32) : Bool := match unitOf u with
  | .cluster _ _ => true
  | .group _ => true
  | .device _ => true
  | _ => false

/-- POWER_STATE commands whose clusters have reached their states completed (R603, R608). -/
def State.finishPower (s : State) : State :=
  let due := s.powerCmds.filter fun x => decide (x.1 ≤ s.tick)
  let s := { s with powerCmds := s.powerCmds.filter fun x => decide (s.tick < x.1) }
  due.foldl (fun s x => s.complete x.2 { status := Status.success, result := if powerTo x.2 ≤ 2 then s.runMask else 0 }) s

/-- POWER_STATE with STATE 0x0 to 0x2 (R603), or a reserved STATE: it completes once every cluster has reached its new state. DESIGN
CHOICE (log entry 122): work of the host on a cluster's engines holds off Retain and Off, and Quiet, with PARTITION_BUSY. -/
def execPowerState (k : Cmd) (s : State) : Host.Outcome State Fault Refusal :=
  let want := powerTo k
  if 8 ≤ want ∧ want ≤ 10 then .next s
  else s.runCmd k powerRow true (powerParams k && decide (want ≤ 2) && powerForm (k.unitAt 0)) fun s =>
    match s.resolve (k.unitAt 0) true with
    | .error a => .done s a
    | .ok l =>
      let cores := l.map (·.2)
      let cls := clustersHolding cores
      let slice (cl : Nat) : Option DeckPower := sliceFor want (powerDeck k) (s.cluster cl).deckPwr (s.clusterPart cl).isSome
      if !wholeClusters cores || cls.any fun cl => (slice cl).isNone then refuse s Status.invalidParameter
      else if cores.any s.coreHeld || (want ≠ 0 && cls.any fun cl => !s.enginesIdle cl) then refuse s Status.partitionBusy
      else
        let t := cls.foldl (fun t cl => (t.setPower cl (powerName want)).setSlice cl ((slice cl).getD .on)) s
        let due := (cls.map fun cl => (t.cluster cl).wakeAt).foldl max 0
        if due ≤ s.tick then .done t { status := Status.success, result := t.runMask }
        else .later { t with powerCmds := t.powerCmds ++ [(due, k)] }

/-! ### Quiet (R604 to R608) -/

/-- Whether an elastic stream of any source is in the buffers. -/
def State.streaming (s : State) : Bool :=
  !s.rxStreams.isEmpty || !s.relayQ.isEmpty || s.ports.any fun p => !p.2.txStreams.isEmpty || p.2.rxHeld ≠ 0

/-- Entering Quiet with every cluster in a state (R605). -/
def State.enterQuiet (s : State) (w : Power) : State :=
  let before : NMap Power := if s.quiet then s.quietBefore
    else (List.range 48).foldl (fun m cl => NMap.set m cl (s.cluster cl).pwr .run) []
  let s := (List.range 48).foldl (fun s cl => (s.setPower cl w).setSlice cl .retain) s
  let s := (List.range 12).foldl (fun s n => s.modStack n fun k => { k with selfRefresh := true }) s
  { s with quiet := true, quietBefore := before }

/-- POWER_STATE with STATE 0x8 or 0x9. -/
def execPowerStateEnterQuiet (k : Cmd) (s : State) : Host.Outcome State Fault Refusal :=
  let want := powerTo k
  if want ≠ 8 ∧ want ≠ 9 then .next s
  else
    let device : Bool := match unitOf (k.unitAt 0) with
      | .device _ => true
      | _ => false
    s.runCmd k powerRow true (powerParams k && powerDeck k = 0 && device) fun s =>
      match s.resolve (k.unitAt 0) true with
      | .error a => .done s a
      | .ok _ =>
        if !s.heldJobs.isEmpty || s.streaming || (List.range 48).any fun cl => !s.enginesIdle cl then refuse s Status.partitionBusy
        else .done (s.enterQuiet (if want = 8 then .retain else .off)) { status := Status.success }

/-- Elastic segments that waited in Quiet, taken in the order of arrival (R606). -/
def State.takeWaiting (s : State) : State :=
  s.waitSegs.foldl (fun s (x : WaitSeg) =>
    (s.modPort x.port fun k => { k with rxHeld := k.rxHeld - x.sectors.length }).elasticPlace x.port x.src x.stream x.offset x.frame x.sectors)
    { s with waitSegs := [] }

/-- A stack out of self-refresh. Whether its drift indicators require retraining, and whether that fails, is a live value
(R346). -/
def State.wakeStack (s : State) (n : Nat) : State :=
  let s := s.modStack n fun k => { k with selfRefresh := false }
  if (s.stack n).lost then s
  else if s.freeAt 1 0 = 1 then (s.used 2).loseStack n ((s.freeAt 6 1).toNat) 0 else s.used 2

/-- Leaving Quiet (R608). -/
def State.leaveQuiet (s : State) : State :=
  let s := (List.range 12).foldl State.wakeStack { s with quiet := false }
  let before := s.quietBefore
  let s := (List.range 48).foldl (fun s cl => (s.setSlice cl .on).setPower cl (NMap.get before cl .run)) s
  { s with quietBefore := [] }.takeWaiting

/-- POWER_STATE with STATE 0xA (R32, R35, R608): UNIT names a unit of this device. It completes once the clusters have reached
their states. -/
def execPowerStateLeaveQuiet (k : Cmd) (s : State) : Host.Outcome State Fault Refusal :=
  if powerTo k ≠ 10 then .next s
  else s.runCmd k powerRow true (powerParams k && powerForm (k.unitAt 0)) fun s =>
    match s.resolve (k.unitAt 0) true with
    | .error a => .done s a
    | .ok _ =>
      let t := if s.quiet then s.leaveQuiet else s
      let due := ((List.range 48).map fun cl => (t.cluster cl).wakeAt).foldl max 0
      if due ≤ s.tick then .done t { status := Status.success } else .later { t with powerCmds := t.powerCmds ++ [(due, k)] }

end Sys2Proof.Machine
end

