-- ==== Sys2Proof/Machine/Resets.lean ====
section
/-!
DEFINITION. Resets, warm reattach, boot, firmware (R597, R609 to R616, R622 to R624, R630), configuration requests and
the management bus (R449, R548, R638, R639).
-/

namespace Sys2Proof.Machine

open Sys2Proof

/-! ### Device soft reset (R610, R613, R616) -/

/-- What a port keeps over a device soft reset: its sticky counts and FAIL_STEP; FAILED with AGE 0 leaves an up port before
it goes down (R429, R610). -/
def Port.afterReset (k : Port) (stamp : Word64) (tokens : List Word64) : Port :=
  let o := { k with tokU := tokens ++ k.tokU }.sendControl stamp []
  let sends := k.st = .up && !tokens.isEmpty
  { Port.reset with failStep := k.failStep, corrected := k.corrected, uncorrectable := k.uncorrectable, authFail := k.authFail,
                    ctrlLost := k.ctrlLost, outTokens := if sends then o.outTokens else [], outCtrl := if sends then o.outCtrl else [] }

/-- The sticky health fields of a core. -/
def Core.afterReset (k : Core) : Core :=
  { Core.reset with removed := k.removed, suspect := k.suspect, passed := k.passed, suspects := k.suspects, segment := k.segment,
                    lastTest := k.lastTest }

/-- The host link trained: up, at a rate and a width that both ends support (R448). What the host's end supports is not known here: each
is a free value among those of the table. -/
def State.trainLink (s : State) : State :=
  { s.used 2 with linkUp := true, linkGen := 5 + (s.freeAt 32 0).toNat % 3, linkWidth := 2 ^ ((s.freeAt 32 1).toNat % 3) }

/-- What outlives every reset: the commands that wait, the host's memory, what has left the module, NVM and flash, the free
values used. -/
def State.outside (s : State) : State :=
  { State.reset with pending := s.pending, fresh := s.fresh, host := s.host, msixOut := s.msixOut, ethOut := s.ethOut,
                     mctpOut := s.mctpOut, shardOut := s.shardOut, nvm := s.nvm, flash := s.flash, perst := s.perst }

/-- A stack trained: SPARES is what the stack holds (R645); one that fails training is lost (R646). -/
def State.trainStack (s : State) (n : Nat) (trained : Bool) : State :=
  let s := (s.modStack n fun k => { k with spares := (s.freeAt 8 0).toNat }).used 1
  if trained then s else (s.used 1).loseStack n ((s.freeAt 6 0).toNat) 0

/-- Every stack trained, where a cold power-on still waits for its training (R348, R645, R646). -/
def State.trainStacks (s : State) : State :=
  match s.trainWait with
  | none => s
  | some m => (List.range 12).foldl (fun s n => s.trainStack n (bit m n)) { s with trainWait := none }

/-- The start of the firmware: a region that verifies runs, loads the settings and trains the stacks; else recovery, in which the
stacks wait for their training (R622, R623). -/
def State.startFirmware (s : State) : State :=
  if s.flash.firmwareOk then ({ s with fwImage := s.flash.firmware, recovery := false, ready := false }.loadSettings).trainStacks
  else { s with fwImage := [], recovery := true, ready := !s.perst }

/-- Device soft reset: what R613 keeps, and every other field at its reset value. No core issues until its store is cleared (R189). -/
def State.softReset (s : State) : State :=
  let tokens := if s.heldJobs.isEmpty then [] else [failedToken s.device (s.freeOf errorClasses 0) 0]
  { s.outside with
      fresh := s.fresh + 1
      tick := s.tick
      slipCount := s.slipCount
      slipTicks := s.slipTicks
      cores := (List.range 384).map fun c => (c, { (s.core c).afterReset with busyUntil := s.tick + 125 })
      hbmStacks := mapCanon s.hbmStacks Stack.reset fun _ k => { k with inWindow := false, selfRefresh := false }
      ports := mapCanon s.ports Port.reset fun _ k => k.afterReset s.stamp tokens
      sensors := s.sensors
      powerWindows := s.powerWindows
      notices := s.notices
      parts := mapCanon s.parts Part.reset fun _ q => { Part.reset with dbg := q.dbg }
      dbgCount := s.dbgCount
      errNumber := s.errNumber
      errLog := s.errLog
      errHold := s.errHold
      idOk := s.idOk
      powered := s.powered
      refOk := s.refOk
      straps := s.straps
      quietTicks := s.quietTicks
      trainWait := s.trainWait
      i3cAddr := s.i3cAddr
      sriov := s.sriov
      vfs := s.vfs
      linkUp := s.linkUp
      linkGen := s.linkGen
      linkWidth := s.linkWidth
      bar2Log2 := s.bar2Log2 }.startFirmware

/-- Every completion that a queue holds posted, as far as its ring has room. -/
def State.postAll (s : State) (q : Nat) : State := (List.range (s.queue q).done.length).foldl (fun s _ => s.postOne q) s

/-- A command completed, its entry posted, and the device soft reset. -/
def State.completeThenReset (s : State) (k : Cmd) (a : Answer) : State := ((s.completeCmd k a).postAll k.queue).softReset

/-- SOFT_RESET (R610). -/
def execSoftReset (k : Cmd) (s : State) : Host.Outcome State Fault Refusal :=
  s.runCmd k { op := 0x0003, gen := 1, pf := true, dev := true } true (k.zeroFrom 0) fun s =>
    .later (s.completeThenReset k { status := Status.success })

/-! ### PERST#, hot reset, link loss (R609, R614, R486) -/

/-- A queue that a reset ended: what it accepted runs on, its completions held or dropped. Function and partition stay for
those commands; HIF_QUEUE_STATE reads them no more. -/
def HQueue.ended (h : HQueue) (held : Bool) : HQueue :=
  { HQueue.reset with fn := h.fn, part := h.part, orphans := h.orphans ++ (h.accepted ++ h.running).map fun k => (k, held) }

/-- Queue `q` ended by a reset; records of a RESYNC reply are no completions that it holds; the QUEUE_CONTROL that was destroying it completes. -/
def State.endQueue (s : State) (q : Nat) (held : Bool) : State :=
  let h := s.queue q
  let s := s.modQueue q fun h => h.ended held
  let s := if held then (h.done.filter fun e => e.recType = 0).foldl (fun s e => s.holdDone q e) s else s
  match h.destroying with
  | some k => s.complete k { status := Status.success }
  | none => s

/-- Queues that exist. -/
def State.liveQueues (s : State) : List Nat := (s.queues.filter fun x => x.2.st ≠ .absent).map (·.1)

/-- Whether a partition maps host memory: its jobs depend on the host (R613). -/
def State.hostBound (s : State) (p : Nat) : Bool := s.leaves.any fun l => l.part = p && l.isHost

/-- The leaves of KIND host unmapped, each by the invalidation sequence (R614 step 4). -/
def State.unmapHost (s : State) : State :=
  let gone := s.leaves.filter Leaf.isHost
  gone.foldl (fun s l => s.beginInval l.part l.va l.size none) (s.unmapLeaves Leaf.isHost)

/-- The PCI Express functions reset: SR-IOV off, the HIF_ registers but HIF_ERR_ROUTE at their reset values (R614 step 5). -/
def State.resetFunctions (s : State) : State :=
  { s with sriov := false, vfs := 0, bar2Log2 := 0, bar2Base := 0, errRing := 0, errDropped := 0, errTail := 0, errHead := 0,
           admin := [], tsLatch := [], msix := [] }

/-- The leaves of KIND host unmapped once the jobs that depend on the host have ended (R614 steps 3 and 4). -/
def State.finishUnmap (s : State) : State :=
  if !s.hostUnmap || s.heldJobs.any fun j => s.hostBound (partOf j) then s else { s with hostUnmap := false }.unmapHost

/-- Warm reattach (R614). -/
def State.warmReattach (s : State) : State :=
  let s := s.liveQueues.foldl (fun s q => s.endQueue q true) s
  let s := ((List.range 16).filter s.protected_).foldl State.hostCrash s
  let s := (s.heldJobs.filter fun j => s.hostBound (partOf j)).foldl (fun s j => s.stopJob j { status := Status.jobAborted } []) s
  { ({ s with hostUnmap := true }.finishUnmap).resetFunctions with warmFlag := true, ready := s.recovery && !s.perst }

/-- A reset of the link: warm reattach when its setting is 1, else a device soft reset with the functions reset. -/
def State.linkReset (s : State) : State :=
  let s := { s with linkUp := false }
  if bit s.warmSetting 0 then s.warmReattach else s.softReset.resetFunctions

/-- A hot reset: the link resets and, unless PERST# holds it, trains again. -/
def State.hotReset (s : State) : State := if s.perst then s.linkReset else s.linkReset.trainLink

/-- PERST (R609, R614). -/
def execPerst (kind : LinkReset) (s : State) : Host.Outcome State Fault Refusal :=
  let s := if kind = .perst then { s with perst := true } else s
  if !s.on then .next s
  else match kind with
  | .hotReset => .next s.hotReset
  | _ => .next s.linkReset

/-- PERST_DEASSERTION (R622): the link trains. -/
def execPerstDeassertion (s : State) : Host.Outcome State Fault Refusal :=
  if !s.perst then .next s
  else if !s.on then .next { s with perst := false }
  else .next { s.trainLink with perst := false, ready := s.ready || s.recovery }

/-! ### Function-level reset (R609, R611) -/

/-- FUNCTION_LEVEL_RESET of function `v`. -/
def execFunctionLevelReset (v : Nat) (s : State) : Host.Outcome State Fault Refusal :=
  if 17 ≤ v then .refused .noSuchUnit
  else if !s.on then .next s
  else if v = 0 then .next s.hotReset
  else if !s.sriov || decide (s.vfs < v) then .next s
  else
    let p := v - 1
    let s := (s.liveQueues.filter fun q => (s.queue q).fn = v).foldl (fun s q => s.endQueue q false) s
    let s := { s.setAdmin v AdminRegs.reset with tsLatch := NMap.erase s.tsLatch v, msix := NMap.erase s.msix v }
    let s := s.askReset p none
    let opened (q : Nat) : Bool :=
      (match (s.part q).session with
        | some x => x.fn = v
        | none => false) || (s.keySlots q).any fun n => match NMap.get s.jobKeys n none with
        | some y => y.fn = v
        | none => false
    .next (((List.range 16).filter opened).foldl State.hostCrash s)

/-! ### Power and boot (R556, R567, R597, R622, R630, R638) -/

/-- COLD_POWER_ON. Without a valid reference the module stays in reset (R597). -/
def execColdPowerOn (b : BootInput) (s : State) : Host.Outcome State Fault Refusal :=
  let s := s.outside
  if !b.refValid then .next { s with refOk := false }
  else
    let s := { s with nvm := { s.nvm with boots := min ringWrites (s.nvm.boots + 1) }, idOk := b.pufOk, straps := b.straps,
                      trainWait := some b.trained }
    let s := if s.perst then s else s.trainLink
    .next (s.nvm.removed.foldl (fun (s : State) c => s.modCore c fun k => { k with removed := true }) s).startFirmware

/-- INPUT_UNDERVOLTAGE (R630): input below 38 V for 100 µs. -/
def execInputUndervoltage (ticks : Nat) (s : State) : Host.Outcome State Fault Refusal :=
  if ticks < 10000 then .next s else .next { s.outside with powered := false }

/-- BOOT_READY (R622). -/
def execBootReady (s : State) : Host.Outcome State Fault Refusal :=
  if s.on && !s.ready && !s.perst && !s.recovery then .next { s with ready := true } else .next s

/-! ### Firmware (R568, R624) -/

/-- FIRMWARE_UPDATE (R624). In recovery the boot ROM resets the module once the write ends. -/
def execFirmwareUpdate (k : Cmd) (s : State) : Host.Outcome State Fault Refusal :=
  s.runCmd k { op := 0x0704, gen := 2, pf := true, dev := true } true (k.topZero 1 32 && k.topZero 2 1 && k.zeroFrom 3) fun s =>
    let scan := bit (k.par 2) 0
    let n := (k.par 1).toNat
    if (if scan then 40 else 16) * 2 ^ 20 < n then refuse s Status.invalidParameter
    else
      let image := s.hostRead (k.par 0).toNat n
      if !firmwareSigned image then refuse s Status.signatureInvalid
      else
        let s := if scan then { s with flash := { s.flash with scan := image, scanOk := true } }
          else { s with flash := { s.flash with firmware := image, firmwareOk := true } }
        if s.recovery then .later (s.completeThenReset k { status := Status.success }) else .done s { status := Status.success }

/-! ### Configuration requests (R449, R452, R622) -/

/-- Whether the module presents function `f` (R449). -/
def State.hasFunction (s : State) (f : Nat) : Bool := f = 0 || (s.sriov && decide (f ≤ s.vfs))

/-- CONFIGURATION_REQUEST: unanswered while the link is down, retried before READY; a write may enable SR-IOV or resize
BAR2. What a read returns is PCI Express's own: a live value. -/
def execConfigurationRequest (r : ConfigRequest) (s : State) : Host.Outcome State Fault Refusal :=
  if !s.on || s.perst then .next s
  else if !s.ready then .next { s with readOut := some { bytes := [], ep := false, abort := false, retry := true } }
  else match r with
  | .read => .next ((s.used 1).answerRead (leBytes 4 (s.freeAt 32 0).toNat))
  | .sriov enable vfs => if 16 < vfs then .next s else .next { s with sriov := enable, vfs := if enable then vfs else 0 }
  | .msix f enable mask => if !s.hasFunction f then .next s
    else .next (s.writeMsix f { s.msixOf f with enable := enable, functionMask := mask })
  | .msixVector f v mask => if !s.hasFunction f || msixVectors f ≤ v then .next s
    else
      let m := s.msixOf f
      .next (s.writeMsix f { m with unmasked := if mask then m.unmasked.erase v else if m.unmasked.contains v then m.unmasked else m.unmasked ++ [v] })
  | .resizeBar2 n => if 10 < n then .next s else .next { s with bar2Log2 := n }

/-! ### Management (R548, R638, R639) -/

/-- MCTP_MESSAGE: control messages and the inventory from the moment firmware or boot ROM runs; the records kept (R548) only
while the firmware runs. -/
def execMctpMessage (m : MctpMessage) (s : State) : Host.Outcome State Fault Refusal :=
  if !s.on then .next s
  else match m with
  | .control => .next { s with mctpOut := s.mctpOut ++ [.controlReply] }
  | .inventory => .next { s with mctpOut := s.mctpOut ++ [.inventory s.straps s.deviceId] }
  | .records => .next (if s.recovery then s else { s with mctpOut := s.mctpOut ++ s.errLog.map fun r => .record Config.enterprise r })

/-- DYNAMIC_ADDRESS_ASSIGNMENT: SETDASA to the static address 0x50 + POS, or ENTDAA. -/
def execDynamicAddressAssignment (a : AddressAssignment) (s : State) : Host.Outcome State Fault Refusal :=
  if !s.on then .next s
  else match a with
  | .setdasa static dyn => if static = 0x50 + s.straps.zeroExtend 7 then .next { s with i3cAddr := some dyn } else .next s
  | .entdaa dyn => .next { s with i3cAddr := some (s.i3cAddr.getD dyn) }

end Sys2Proof.Machine
end

