-- ==== Sys2Proof/Machine/Dispatch.lean ====
section
/-! DEFINITION. The dispatch: one arm for each command of the block, a direct call of its meaning. -/

namespace Sys2Proof.Machine

open Sys2Proof

/-- The effect of a command on everything but the queue. -/
def exec (i : Instr) (s : State) : Host.Outcome State Fault Refusal :=
  match i with
  | .sAdd c g w => Sys2Proof.Machine.execSAdd c g w s
  | .sSub c g w => Sys2Proof.Machine.execSSub c g w s
  | .sMul c g w => Sys2Proof.Machine.execSMul c g w s
  | .sAnd c g w => Sys2Proof.Machine.execSAnd c g w s
  | .sOr c g w => Sys2Proof.Machine.execSOr c g w s
  | .sXor c g w => Sys2Proof.Machine.execSXor c g w s
  | .sShl c g w => Sys2Proof.Machine.execSShl c g w s
  | .sShr c g w => Sys2Proof.Machine.execSShr c g w s
  | .sSra c g w => Sys2Proof.Machine.execSSra c g w s
  | .sMin c g w => Sys2Proof.Machine.execSMin c g w s
  | .sMax c g w => Sys2Proof.Machine.execSMax c g w s
  | .sCmp c g w => Sys2Proof.Machine.execSCmp c g w s
  | .sLih c g w => Sys2Proof.Machine.execSLih c g w s
  | .sId c g w => Sys2Proof.Machine.execSId c g w s
  | .sFlags c g w => Sys2Proof.Machine.execSFlags c g w s
  | .sVget c g w => Sys2Proof.Machine.execSVget c g w s
  | .vAdd c g w => Sys2Proof.Machine.execVAdd c g w s
  | .vSub c g w => Sys2Proof.Machine.execVSub c g w s
  | .vMul c g w => Sys2Proof.Machine.execVMul c g w s
  | .vAnd c g w => Sys2Proof.Machine.execVAnd c g w s
  | .vOr c g w => Sys2Proof.Machine.execVOr c g w s
  | .vXor c g w => Sys2Proof.Machine.execVXor c g w s
  | .vShl c g w => Sys2Proof.Machine.execVShl c g w s
  | .vShr c g w => Sys2Proof.Machine.execVShr c g w s
  | .vSra c g w => Sys2Proof.Machine.execVSra c g w s
  | .vMin c g w => Sys2Proof.Machine.execVMin c g w s
  | .vMax c g w => Sys2Proof.Machine.execVMax c g w s
  | .vCmp c g w => Sys2Proof.Machine.execVCmp c g w s
  | .vSel c g w => Sys2Proof.Machine.execVSel c g w s
  | .vBcast c g w => Sys2Proof.Machine.execVBcast c g w s
  | .vPerm c g w => Sys2Proof.Machine.execVPerm c g w s
  | .vIred c g w => Sys2Proof.Machine.execVIred c g w s
  | .fAdd c g w => Sys2Proof.Machine.execFAdd c g w s
  | .fSub c g w => Sys2Proof.Machine.execFSub c g w s
  | .fMul c g w => Sys2Proof.Machine.execFMul c g w s
  | .fFma c g w => Sys2Proof.Machine.execFFma c g w s
  | .fMin c g w => Sys2Proof.Machine.execFMin c g w s
  | .fMax c g w => Sys2Proof.Machine.execFMax c g w s
  | .fCmp c g w => Sys2Proof.Machine.execFCmp c g w s
  | .fAbs c g w => Sys2Proof.Machine.execFAbs c g w s
  | .fNeg c g w => Sys2Proof.Machine.execFNeg c g w s
  | .fDiv c g w => Sys2Proof.Machine.execFDiv c g w s
  | .fSqrt c g w => Sys2Proof.Machine.execFSqrt c g w s
  | .fExp2 c g w => Sys2Proof.Machine.execFExp2 c g w s
  | .fLog2 c g w => Sys2Proof.Machine.execFLog2 c g w s
  | .fFred c g w => Sys2Proof.Machine.execFFred c g w s
  | .fArgmax c g w => Sys2Proof.Machine.execFArgmax c g w s
  | .cvCvt c g w => Sys2Proof.Machine.execCvCvt c g w s
  | .cvEnc c g w => Sys2Proof.Machine.execCvEnc c g w s
  | .cvDec c g w => Sys2Proof.Machine.execCvDec c g w s
  | .ldW c g w => Sys2Proof.Machine.execLdW c g w s
  | .stW c g w => Sys2Proof.Machine.execStW c g w s
  | .ldCq8 c g w => Sys2Proof.Machine.execLdCq8 c g w s
  | .gtW c g w => Sys2Proof.Machine.execGtW c g w s
  | .scW c g w => Sys2Proof.Machine.execScW c g w s
  | .dkZero c g w => Sys2Proof.Machine.execDkZero c g w s
  | .mxCfg c g w => Sys2Proof.Machine.execMxCfg c g w s
  | .mxRun c g w => Sys2Proof.Machine.execMxRun c g w s
  | .mxDrain c g w => Sys2Proof.Machine.execMxDrain c g w s
  | .mxSplit c g w => Sys2Proof.Machine.execMxSplit c g w s
  | .jmp c g w => Sys2Proof.Machine.execJmp c g w s
  | .brAny c g w => Sys2Proof.Machine.execBrAny c g w s
  | .brAll c g w => Sys2Proof.Machine.execBrAll c g w s
  | .brNone c g w => Sys2Proof.Machine.execBrNone c g w s
  | .brZ c g w => Sys2Proof.Machine.execBrZ c g w s
  | .brNz c g w => Sys2Proof.Machine.execBrNz c g w s
  | .call c g w => Sys2Proof.Machine.execCall c g w s
  | .jmpR c g w => Sys2Proof.Machine.execJmpR c g w s
  | .maskPush c g w => Sys2Proof.Machine.execMaskPush c g w s
  | .maskElse c g w => Sys2Proof.Machine.execMaskElse c g w s
  | .maskPop c g w => Sys2Proof.Machine.execMaskPop c g w s
  | .cheapMark c g w => Sys2Proof.Machine.execCheapMark c g w s
  | .endGroup c g w => Sys2Proof.Machine.execEndGroup c g w s
  | .semWait c g w => Sys2Proof.Machine.execSemWait c g w s
  | .semPost c g w => Sys2Proof.Machine.execSemPost c g w s
  | .tickWait c g w => Sys2Proof.Machine.execTickWait c g w s
  | .commit c g w => Sys2Proof.Machine.execCommit c g w s
  | .dmaEnq c g w => Sys2Proof.Machine.execDmaEnq c g w s
  | .embSub c g w => Sys2Proof.Machine.execEmbSub c g w s
  | .gatherRelease c g slot data => Sys2Proof.Machine.execGatherRelease c g slot data s
  | .scatterVisible c g slot => Sys2Proof.Machine.execScatterVisible c g slot s
  | .dkZeroDone c g slot => Sys2Proof.Machine.execDkZeroDone c g slot s
  | .translationWalkDone e part va => Sys2Proof.Machine.execTranslationWalkDone e part va s
  | .translationParkExpiry c g => Sys2Proof.Machine.execTranslationParkExpiry c g s
  | .semPostEffect c g n => Sys2Proof.Machine.execSemPostEffect c g n s
  | .arrayRunStart c t => Sys2Proof.Machine.execArrayRunStart c t s
  | .arrayRunEnd c t err => Sys2Proof.Machine.execArrayRunEnd c t err s
  | .arrayDrainStart c t => Sys2Proof.Machine.execArrayDrainStart c t s
  | .arrayDrainEnd c t => Sys2Proof.Machine.execArrayDrainEnd c t s
  | .mxSplitEffect c => Sys2Proof.Machine.execMxSplitEffect c s
  | .bulkStreamEnd c => Sys2Proof.Machine.execBulkStreamEnd c s
  | .dmaAccept cl q n => Sys2Proof.Machine.execDmaAccept cl q n s
  | .dmaComplete cl q n remote poisoned => Sys2Proof.Machine.execDmaComplete cl q n remote poisoned s
  | .lookupAccept cl => Sys2Proof.Machine.execLookupAccept cl s
  | .lookupSortEnd cl => Sys2Proof.Machine.execLookupSortEnd cl s
  | .lookupRowArrive cl li table index remote => Sys2Proof.Machine.execLookupRowArrive cl li table index remote s
  | .shardRequest dev table index pin scheduled => Sys2Proof.Machine.execShardRequest dev table index pin scheduled s
  | .lookupComplete cl => Sys2Proof.Machine.execLookupComplete cl s
  | .wcetTick op => Sys2Proof.Machine.execWcetTick op s
  | .commitPoint j => Sys2Proof.Machine.execCommitPoint j s
  | .slipPoint j => Sys2Proof.Machine.execSlipPoint j s
  | .slipEnd j => Sys2Proof.Machine.execSlipEnd j s
  | .replaySlipEnd j => Sys2Proof.Machine.execReplaySlipEnd j s
  | .maintenanceWindow j n m => Sys2Proof.Machine.execMaintenanceWindow j n m s
  | .ceilingReleaseApply j epoch => Sys2Proof.Machine.execCeilingReleaseApply j epoch s
  | .jobStart j => Sys2Proof.Machine.execJobStart j s
  | .jobComplete e => Sys2Proof.Machine.execJobComplete e s
  | .quantumExpiry j => Sys2Proof.Machine.execQuantumExpiry j s
  | .saveEnd j => Sys2Proof.Machine.execSaveEnd j s
  | .restoreEnd j => Sys2Proof.Machine.execRestoreEnd j s
  | .sliceOverrun j => Sys2Proof.Machine.execSliceOverrun j s
  | .batcherDeadline part => Sys2Proof.Machine.execBatcherDeadline part s
  | .clusterIdle cl => Sys2Proof.Machine.execClusterIdle cl s
  | .clusterWake cl => Sys2Proof.Machine.execClusterWake cl s
  | .sensorSample readings => Sys2Proof.Machine.execSensorSample readings s
  | .inputPowerWindow milliwatts => Sys2Proof.Machine.execInputPowerWindow milliwatts s
  | .squallRepeat sensor => Sys2Proof.Machine.execSquallRepeat sensor s
  | .slipSetSend j => Sys2Proof.Machine.execSlipSetSend j s
  | .sequencerMismatch cl => Sys2Proof.Machine.execSequencerMismatch cl s
  | .clockLoss outside => Sys2Proof.Machine.execClockLoss outside s
  | .tickFrameSend port => Sys2Proof.Machine.execTickFrameSend port s
  | .tickFrameReceive port message errors control => Sys2Proof.Machine.execTickFrameReceive port message errors control s
  | .controlFrameLost port cause => Sys2Proof.Machine.execControlFrameLost port cause s
  | .keyRenewal port => Sys2Proof.Machine.execKeyRenewal port s
  | .portBringupDone port b => Sys2Proof.Machine.execPortBringupDone port b s
  | .mcastTimeout port src stream => Sys2Proof.Machine.execMcastTimeout port src stream s
  | .squall port t => Sys2Proof.Machine.execSquall port t s
  | .failed port t => Sys2Proof.Machine.execFailed port t s
  | .revoke port t => Sys2Proof.Machine.execRevoke port t s
  | .mcRequest port t content => Sys2Proof.Machine.execMcRequest port t content s
  | .mcPrepare port t content => Sys2Proof.Machine.execMcPrepare port t content s
  | .mcAck port t => Sys2Proof.Machine.execMcAck port t s
  | .mcCommit port t => Sys2Proof.Machine.execMcCommit port t s
  | .mcAbort port t => Sys2Proof.Machine.execMcAbort port t s
  | .mcOutcome port t => Sys2Proof.Machine.execMcOutcome port t s
  | .modeChangeTimeout coord change => Sys2Proof.Machine.execModeChangeTimeout coord change s
  | .modeChangeApply coord change => Sys2Proof.Machine.execModeChangeApply coord change s
  | .ceilArrive port t => Sys2Proof.Machine.execCeilArrive port t s
  | .ceilRelease port t => Sys2Proof.Machine.execCeilRelease port t s
  | .semPostToken port t0 t1 => Sys2Proof.Machine.execSemPostToken port t0 t1 s
  | .slipSet port t => Sys2Proof.Machine.execSlipSet port t s
  | .credit port t => Sys2Proof.Machine.execCredit port t s
  | .frameLost port t => Sys2Proof.Machine.execFrameLost port t s
  | .frameAccount port t0 t1 => Sys2Proof.Machine.execFrameAccount port t0 t1 s
  | .streamOpen port t0 t1 t2 => Sys2Proof.Machine.execStreamOpen port t0 t1 t2 s
  | .streamDrop port t => Sys2Proof.Machine.execStreamDrop port t s
  | .refuse port t => Sys2Proof.Machine.execRefuse port t s
  | .keyFragment port t => Sys2Proof.Machine.execKeyFragment port t s
  | .echo port t => Sys2Proof.Machine.execEcho port t s
  | .scrubAccess stack seen => Sys2Proof.Machine.execScrubAccess stack seen s
  | .fieldTestSegment c => Sys2Proof.Machine.execFieldTestSegment c s
  | .fieldTestSegmentEnd c final => Sys2Proof.Machine.execFieldTestSegmentEnd c final s
  | .errorRecordHoldExpiry n => Sys2Proof.Machine.execErrorRecordHoldExpiry n s
  | .traceRecordWrite die part => Sys2Proof.Machine.execTraceRecordWrite die part s
  | .sqTail q v => Sys2Proof.Machine.execSqTail q v s
  | .cqHead q v => Sys2Proof.Machine.execCqHead q v s
  | .slotFetch q slot => Sys2Proof.Machine.execSlotFetch q slot s
  | .slotRefetch q slot => Sys2Proof.Machine.execSlotRefetch q slot s
  | .completionPost q => Sys2Proof.Machine.execCompletionPost q s
  | .hifAqCtrlEnable f v => Sys2Proof.Machine.execHifAqCtrlEnable f v s
  | .hifAqCtrlDisable f v => Sys2Proof.Machine.execHifAqCtrlDisable f v s
  | .hifErrRingWrite v => Sys2Proof.Machine.execHifErrRingWrite v s
  | .hifErrPtrsRead => Sys2Proof.Machine.execHifErrPtrsRead s
  | .fabTimestampRead f part => Sys2Proof.Machine.execFabTimestampRead f part s
  | .fabPortConfigWrite p v => Sys2Proof.Machine.execFabPortConfigWrite p v s
  | .registerWrite f off v => Sys2Proof.Machine.execRegisterWrite f off v s
  | .bar2Read off len => Sys2Proof.Machine.execBar2Read off len s
  | .bar2Write off data => Sys2Proof.Machine.execBar2Write off data s
  | .nop k => Sys2Proof.Machine.execNop k s
  | .resync k => Sys2Proof.Machine.execResync k s
  | .queueControlCreate k => Sys2Proof.Machine.execQueueControlCreate k s
  | .queueControlDestroy k => Sys2Proof.Machine.execQueueControlDestroy k s
  | .queueControlStop k => Sys2Proof.Machine.execQueueControlStop k s
  | .queueControlResume k => Sys2Proof.Machine.execQueueControlResume k s
  | .softReset k => Sys2Proof.Machine.execSoftReset k s
  | .partitionConfig k => Sys2Proof.Machine.execPartitionConfig k s
  | .partitionReset k => Sys2Proof.Machine.execPartitionReset k s
  | .groupSet k => Sys2Proof.Machine.execGroupSet k s
  | .groupQuery k => Sys2Proof.Machine.execGroupQuery k s
  | .groupClear k => Sys2Proof.Machine.execGroupClear k s
  | .map k => Sys2Proof.Machine.execMap k s
  | .unmap k => Sys2Proof.Machine.execUnmap k s
  | .invalidateRange k => Sys2Proof.Machine.execInvalidateRange k s
  | .invalidateAck e n => Sys2Proof.Machine.execInvalidateAck e n s
  | .translationTimeout e n => Sys2Proof.Machine.execTranslationTimeout e n s
  | .windowSet k => Sys2Proof.Machine.execWindowSet k s
  | .windowClear k => Sys2Proof.Machine.execWindowClear k s
  | .memCopy k => Sys2Proof.Machine.execMemCopy k s
  | .zeroLines k => Sys2Proof.Machine.execZeroLines k s
  | .deckConfig k => Sys2Proof.Machine.execDeckConfig k s
  | .deckQuery k => Sys2Proof.Machine.execDeckQuery k s
  | .tableCreate k => Sys2Proof.Machine.execTableCreate k s
  | .tableDestroy k => Sys2Proof.Machine.execTableDestroy k s
  | .tableQuery k => Sys2Proof.Machine.execTableQuery k s
  | .tableVersionOpen k => Sys2Proof.Machine.execTableVersionOpen k s
  | .tableWriteRows k => Sys2Proof.Machine.execTableWriteRows k s
  | .tableVersionSeal k => Sys2Proof.Machine.execTableVersionSeal k s
  | .tableFlip k => Sys2Proof.Machine.execTableFlip k s
  | .tableRetire k => Sys2Proof.Machine.execTableRetire k s
  | .tableRetireDone table slot => Sys2Proof.Machine.execTableRetireDone table slot s
  | .tablePatch k => Sys2Proof.Machine.execTablePatch k s
  | .tablePatchCommit k => Sys2Proof.Machine.execTablePatchCommit k s
  | .tableFold k => Sys2Proof.Machine.execTableFold k s
  | .tableFoldEnd table => Sys2Proof.Machine.execTableFoldEnd table s
  | .overlayEntryRemove table index tag => Sys2Proof.Machine.execOverlayEntryRemove table index tag s
  | .tableDefaultSet k => Sys2Proof.Machine.execTableDefaultSet k s
  | .overlayConfig k => Sys2Proof.Machine.execOverlayConfig k s
  | .jobLaunch k => Sys2Proof.Machine.execJobLaunch k s
  | .jobLaunchBatch k => Sys2Proof.Machine.execJobLaunchBatch k s
  | .lookupSubmit k => Sys2Proof.Machine.execLookupSubmit k s
  | .jobAbort k => Sys2Proof.Machine.execJobAbort k s
  | .imageLoad k img => Sys2Proof.Machine.execImageLoad k img s
  | .imageUnload k => Sys2Proof.Machine.execImageUnload k s
  | .sliceConfig k => Sys2Proof.Machine.execSliceConfig k s
  | .jobCounters k => Sys2Proof.Machine.execJobCounters k s
  | .genConfig k => Sys2Proof.Machine.execGenConfig k s
  | .seqJoin k => Sys2Proof.Machine.execSeqJoin k s
  | .seqLeave k => Sys2Proof.Machine.execSeqLeave k s
  | .seqQuery k => Sys2Proof.Machine.execSeqQuery k s
  | .batcherConfig k => Sys2Proof.Machine.execBatcherConfig k s
  | .fabricJoin k => Sys2Proof.Machine.execFabricJoin k s
  | .fabricLeave k => Sys2Proof.Machine.execFabricLeave k s
  | .fabricQuery k => Sys2Proof.Machine.execFabricQuery k s
  | .jobRemap k => Sys2Proof.Machine.execJobRemap k s
  | .attestReport k => Sys2Proof.Machine.execAttestReport k s
  | .certRead k => Sys2Proof.Machine.execCertRead k s
  | .sessionOpen k => Sys2Proof.Machine.execSessionOpen k s
  | .sessionClose k => Sys2Proof.Machine.execSessionClose k s
  | .jobkeySet k => Sys2Proof.Machine.execJobkeySet k s
  | .jobkeyClear k => Sys2Proof.Machine.execJobkeyClear k s
  | .packageLoad k => Sys2Proof.Machine.execPackageLoad k s
  | .traceConfigConfigure k => Sys2Proof.Machine.execTraceConfigConfigure k s
  | .traceConfigStart k => Sys2Proof.Machine.execTraceConfigStart k s
  | .traceConfigStop k => Sys2Proof.Machine.execTraceConfigStop k s
  | .traceConfigStatus k => Sys2Proof.Machine.execTraceConfigStatus k s
  | .traceConfigRearm k => Sys2Proof.Machine.execTraceConfigRearm k s
  | .traceTrigger k => Sys2Proof.Machine.execTraceTrigger k s
  | .counterConfig k => Sys2Proof.Machine.execCounterConfig k s
  | .counterSample k => Sys2Proof.Machine.execCounterSample k s
  | .fieldTestRead k => Sys2Proof.Machine.execFieldTestRead k s
  | .fieldTestRun k => Sys2Proof.Machine.execFieldTestRun k s
  | .fieldTestReturn k => Sys2Proof.Machine.execFieldTestReturn k s
  | .debugAccess k => Sys2Proof.Machine.execDebugAccess k s
  | .powerState k => Sys2Proof.Machine.execPowerState k s
  | .powerStateEnterQuiet k => Sys2Proof.Machine.execPowerStateEnterQuiet k s
  | .powerStateLeaveQuiet k => Sys2Proof.Machine.execPowerStateLeaveQuiet k s
  | .settingsStage k => Sys2Proof.Machine.execSettingsStage k s
  | .ethPortStage k => Sys2Proof.Machine.execEthPortStage k s
  | .ethRegionStage k => Sys2Proof.Machine.execEthRegionStage k s
  | .ethRegionClear k => Sys2Proof.Machine.execEthRegionClear k s
  | .settingsRead k => Sys2Proof.Machine.execSettingsRead k s
  | .storeSettings k => Sys2Proof.Machine.execStoreSettings k s
  | .firmwareUpdate k => Sys2Proof.Machine.execFirmwareUpdate k s
  | .rdmaWriteReceive link qp p => Sys2Proof.Machine.execRdmaWriteReceive link qp p s
  | .connectionRequest link peerQp => Sys2Proof.Machine.execConnectionRequest link peerQp s
  | .pfcPause link prio pause => Sys2Proof.Machine.execPfcPause link prio pause s
  | .mctpMessage m => Sys2Proof.Machine.execMctpMessage m s
  | .coldPowerOn b => Sys2Proof.Machine.execColdPowerOn b s
  | .perst kind => Sys2Proof.Machine.execPerst kind s
  | .scrubEnd part => Sys2Proof.Machine.execScrubEnd part s
  | .functionLevelReset v => Sys2Proof.Machine.execFunctionLevelReset v s
  | .inputUndervoltage ticks => Sys2Proof.Machine.execInputUndervoltage ticks s
  | .bootReady => Sys2Proof.Machine.execBootReady s
  | .tickWaitReached c g => Sys2Proof.Machine.execTickWaitReached c g s
  | .retrainWithoutWindow stack m => Sys2Proof.Machine.execRetrainWithoutWindow stack m s
  | .dbgCoreRegisterRead f reg c g => Sys2Proof.Machine.execDbgCoreRegisterRead f reg c g s
  | .perstDeassertion => Sys2Proof.Machine.execPerstDeassertion s
  | .configurationRequest r => Sys2Proof.Machine.execConfigurationRequest r s
  | .dynamicAddressAssignment a => Sys2Proof.Machine.execDynamicAddressAssignment a s

end Sys2Proof.Machine
end

