-- ==== Sys2Proof/Machine/Tick.lean ====
section
/-!
DEFINITION. A tick boundary (R59, R60, R64): what time alone does. A step with no command waiting takes it (log entry 3).
-/

namespace Sys2Proof.Machine

open Sys2Proof

/-! ### Schedule time and slips (R70 to R75) -/

/-- A wall tick noted in which schedule time stood still; what lies further back than an AGE reaches is dropped (R430). -/
def Job.stand (b : Job) (tick : Nat) : Job :=
  let l := match b.stood with
    | (a, n) :: t => if a + n = tick then (a, n + 1) :: t else (tick, 1) :: b.stood
    | [] => [(tick, 1)]
  { b with stood := l.filter fun x => decide (tick < x.1 + x.2 + 65536) }

/-- A tick of a running job: its schedule time goes on, or the slip in force runs down; a replay slip's own counter goes on. A
slip that has run down waits for its end. -/
def Job.onTick (b : Job) (tick : Nat) : Job :=
  let b := if b.onSchedule then b else b.stand tick
  if b.phase ≠ .running then b
  else match b.slips with
    | [] => { b with stick := b.stick + 1 }
    | x :: rest =>
      if x.left = 0 then b
      else { b with slips := { x with left := x.left - 1 } :: rest, replayTick := b.replayTick.map (· + 1) }

/-- Whether a job's schedule time goes on in a tick, and whether it is slipping or pre-empted (R582). -/
def Job.advances (b : Job) : Bool := b.onSchedule
def Job.slipping (b : Job) : Bool := match b.phase with
  | .running => !b.slips.isEmpty
  | .saving _ => true
  | .preempted => true
  | .restoring => true
  | _ => false

/-- Whether a slip runs down in a tick (FAB_SLIP_TOTAL). -/
def Job.inSlip (b : Job) : Bool := b.phase = .running && b.slips.head?.any fun x => x.left ≠ 0

/-- A tick of every held job. -/
def State.tickJobs (s : State) : State :=
  let n := (s.heldJobs.filter fun j => (s.job j).any Job.inSlip).length
  let s := { s with slipTicks := satN 40 (s.slipTicks + n) }
  s.heldJobs.foldl (fun s j => s.modJob j fun b => b.onTick s.tick) s

/-! ### Counters (R60, R582, R583) -/

/-- Cores of the footprints of the jobs that satisfy `p`. -/
def State.coresWhere (s : State) (p : Job → Bool) : List Nat :=
  ((s.heldJobs.filter fun j => (s.job j).any p).flatMap fun j => (s.jobFootprint j).map (·.1)).eraseDups

/-- Groups of a core parked for a reason. -/
def Core.parkedOn (k : Core) (p : Park → Bool) : Nat := (k.groups.filter fun g => g.2.parkedFor p).length

def Park.onGather : Park → Bool
  | .gatherReg _ => true
  | .slotsFull => true
  | _ => false
def Park.onSem : Park → Bool
  | .sem _ _ => true
  | _ => false
def Park.onMiss : Park → Bool
  | .miss _ _ _ => true
  | _ => false

/-- Pipe slots that a core's issue ring offers to groups in the tick of schedule time `t` (R179). -/
def Core.offered (k : Core) (t : Nat) : Nat :=
  sumN ((List.range 33).map fun i =>
    let e := k.ring.getD ((33 * t + i) % max k.ring.length 1) 0xFFFF
    b2n (bf e 12 8 ≠ 0x1F) + b2n (bf e 4 0 ≠ 0x1F))

/-- Cycles of a tick in which a core had no group ready, its array stalled behind a bulk stream, and its issue ring's slots stayed empty
(R147, R180, R582). How many of a tick's cycles go by before a ready group issues is a free value (log entry 27). -/
def State.cycleEvents (s : State) (c : Nat) : State :=
  let k := s.core c
  let ready := k.groups.any fun x => s.groupReady c x.1
  let none_ := if ready then (s.freeAt 6 0).toNat % 34 else 33
  let stall := if k.bulk ≠ 0 && k.arr.queues.any (fun q => !q.2.isEmpty) then 33 else 0
  let slots := match (k.groups.findSome? fun x => x.2.job).bind s.job with
    | some b => if k.fixed then ((b.slotTick.map k.offered).getD 0) else 0
    | none => 0
  let empty := if ready then (s.freeAt 7 1).toNat % (slots + 1) else slots
  (s.modCore c fun k => { k with cnt := ((k.cnt.event 0x03 none_).event 0x0A stall).event 0x0D empty }).used 2

/-- Cores whose counters select events of cycles. -/
def State.cycleCores (s : State) : List Nat :=
  (s.cores.filter fun x => x.2.cnt.sel.any fun y => y.2 = 0x03 || y.2 = 0x0A || y.2 = 0x0D).map (·.1)

/-- The 33 arithmetic and 11 service cycles of a tick counted: CYCLES, SLIP_CYCLES, group-cycles parked, BUSY_CYCLES. Clocks that stand
still count none. -/
def State.tickCounts (s : State) : State :=
  if s.clockOff then s
  else
  let s := s.cycleCores.foldl (fun s c => s.cycleEvents c) s
  let on := s.coresWhere Job.advances
  let off := (s.coresWhere Job.slipping).filter fun c => !on.contains c
  let s := on.foldl (fun s c => s.modCore c fun k => { k with cnt := k.cnt.add cntCycles 33 }) s
  let s := off.foldl (fun s c => s.modCore c fun k => { k with cnt := k.cnt.add cntSlipCycles 33 }) s
  let s := s.mapCores fun _ k =>
    { k with cnt := ((k.cnt.event 0x04 (33 * k.parkedOn Park.onGather)).event 0x05 (33 * k.parkedOn Park.onSem)).event 0x06
                      (33 * k.parkedOn Park.onMiss) }
  s.mapClusters fun _ k => if k.lookups.isEmpty then k else { k with engCnt := k.engCnt.add 7 11 }

/-- Stacks that a lookup reads: those of its list, and once it is sorted those of its rows. -/
def State.lookupStacks (s : State) (cl : Nat) (l : Lookup) : List Nat :=
  let read (f : Leaf) : Bool := f.meets l.listVa (16 * l.count) || f.meets l.workVa (16 * l.count)
  let es := if l.phase = .sorting then (s.sortedList cl l).1 else l.entries
  ((l.leaves.filter read).filterMap fun f => if f.kind = 0 then some (stackOf (bf f.entry 51 16 * 65536)) else none) ++
    ((distinctKeys es).filter fun k => !s.isDefault k && (s.remoteOwner k).isNone).filterMap fun k =>
      match s.pinnedTable (s.lookupPins l) k.1 with
      | some (p, t) => some (stackOf (s.rowPlace k.1 t p.version p.ce k.2).1)
      | none => none

/-- A tick of the lookups that the host asked for: their time is wall time but for the ticks in which a maintenance window of a
stack that they read is open (R76, R266). -/
def State.tickLookups (s : State) : State := s.mapClusters fun cl k =>
  { k with lookups := k.lookups.map fun l => match l.source with
      | .host _ => if (s.lookupStacks cl l).any fun n => (s.stack n).inWindow then l else { l with time := l.time + 1 }
      | .prog _ _ _ _ => l }

/-! ### Commands whose end has come -/

/-- Queues being destroyed that have drained (R459). -/
def State.finishDestroys (s : State) : State := s.queues.foldl (fun s x => match x.2.destroying with
  | none => s
  | some k => if (s.queue x.1).drained (some k) then { s with queues := NMap.erase s.queues x.1 }.complete k { status := Status.success }
    else s) s

/-- Commands that wait for the end of other work: destroys, window clears, region clears, session and job-key ends. -/
def State.finishWaits (s : State) : State :=
  let s := s.finishDestroys.finishWindows.finishPower.finishUnmap
  let s := (List.range 16).foldl (fun s p => (s.finishReset p).finishCrash p) s
  let s := (s.regions.map (·.1)).foldl (fun s n => s.finishRegion n) s
  let s := (List.range 16).foldl (fun s p => s.finishSession p) s
  (List.range 64).foldl (fun s n => s.finishKey n) s

/-! ### Tokens that wait (R415) -/

/-- A token that waits a tick more before it departs: its AGE counts on, its REMAIN counts down. -/
def ageToken (t : Word64) : Word64 :=
  let ty := bf t 63 56
  if ty = 0x02 then setBf t 37 22 (satN 16 (bf t 37 22 + 1))
  else if ty = 0x0B then setBf t 29 14 (bf t 29 14 - 1)
  else if ty = 0x0D && bf t 29 28 = 0 then setBf t 17 2 (bf t 17 2 - 1)
  else if ty = 0x11 then setBf t 15 2 (bf t 15 2 - 1)
  else t

/-- The tokens that a port did not send in the tick that ends. -/
def Port.ageTokens (k : Port) : Port :=
  { k with tokU := k.tokU.map ageToken, tokM := k.tokM.map ageToken, tokS := k.tokS.map ageToken }

/-! ### The tick boundary -/

/-- One tick of wall time, after the frames that this tick still owes have left (R374). Without power or reference nothing happens
(R62, R597). -/
def State.tickBoundary (s : State) : State :=
  if !s.on || s.refLost then s
  else
    let s := ((List.range 16).foldl (fun s p => s.sendDue p) s).mapPorts fun _ k => k.ageTokens
    let s := { s with tick := s.tick + 1, quietTicks := if s.quiet then s.quietTicks + 1 else s.quietTicks }
    let s := s.raiseReserved.tickCounts.tickJobs.tickLookups.landPosts
    let s := s.heldJobs.foldl (fun s j => ((s.endDue j).wakeDue j).arriveDue j) s
    s.askStarts.noticeInvals.startChange.dropRootless.retrainPorts.finishWaits

end Sys2Proof.Machine
end

