-- ==== Sys2Proof/Safety.lean ====
section
/-!
DEFINITION. What a good state and a safe step are, and the words in which statements speak of a command's effect: what a group
of a core must meet to run an instruction, and what an instruction or a completion leaves unchanged.
-/

namespace Sys2Proof.Machine

open Sys2Proof

/-! ### Invariants -/

/-- Every memory is in its canonical form, so that equal memories are equal data. -/
def State.memWf (s : State) : Bool :=
  s.store.wf && s.deck.wf && s.hbm.wf && NMap.wf 0 s.imem && NMap.wf 0 s.host

/-- No page of the NVM ring has been written more than 100,000 times (R621). -/
def State.nvmEndures (s : State) : Prop := ∀ p, NMap.get s.nvm.pageWrites p 0 ≤ 100000

/-- The invariant that every step keeps. -/
def State.Inv (s : State) : Prop := s.memWf = true ∧ s.nvmEndures

/-- A step that does not stop. -/
def State.steps (s : State) : Bool :=
  match step s with
  | .next _ => true
  | _ => false

/-! ### What an instruction of a group meets and leaves -/

/-- Group `g` of core `c` is ready, its program counter lies in its job's stream, and none of the vector registers listed awaits
a gather: a legal instruction that reads and writes those registers issues (R177, R184, R202). -/
def State.offers (s : State) (c g : Nat) (rs : List Nat) : Prop :=
  c < 384 ∧ g < 16 ∧ s.groupReady c g = true ∧ s.inStream c g (s.grp c g).pc.toNat = true ∧
    ∀ r ∈ rs, (s.grp c g).awaits r = false

/-- A group after an instruction: the next index, the flags `fl` set, POISON_SEEN set when it read poison. -/
def Grp.ran (x : Grp) (fl : BitVec 5) (poison : Bool) : Grp :=
  { x with pc := x.pc + 1, flags := x.flags ||| fl ||| (if poison then 0x10 else 0) }

/-- What an instruction of group `g` of core `c` on registers leaves: everything but that group's own state, the counters of
cores, the free values used, and, when it read poison, the jobs' suspect steps. -/
def RegistersOnly (s t : State) (c g : Nat) (poison : Bool) : Prop :=
  t = { s with cores := t.cores, jobs := t.jobs, fresh := t.fresh } ∧
    (∀ c', { t.core c' with groups := (s.core c').groups, cnt := (s.core c').cnt } = s.core c') ∧
    (∀ c' g', c' ≠ c ∨ g' ≠ g → t.grp c' g' = s.grp c' g') ∧ (poison = false → t.jobs = s.jobs)

/-- An outcome that leaves the group as `y`, and everything else as `RegistersOnly` says. -/
def Ran (s : State) (c g : Nat) (y : Grp) (poison : Bool) (o : Host.Outcome State Fault Refusal) : Prop :=
  ∃ t, o = .next t ∧ t.grp c g = y ∧ RegistersOnly s t c g poison

/-! ### Core store -/

/-- The `n` bytes of core `c`'s store from offset `o`, as stored. -/
def State.storeBytes (s : State) (c o n : Nat) : List Byte := (upFrom (storeAddr c o) n).map fun a => NMap.get s.store.cells a 0

/-- A sector of core store is neither poisoned nor does its read correct anything (R188, R332, R333). -/
def State.cleanSector (s : State) (c o : Nat) : Prop :=
  (s.store.sector (storeAddr c o / 32)).poison = false ∧ (s.store.sector (storeAddr c o / 32)).corrected = false

/-- What an access of group `g` of core `c` to core store leaves: `RegistersOnly`, the core store apart, with
the versions that it replaces under a run of the array. -/
def StoreOnly (s t : State) (c g : Nat) : Prop :=
  t = { s with cores := t.cores, jobs := t.jobs, fresh := t.fresh, store := t.store, storeLog := t.storeLog } ∧
    (∀ c', { t.core c' with groups := (s.core c').groups, cnt := (s.core c').cnt } = s.core c') ∧
    (∀ c' g', c' ≠ c ∨ g' ≠ g → t.grp c' g' = s.grp c' g')

/-! ### Host commands -/

/-- A host command that is due: its packet carries the row's opcode, the module is powered, nothing that came before it holds
it up, it passes the checks of R466 that do not depend on its parameters and the module's own conditions, and its queue runs. -/
def State.accepts (s : State) (k : Cmd) (row : OpRow) : Bool :=
  k.opcode.toNat = row.op && s.on && !s.mustWait k && decide (k.gen ≠ 0) && decide (row.gen ≤ k.gen) && headerOk k row &&
    s.functionMay k row && (s.moduleCheck k row).isNone && (s.queue k.queue).st = .running &&
    (s.queue k.queue).orphans.all fun o => o.1 ≠ k

/-- The state in which a command that is due finds the module: taken from those its queue had accepted (one that no fetch brought is
counted now), traced, and a debug access counted. -/
def State.started (s : State) (k : Cmd) : State :=
  (((if (s.queue k.queue).accepted.contains k then s else s.countSubmit k).takeCmd k).traceStart k).countDebug k

/-- A completion of command `k` joins those that its queue holds, and no other does (R467). -/
def Completed (s t : State) (k : Cmd) (a : Answer) : Prop :=
  (t.queue k.queue).done = (s.queue k.queue).done ++ [completionOf k a]

/-- An outcome in which command `k` has completed with answer `a`, and of which `post` holds. -/
def Answers (s : State) (k : Cmd) (o : Host.Outcome State Fault Refusal) (a : Answer) (post : State → Prop) : Prop :=
  ∃ t, o = .next t ∧ Completed s t k a ∧ post t

/-- An outcome in which command `k` is under way and not yet completed, and of which `post` holds. -/
def Waits (s : State) (k : Cmd) (o : Host.Outcome State Fault Refusal) (post : State → Prop) : Prop :=
  ∃ t, o = .next t ∧ (t.queue k.queue).done = (s.queue k.queue).done ∧ k ∈ (t.queue k.queue).running ∧ post t

end Sys2Proof.Machine
end

