-- ==== Sys2Proof/Certificates/Slice0/Obligations.lean ====
section
/-!
DEFINITION. The statements for the provers. A docstring names the rules of spec/ that the statement draws on, says what it states of them, and where a clause
rests on a choice of the model (log entry).
-/

open Sys2Proof Sys2Proof.Machine

/-! ### The scalar and vector units -/

/-- R214, R216, R218, R173: the scalar integer instructions on every legal word. The result goes to DST (s0 keeps its 0) and is
poisoned when an operand is; no flag but POISON_SEEN is set; every other register, and everything outside the group, stays.
Completes: sAdd, sSub, sMul, sAnd, sOr, sXor, sShl, sShr, sSra, sMin, sMax. Model's choices: log entry 24. -/
def Obligations.ScalarArithmetic : Prop :=
  ∀ (s : State) (c g : Nat) (w : IWord), s.offers c g [] →
    let x := s.grp c g
    let a := x.sreg (fSrc1 w)
    let b := x.srcB w
    let p := a.poison || b.poison
    let done := fun (v : Word64) o => Ran s c g ((x.setSreg (fDst w) { val := v, poison := p }).ran 0 p) p o
    let legal := fun m => (plainGroup w && regs w 32 32 && lowRI w 32 && modOnly w m) = true
    (legal 0x10 →
      done (a.val + b.val) (exec (.sAdd c g w) s) ∧ done (a.val - b.val) (exec (.sSub c g w) s) ∧
      done (a.val * b.val) (exec (.sMul c g w) s) ∧ done (a.val &&& b.val) (exec (.sAnd c g w) s) ∧
      done (a.val ||| b.val) (exec (.sOr c g w) s) ∧ done (a.val ^^^ b.val) (exec (.sXor c g w) s) ∧
      done (a.val <<< (b.val.toNat % 64)) (exec (.sShl c g w) s) ∧
      done (a.val >>> (b.val.toNat % 64)) (exec (.sShr c g w) s) ∧
      done (a.val.sshiftRight (b.val.toNat % 64)) (exec (.sSra c g w) s)) ∧
    (legal 0x18 → bit w 39 = true →
      done (if a.val.toNat ≤ b.val.toNat then a.val else b.val) (exec (.sMin c g w) s) ∧
      done (if a.val.toNat ≤ b.val.toNat then b.val else a.val) (exec (.sMax c g w) s)) ∧
    (legal 0x18 → bit w 39 = false →
      done (if a.val.toInt ≤ b.val.toInt then a.val else b.val) (exec (.sMin c g w) s) ∧
      done (if a.val.toInt ≤ b.val.toInt then b.val else a.val) (exec (.sMax c g w) s))

/-- R218, R201: compare, immediate high half, identity, flags and lane reads into a scalar register, on every legal word. The
timestamp of selector 5 has a free CYCLE field (log entry 15). Completes: sCmp, sLih, sId, sFlags, sVget. Model's choices: log
entries 15 and 24. -/
def Obligations.ScalarMoves : Prop :=
  ∀ (s : State) (c g : Nat) (w : IWord), s.offers c g [] →
    let x := s.grp c g
    let a := x.sreg (fSrc1 w)
    let b := x.srcB w
    let d := x.sreg (fDst w)
    let p := a.poison || b.poison
    ((fGuard w = 0 && decide (fCond w < 6) && regs w 32 32 && lowRI w 32 && modOnly w 0x10) = true →
      Ran s c g ((x.setSreg (fDst w) { val := if intCond (fCond w) a.val b.val then 1 else 0, poison := p }).ran 0 p) p
        (exec (.sCmp c g w) s)) ∧
    ((plainGroup w && regs w 32 1 && fMod w = 0x10) = true →
      Ran s c g ((x.setSreg (fDst w)
          { val := BitVec.ofNat 64 (fImm w * 2 ^ 32 + d.val.toNat % 2 ^ 32), poison := d.poison }).ran 0 d.poison) d.poison
        (exec (.sLih c g w) s)) ∧
    ((plainGroup w && regs w 32 1 && fMod w = 0x10 && bf w 31 11 = 0 && decide (bf w 7 0 < 8) &&
        (bf w 7 0 = 7 || bf w 10 8 = 0)) = true →
      Ran s c g ((x.setSreg (fDst w) { val := s.identity c g (bf w 7 0) (bf w 10 8), poison := false }).ran 0 false) false
        (exec (.sId c g w) s)) ∧
    ((plainGroup w && regs w 32 1 && fMod w = 0x10 && bf w 31 5 = 0) = true →
      Ran s c g (({ x.setSreg (fDst w) { val := BitVec.ofNat 64 x.flags.toNat, poison := false } with
          flags := x.flags &&& ~~~(BitVec.ofNat 5 (bf w 4 0)) }).ran 0 false) false
        (exec (.sFlags c g w) s)) ∧
    ((plainGroup w && regs w 32 64 && fMod w = 0x10 && bf w 31 5 = 0) = true → x.awaits (fSrc1 w) = false →
      let v := x.vlane (fSrc1 w) (bf w 4 0)
      Ran s c g ((x.setSreg (fDst w) { val := BitVec.ofNat 64 v.val.toNat, poison := v.poison }).ran 0 v.poison) v.poison
        (exec (.sVget c g w) s))

/-- R212, R214, R216, R218, R173: the lane-wise integer instructions on every legal word. Each active lane of DST takes its
result, poisoned when an operand of the lane is; the other lanes keep theirs; no flag but POISON_SEEN is set. Completes: vAdd,
vSub, vMul, vAnd, vOr, vXor, vShl, vShr, vSra, vMin, vMax. Model's choices: log entry 24. -/
def Obligations.VectorInteger : Prop :=
  ∀ (s : State) (c g : Nat) (w : IWord), s.offers c g [fSrc1 w, fSrc2 w, fDst w] →
    let x := s.grp c g
    let ls := lanesOf (x.active (fGuard w))
    let a := fun i => x.vlane (fSrc1 w) i
    let b := fun i => x.vecB w i
    let p := ls.any fun i => (a i).poison || (b i).poison
    let done := fun (f : Nat → Word32) o =>
      Ran s c g ((x.setLanes (fDst w) ls fun i => { val := f i, poison := (a i).poison || (b i).poison }).ran 0 p) p o
    let legal := fun m => (fCond w = 0 && lowRI w 64 && modOnly w m) = true
    (legal 0x10 →
      done (fun i => (a i).val + (b i).val) (exec (.vAdd c g w) s) ∧ done (fun i => (a i).val - (b i).val) (exec (.vSub c g w) s) ∧
      done (fun i => (a i).val * (b i).val) (exec (.vMul c g w) s) ∧ done (fun i => (a i).val &&& (b i).val) (exec (.vAnd c g w) s) ∧
      done (fun i => (a i).val ||| (b i).val) (exec (.vOr c g w) s) ∧
      done (fun i => (a i).val ^^^ (b i).val) (exec (.vXor c g w) s) ∧
      done (fun i => (a i).val <<< ((b i).val.toNat % 32)) (exec (.vShl c g w) s) ∧
      done (fun i => (a i).val >>> ((b i).val.toNat % 32)) (exec (.vShr c g w) s) ∧
      done (fun i => (a i).val.sshiftRight ((b i).val.toNat % 32)) (exec (.vSra c g w) s)) ∧
    (legal 0x18 → bit w 39 = true →
      done (fun i => if (a i).val.toNat ≤ (b i).val.toNat then (a i).val else (b i).val) (exec (.vMin c g w) s) ∧
      done (fun i => if (a i).val.toNat ≤ (b i).val.toNat then (b i).val else (a i).val) (exec (.vMax c g w) s)) ∧
    (legal 0x18 → bit w 39 = false →
      done (fun i => if (a i).val.toInt ≤ (b i).val.toInt then (a i).val else (b i).val) (exec (.vMin c g w) s) ∧
      done (fun i => if (a i).val.toInt ≤ (b i).val.toInt then (b i).val else (a i).val) (exec (.vMax c g w) s))

/-- R218, R219, R173: selection, broadcast, permutation and integer reduction on every legal word. The reductions start from
their identities and take the active lanes in ascending order. Completes: vSel, vBcast, vPerm, vIred. Model's choices: log entry
24. -/
def Obligations.VectorMoves : Prop :=
  ∀ (s : State) (c g : Nat) (w : IWord), s.offers c g [fSrc1 w, fSrc2 w, fDst w] →
    let x := s.grp c g
    let ls := lanesOf (x.active (fGuard w))
    let a := fun i => x.vlane (fSrc1 w) i
    let b := fun i => x.vlane (fSrc2 w) i
    let q := fun i => x.vlane (fSrc1 w) ((b i).val.toNat % 32)
    ((fCond w = 0 && lowRR w 64 8 && fMod w = 0) = true →
      let p := ls.any fun i => (a i).poison || (b i).poison
      Ran s c g ((x.setLanes (fDst w) ls fun i =>
          { val := if bit (x.preg (fSrc3 w)) i then (a i).val else (b i).val, poison := (a i).poison || (b i).poison }).ran 0 p) p
        (exec (.vSel c g w) s)) ∧
    ((fCond w = 0 && modOnly w 0x11 && (if fI w then !bit w 36 && fSrc1 w = 0
        else lowRR w 1 1 && (if bit w 36 then fSrc1 w = 0 else decide (fSrc1 w < 32)))) = true →
      let r := if fI w || bit w 36 then sclean 0 else x.sreg (fSrc1 w)
      let p := x.active (fGuard w) ≠ 0 && r.poison
      Ran s c g ((x.setLanes (fDst w) ls fun i =>
          { val := if bit w 36 then BitVec.ofNat 32 i else if fI w then imm32 w else BitVec.ofNat 32 r.val.toNat,
            poison := r.poison }).ran 0 p) p
        (exec (.vBcast c g w) s)) ∧
    ((fCond w = 0 && lowRR w 64 1 && fMod w = 0) = true →
      let p := ls.any fun i => (b i).poison || (q i).poison
      Ran s c g ((x.setLanes (fDst w) ls fun i => { val := (q i).val, poison := (b i).poison || (q i).poison }).ran 0 p) p
        (exec (.vPerm c g w) s)) ∧
    ((fCond w = 0 && decide (fDst w < 32) && lowRR w 1 1 && modOnly w 0x06 && bf w 38 37 ≠ 3) = true →
      let vs := ls.map fun i => (a i).val
      let p := ls.any fun i => (a i).poison
      let r : Word32 := match bf w 38 37 with
        | 0 => vs.foldl (· + ·) 0
        | 1 => vs.foldl (fun m v => if m.toInt ≤ v.toInt then m else v) 0x7FFFFFFF
        | _ => vs.foldl (fun m v => if m.toInt ≤ v.toInt then v else m) 0x80000000
      Ran s c g ((x.setSreg (fDst w) { val := r.signExtend 64, poison := p }).ran 0 p) p (exec (.vIred c g w) s))

/-- R218, R202, R203: the lane-wise compares. With no poisoned active lane, the active bits of the predicate take the condition
and the others stay (p0 keeps all ones); a poisoned active lane raises POISONED_CONTROL that names the poisoned lanes.
Completes: vCmp, fCmp. Model's choices: log entry 24. -/
def Obligations.Compares : Prop :=
  ∀ (s : State) (c g : Nat) (w : IWord), s.offers c g [fSrc1 w, fSrc2 w] →
    let x := s.grp c g
    let ls := lanesOf (x.active (fGuard w))
    let a := fun i => x.vlane (fSrc1 w) i
    let b := fun i => x.vecB w i
    let bad := ls.filter fun i => (a i).poison || (b i).poison
    let f := fType w
    let done := fun (holds : Nat → Bool) o =>
      (bad = [] → Ran s c g ((x.setPredLanes (fDst w) ls holds).ran 0 false) false o) ∧
      (bad ≠ [] → o = .next (s.except c g 0x0E (maskOf bad) 0))
    ((decide (fCond w < 6) && decide (fDst w < 8) && lowRI w 64 && modOnly w 0x10) = true →
      done (fun i => intCond (fCond w) (a i).val (b i).val) (exec (.vCmp c g w) s)) ∧
    (((decide (fCond w < 4) || fCond w = 6) && decide (fDst w < 8) && lowRI w 64 && typeLegal w 0x1C) = true →
      done (fun i => f.cond (fCond w) (operandOf f (a i).val) (operandOf f (b i).val)) (exec (.fCmp c g w) s))

/-- R212, R215, R217, R218, R201: the lane-wise float instructions on every legal word: each active lane takes the result of its
type's operation on bits [15:0] or [31:0] of its operands, and the flags of the active lanes' events are set on the group. The
precision of exp2 and log2 is log entry 12. Completes: fAdd, fSub, fMul, fFma, fMin, fMax, fAbs, fNeg, fDiv, fSqrt, fExp2,
fLog2. Model's choices: log entries 12 and 24. -/
def Obligations.FloatArithmetic : Prop :=
  ∀ (s : State) (c g : Nat) (w : IWord), s.offers c g [fSrc1 w, fSrc2 w, fSrc3 w, fDst w] →
    let x := s.grp c g
    let ls := lanesOf (x.active (fGuard w))
    let f := fType w
    let va := fun i => x.vlane (fSrc1 w) i
    let vb := fun i => x.vecB w i
    let vd := fun i => x.vlane (fSrc3 w) i
    let a := fun i => operandOf f (va i).val
    let b := fun i => operandOf f (vb i).val
    let d := fun i => operandOf f (vd i).val
    let done := fun (r : Nat → FRes) (bad : Nat → Bool) o =>
      Ran s c g ((x.setLanes (fDst w) ls fun i => { val := BitVec.ofNat 32 (r i).code, poison := bad i }).ran
        (flagsOf (ls.map r)) (ls.any bad)) (ls.any bad) o
    let one := fun i => (va i).poison
    let two := fun i => (va i).poison || (vb i).poison
    ((fCond w = 0 && lowRI w 64 && typeLegal w 0x1C) = true →
      done (fun i => f.op2 FVal.add (a i) (b i)) two (exec (.fAdd c g w) s) ∧
      done (fun i => f.op2 (fun u v => u.add v.neg) (a i) (b i)) two (exec (.fSub c g w) s) ∧
      done (fun i => f.op2 FVal.mul (a i) (b i)) two (exec (.fMul c g w) s) ∧
      done (fun i => f.minNum (a i) (b i)) two (exec (.fMin c g w) s) ∧
      done (fun i => f.maxNum (a i) (b i)) two (exec (.fMax c g w) s) ∧
      done (fun i => f.op2 FVal.div (a i) (b i)) two (exec (.fDiv c g w) s)) ∧
    ((fCond w = 0 && lowRR w 64 64 && typeLegal w 0x0C) = true →
      done (fun i => f.fma (a i) (operandOf f (x.vlane (fSrc2 w) i).val) (d i))
        (fun i => (va i).poison || (x.vlane (fSrc2 w) i).poison || (vd i).poison) (exec (.fFma c g w) s)) ∧
    ((fCond w = 0 && lowRR w 1 1 && typeLegal w 0x0C) = true →
      done (fun i => f.abs (a i)) one (exec (.fAbs c g w) s) ∧ done (fun i => f.negate (a i)) one (exec (.fNeg c g w) s) ∧
      done (fun i => f.op1 FVal.sqrt (a i)) one (exec (.fSqrt c g w) s) ∧
      done (fun i => f.op1 FVal.exp2 (a i)) one (exec (.fExp2 c g w) s) ∧
      done (fun i => f.op1 FVal.log2 (a i)) one (exec (.fLog2 c g w) s))

/-- R126, R218, R219: the float reductions on every legal word: the fold of the active lanes in ascending order, and the lowest
active lane of the greatest value that is not a NaN, or all ones. Completes: fFred, fArgmax. Model's choices: log entry 24. -/
def Obligations.FloatReductions : Prop :=
  ∀ (s : State) (c g : Nat) (w : IWord), s.offers c g [fSrc1 w] →
    let x := s.grp c g
    let ls := lanesOf (x.active (fGuard w))
    let f := fType w
    let v := fun i => x.vlane (fSrc1 w) i
    let p := ls.any fun i => (v i).poison
    let num := fun i => f.decode (operandOf f (v i).val)
    ((fCond w = 0 && decide (fDst w < 32) && lowRR w 1 1 && fMod w = 0) = true →
      let r := reduce32 (ls.map fun i => (v i).val.toNat)
      Ran s c g ((x.setSreg (fDst w) { val := BitVec.ofNat 64 r.code, poison := p }).ran r.flags p) p (exec (.fFred c g w) s)) ∧
    ((fCond w = 0 && decide (fDst w < 32) && lowRR w 1 1 && typeLegal w 0x0C) = true →
      ∃ r : Word64, Ran s c g ((x.setSreg (fDst w) { val := r, poison := p }).ran 0 p) p (exec (.fArgmax c g w) s) ∧
        ((∀ i ∈ ls, (num i).isNan = true) → r = BitVec.allOnes 64) ∧
        ((∃ i ∈ ls, (num i).isNan = false) → ∃ k ∈ ls, r = BitVec.ofNat 64 k ∧ (num k).isNan = false ∧
          ∀ i ∈ ls, (num i).isNan = false → (num i).cmp (num k) ≠ .gt ∧ (i < k → (num k).cmp (num i) = .gt)))

/-- R114 to R117, R220, R221, R650: the conversions on every legal word: cv.cvt lane by lane; cv.enc, which writes the plane to
the low lanes among the active ones and 0 to the other active ones, and the scale to SRC2; cv.dec of a block that is valid, lane
by lane. Completes: cvCvt, cvEnc, cvDec. Model's choices: log entries 20 and 24. -/
def Obligations.Conversions : Prop :=
  ∀ (s : State) (c g : Nat) (w : IWord), s.offers c g [fSrc1 w, fDst w] →
    let x := s.grp c g
    let act := x.active (fGuard w)
    let ls := lanesOf act
    let v := fun i => x.vlane (fSrc1 w) i
    ((lowCV w 1 && decide (fFrom w < 8) && decide (fTo w < 8) && fFrom w ≠ fTo w && (!fRtz w || decide (5 ≤ fTo w))) = true →
      ∀ src dst, elemOf (fFrom w) = some src → elemOf (fTo w) = some dst →
        let r := fun i => convertLane src dst (fSat w) (fRtz w) (v i).val.toNat
        let p := ls.any fun i => (v i).poison
        Ran s c g ((x.setLanes (fDst w) ls fun i => { val := BitVec.ofNat 32 (r i).code, poison := (v i).poison }).ran
          (flagsOf (ls.map r)) p) p (exec (.cvCvt c g w) s)) ∧
    ((lowCV w 32 && decide (fFrom w < 3) && blockCode (fTo w) && !fRtz w) = true →
      ∀ src, elemOf (fFrom w) = some src →
        let xs := (List.range 32).map fun i => if bit act i then src.value (v i).val.toNat else .fin false 0 0
        let r := encodeBlock (fTo w) (fSat w) xs
        let p := ls.any fun i => (v i).poison
        let fl := ({ code := 0, nanMade := r.nanMade, clamped := r.clamped } : FRes).flags
        Ran s c g (((x.setLanes (fDst w) ls fun i =>
            { val := BitVec.ofNat 32 (if i < planeBytes (fTo w) / 4 then r.plane / 2 ^ (32 * i) else 0), poison := p }).setSreg
            (fSrc2 w) { val := BitVec.ofNat 64 r.head, poison := p }).ran fl p) p (exec (.cvEnc c g w) s)) ∧
    ((lowCV w 32 && blockCode (fFrom w) && (fTo w = 0 || fTo w = 2) && !fSat w && !fRtz w) = true →
      let n := planeBytes (fFrom w) / 4
      let head := bf (x.sreg (fSrc2 w)).val 7 0
      let plane := packPlane 32 ((List.range n).map fun i => (v i).val.toNat)
      let f := if fTo w = 0 then fp32 else bf16
      let p := (x.sreg (fSrc2 w)).poison || (List.range n).any fun i => (v i).poison
      ∀ e : Nat → FVal, (∀ i, i < 32 → decodeElem (fFrom w) head plane i = some (e i)) → (mxGrid (fFrom w)).isSome ∨ head % 128 ≠ 127 →
        Ran s c g ((x.setLanes (fDst w) ls fun i => { val := BitVec.ofNat 32 (f.result (e i) false).code, poison := p }).ran
          (flagsOf (ls.map fun i => f.result (e i) false)) (p && !ls.isEmpty)) (p && !ls.isEmpty) (exec (.cvDec c g w) s))

/-! ### Control flow -/

/-- R174: mask.push pushes M and narrows it, mask.else and mask.pop use the top of the stack; a push onto 16 entries raises
MASK_OVERFLOW, an else or pop on an empty stack MASK_UNDERFLOW. Completes: maskPush, maskElse, maskPop. -/
def Obligations.MaskStack : Prop :=
  ∀ (s : State) (c g : Nat) (w : IWord), s.offers c g [] →
    let x := s.grp c g
    let done := fun (y : Grp) o => ∃ t, o = .next t ∧ { t.grp c g with pc := x.pc } = y ∧
      (x.pc.toNat < 16383 → (t.grp c g).pc = x.pc + 1) ∧ RegistersOnly s t c g false
    ((lowControl w 1 8 && fImm w = 0) = true →
      (x.stack.length < 16 → done { x with stack := x.mask :: x.stack, mask := x.mask &&& x.preg (fSrc1 w) } (exec (.maskPush c g w) s)) ∧
      (16 ≤ x.stack.length → exec (.maskPush c g w) s = .next (s.except c g 0x09 allLanes 0))) ∧
    ((lowControl w 1 1 && fImm w = 0) = true →
      (∀ t r, x.stack = t :: r →
        done { x with mask := t &&& ~~~x.mask } (exec (.maskElse c g w) s) ∧
        done { x with mask := t, stack := r } (exec (.maskPop c g w) s)) ∧
      (x.stack = [] → exec (.maskElse c g w) s = .next (s.except c g 0x0A allLanes 0) ∧
        exec (.maskPop c g w) s = .next (s.except c g 0x0A allLanes 0)))

/-- R175, R218, R202: the jumps and branches. A taken one goes to IMM32[13:0] (jmp.r: to sa) when that lies in the job's stream
and raises FETCH_FAULT when it does not; one not taken goes on; call keeps PC + 1 in sd. A poisoned scalar raises
POISONED_CONTROL. Completes: jmp, brAny, brAll, brNone, brZ, brNz, call, jmpR. Model's choices: log entry 24. -/
def Obligations.Branches : Prop :=
  ∀ (s : State) (c g : Nat) (w : IWord), s.offers c g [] →
    let x := s.grp c g
    let a := x.sreg (fSrc1 w)
    let pk := x.preg (fSrc1 w)
    let n := bf w 13 0
    let go := fun (y : Grp) (pc : Nat) o =>
      (s.inStream c g pc = true → Ran s c g { y with pc := BitVec.ofNat 14 pc } false o) ∧
      (s.inStream c g pc = false → o = .next (s.except c g 0x02 allLanes 0))
    let on := fun (taken : Bool) o => (taken = true → go x n o) ∧ (taken = false → Ran s c g (x.ran 0 false) false o)
    ((lowControl w 1 1 && targetOk w) = true → go x n (exec (.jmp c g w) s)) ∧
    ((lowControl w 1 8 && targetOk w) = true →
      on (x.mask &&& pk ≠ 0) (exec (.brAny c g w) s) ∧ on (x.mask &&& ~~~pk = 0) (exec (.brAll c g w) s) ∧
      on (x.mask &&& pk = 0) (exec (.brNone c g w) s)) ∧
    ((lowControl w 1 32 && targetOk w) = true →
      (a.poison = false → on (a.val = 0) (exec (.brZ c g w) s) ∧ on (a.val ≠ 0) (exec (.brNz c g w) s)) ∧
      (a.poison = true → exec (.brZ c g w) s = .next (s.except c g 0x0E allLanes 0) ∧
        exec (.brNz c g w) s = .next (s.except c g 0x0E allLanes 0))) ∧
    ((lowControl w 32 1 && targetOk w) = true →
      go (x.setSreg (fDst w) { val := BitVec.ofNat 64 (x.pc.toNat + 1), poison := false }) n (exec (.call c g w) s)) ∧
    ((lowControl w 1 32 && fImm w = 0) = true →
      (a.poison = false → go x a.val.toNat (exec (.jmpR c g w) s)) ∧
      (a.poison = true → exec (.jmpR c g w) s = .next (s.except c g 0x0E allLanes 0)))

/-- R230, R198 to R200, R229: end leaves the group ended; commit marks its step; cheap.mark with nothing outstanding goes on, or
stops the group after it when a pre-emption is pending for its point, and with something outstanding raises CHEAP_POINT.
Completes: endGroup, commit, cheapMark. Model's choices: log entry 24. -/
def Obligations.GroupMarks : Prop :=
  ∀ (s : State) (c g : Nat) (w : IWord), s.offers c g [] →
    let x := s.grp c g
    ((lowControl w 1 1 && fImm w = 0) = true →
      (∃ t, exec (.endGroup c g w) s = .next t ∧ t.grp c g = { x with run := .ended } ∧ t.store = s.store ∧ t.hbm = s.hbm) ∧
      Ran s c g ({ x with committed := true }.ran 0 false) false (exec (.commit c g w) s)) ∧
    ((lowControl w 1 1 && bf w 31 16 = 0) = true →
      (s.busyAtCheap c g = true → exec (.cheapMark c g w) s = .next (s.except c g 0x0D allLanes 0)) ∧
      (s.busyAtCheap c g = false → ∀ j b, x.job = some j → s.job j = some b →
        (b.pendCheap ≠ some (bf w 15 0) → Ran s c g (x.ran 0 false) false (exec (.cheapMark c g w) s)) ∧
        (b.pendCheap = some (bf w 15 0) → ∃ t, exec (.cheapMark c g w) s = .next t ∧
          t.grp c g = { x with run := .stopped (bf w 15 0), pc := x.pc + 1 } ∧ t.store = s.store)))

/-! ### Core store, gathers and scatters -/

/-- R186, R202, R222, R223: the loads. With every active lane's address aligned, inside the 512 KiB and not poisoned, the
sectors clean and no drain to wait for, each active lane takes its element, little-endian, extended as SX says (ld.cq8: the
bfloat16 widened); all else stays, memory too. A misaligned or outside address raises STORE_ADDRESS for those lanes. Completes:
ldW, ldCq8. Model's choices: log entries 24, 25 and 26. -/
def Obligations.CoreStoreLoads : Prop :=
  ∀ (s : State) (c g : Nat) (w : IWord), s.offers c g [fSrc2 w, fDst w] →
    let x := s.grp c g
    let ls := lanesOf (x.active (fGuard w))
    let k := 4 * 2 ^ bf w 38 37
    let cq8 := fun i => ((x.sreg (fSrc1 w)).val + fOffset w +
      BitVec.ofNat 64 (i / k * (512 * k) + bf (x.vlane (fSrc2 w) i).val 7 0 * (2 * k) + 2 * (i % k))).toNat
    let load := fun (addr : Nat → Nat) (bad : Nat → Bool) (n : Nat) (v : Nat → Word32) o =>
      ((∀ i ∈ ls, bad i = false ∧ addr i % n = 0 ∧ addr i + n ≤ 2 ^ 19 ∧ s.cleanSector c (addr i)) →
        s.drainPending c g (ls.map fun i => (addr i, n)) = false →
        Ran s c g ((x.setLanes (fDst w) ls fun i => { val := v i, poison := false }).ran 0 false) false o) ∧
      ((∃ i ∈ ls, bad i = false ∧ (addr i % n ≠ 0 ∨ 2 ^ 19 < addr i + n)) → ∃ a, o = .next (s.except c g 0x07
        (maskOf (ls.filter fun i => !bad i && (addr i % n ≠ 0 || decide (2 ^ 19 < addr i + n)))) a)) ∧
      ((∀ i ∈ ls, bad i = false → addr i % n = 0 ∧ addr i + n ≤ 2 ^ 19) → (∃ i ∈ ls, bad i = true) →
        o = .next (s.except c g 0x0E (maskOf (ls.filter bad)) 0))
    ((lowM w (decide (bf w 40 39 = 1)) && bf w 40 39 ≠ 3 && bf w 38 37 ≠ 3) = true →
      let n := 2 ^ bf w 38 37
      let v := fun i => fromLe (s.storeBytes c (x.laneOffset w i) n)
      load (x.laneOffset w) (x.laneOffsetPoison w) n
        (fun i => if bit w 36 then BitVec.ofInt 32 (signed (8 * n) (v i)) else BitVec.ofNat 32 (v i)) (exec (.ldW c g w) s)) ∧
    ((lowM w true && bf w 40 39 = 0 && !bit w 36 && bf w 38 37 ≠ 3) = true →
      load cq8 (fun i => (x.sreg (fSrc1 w)).poison || (x.vlane (fSrc2 w) i).poison) 2
        (fun i => BitVec.ofNat 32 (convertLane (.flt bf16) (.flt fp32) false false (fromLe (s.storeBytes c (cq8 i) 2))).code)
        (exec (.ldCq8 c g w) s))

/-- R186, R222: the store. With every active lane's address aligned, inside the 512 KiB and not poisoned, and the sectors clean,
each lane that stores (of a uniform store the highest; of others all, when their addresses differ) puts its low bytes little-
endian at its address; every other byte of core store, every other memory and every register stays. A misaligned or outside
address raises STORE_ADDRESS for those lanes, and no lane acts. Completes: stW. Model's choices: log entries 24 and 25. -/
def Obligations.CoreStoreStore : Prop :=
  ∀ (s : State) (c g : Nat) (w : IWord), s.offers c g [fSrc2 w, fDst w] →
    (lowM w (decide (bf w 40 39 = 1)) && bf w 40 39 ≠ 3 && bf w 38 37 ≠ 3 && !bit w 36) = true →
    let x := s.grp c g
    let ls := lanesOf (x.active (fGuard w))
    let n := 2 ^ bf w 38 37
    let addr := x.laneOffset w
    let bad := x.laneOffsetPoison w
    let p := ls.any fun i => (x.vlane (fDst w) i).poison
    ((∀ i ∈ ls, bad i = false ∧ addr i % n = 0 ∧ addr i + n ≤ 2 ^ 19 ∧ s.cleanSector c (addr i)) →
      ∃ t, exec (.stW c g w) s = .next t ∧ t.grp c g = x.ran 0 p ∧ StoreOnly s t c g ∧
        (∀ a, (∀ i ∈ ls, a < storeAddr c (addr i) ∨ storeAddr c (addr i) + n ≤ a) →
          NMap.get t.store.cells a 0 = NMap.get s.store.cells a 0) ∧
        (bf w 40 39 = 2 → ∀ i ∈ lastN 1 ls, t.storeBytes c (addr i) n = leBytes n (x.vlane (fDst w) i).val.toNat) ∧
        (bf w 40 39 ≠ 2 → noDup (ls.map addr) = true →
          ∀ i ∈ ls, t.storeBytes c (addr i) n = leBytes n (x.vlane (fDst w) i).val.toNat)) ∧
    ((∃ i ∈ ls, bad i = false ∧ (addr i % n ≠ 0 ∨ 2 ^ 19 < addr i + n)) →
      ∃ a, exec (.stW c g w) s = .next (s.except c g 0x07
        (maskOf (ls.filter fun i => !bad i && (addr i % n ≠ 0 || decide (2 ^ 19 < addr i + n)))) a))

/-- R190, R191, R224, R225, R298: gt, sc and dk.zero with a free slot and every lane's page in the core's cache (writable for sc
and dk.zero, not a protected host page). The lowest free slot holds the operation, its lanes' targets, the destination of a
gather, the data of a scatter, and the tick at which its WCET ends; registers and memories stay. Completes: gtW, scW, dkZero.
Model's choices: log entry 24. -/
def Obligations.GatherIssue : Prop :=
  ∀ (s : State) (c g : Nat) (w : IWord), s.offers c g [fSrc2 w, fDst w] →
    let x := s.grp c g
    let ls := lanesOf (x.active (fGuard w))
    let n := 2 ^ bf w 39 38
    let part := partOf (x.job.getD 0)
    let cached := fun (write : Bool) (va : Nat) => va < 2 ^ 52 ∧ x.unmapped.contains (pageOf va) = false ∧
      ∃ l, s.tlbFind c part va = some l ∧ (write = true → l.writable = true) ∧ ¬(l.kind = 2 ∧ l.prot = true)
    let opened := fun (kind : SlotKind) (due : Nat) (lanes : List LaneReq → Prop) o =>
      ∃ t k, o = .next t ∧ k.kind = kind ∧ k.due = s.grpNow x + due ∧ k.arrived = false ∧ lanes k.lanes ∧
        (kind = .gather → k.reg = fDst w ∧ k.width = n ∧ k.fixed = bit w 40) ∧
        (t.grp c g).slots = NMap.insert x.slots x.freeSlotNumber k ∧
        (t.grp c g).vregs = x.vregs ∧ (t.grp c g).sregs = x.sregs ∧ (t.grp c g).pc = x.pc + 1 ∧
        t.store = s.store ∧ t.deck = s.deck ∧ t.hbm = s.hbm ∧ t.host = s.host
    let targets := fun (lanes : List LaneReq) => ∀ r ∈ lanes, r.va = x.laneVa w r.lane ∧
      ∃ l, s.tlbFind c part r.va = some l ∧ r.target = l.target r.va
    (x.slots.length < 64 → lowG w = true →
      ((∀ i ∈ ls, x.laneVaPoison w i = false ∧ x.laneVa w i % n = 0 ∧ cached false (x.laneVa w i)) →
        opened .gather (fWcet w) (fun lanes => lanes.map (·.lane) = ls ∧ targets lanes) (exec (.gtW c g w) s)) ∧
      (bit w 40 = false → noDup (ls.map (x.laneVa w)) = true →
        (∀ i ∈ ls, x.laneVaPoison w i = false ∧ x.laneVa w i % n = 0 ∧ cached true (x.laneVa w i)) →
        opened .scatter (fWcet w) (fun lanes => lanes.map (·.lane) = ls ∧ targets lanes ∧
          ∀ r ∈ lanes, r.data = (x.vlane (fDst w) r.lane).val) (exec (.scW c g w) s))) ∧
    (x.slots.length < 64 → (plainGroup w && fMod w = 0 && fDst w = 0 && decide (fSrc1 w < 32) && fImm w = 0) = true →
      let a := x.sreg (fSrc1 w)
      a.poison = false → cached true a.val.toNat →
        opened .zero 100 (fun lanes => ∃ r, lanes = [r] ∧ r.va = a.val.toNat / 128 * 128) (exec (.dkZero c g w) s))

/-- R192, R193, R225, R655: what the ends of gathers and scatters write, while the clocks run. A gather that has its data, or whose lanes
lie in host pages that reach it unchanged (R29) in one event for all its sectors, gives each lane its element, at once with REL Elastic and
from its WCET tick with Fixed,
and touches no other register; a scatter to host pages is held until its epoch commits. The slot frees, and posts that waited
for it wait no more. Slots: R190, R193, R194, R225, R298, R652: wherever the lanes lie, a gather with no earlier scatter to its
sectors, a scatter with no earlier access to its sectors, and dk.zero end: the slot frees, and no scalar register changes (a
scatter or dk.zero changes no register at all). Completes: gatherRelease, scatterVisible, dkZeroDone. Model's choices: log entry
31. -/
def Obligations.GatherData : Prop :=
  (∀ (s : State) (c g i : Nat) (k : Slot) (e : Sys2Proof.GatherData), c < 384 → g < 16 → s.clocksStopped = false → (s.grp c g).slot i = some k →
    let x := s.grp c g
    let lane0 : VLane := { val := 0, poison := false }
    let freed := fun (t : State) => (t.grp c g).slots = NMap.erase x.slots i ∧ (∀ p ∈ (t.grp c g).posts, k.id ∉ p.waits) ∧
      (t.grp c g).sregs = x.sregs ∧ t.store = s.store ∧ t.deck = s.deck ∧ t.hbm = s.hbm ∧ t.host = s.host
    let others := fun (t : State) => ∀ q, (∀ r ∈ k.lanes, q ≠ 32 * k.reg + r.lane) →
      NMap.get (t.grp c g).vregs q lane0 = NMap.get x.vregs q lane0
    noDup (k.lanes.map (·.lane)) = true →
    (k.kind = .gather → k.arrived = true → (k.fixed = false ∨ k.due ≤ s.grpNow x) →
      ∃ t, exec (.gatherRelease c g i e) s = .next t ∧ freed t ∧ others t ∧
        ∀ r ∈ k.lanes, (t.grp c g).vlane k.reg r.lane = { val := r.data, poison := r.poison }) ∧
    (k.kind = .gather → k.arrived = false → x.blocked k = false → k.fixed = false →
      (∀ r ∈ k.lanes, r.target.isHost = true ∧ r.got = false ∧ bit e.lanes r.lane = true) →
      s.crossErr = [] → ∃ t, exec (.gatherRelease c g i e) s = .next t ∧ freed t ∧ others t ∧
        ∀ r ∈ k.lanes, ∀ a, r.target = .host a → a % 32 + k.width ≤ 32 →
          (t.grp c g).vlane k.reg r.lane = { val := BitVec.ofNat 32 (fromLe (s.hostRead a k.width)), poison := false }) ∧
    (k.kind = .scatter → x.blocked k = false → (∀ r ∈ k.lanes, r.target.isHost = true) → ∀ j b, x.job = some j → s.job j = some b →
      ∃ t b', exec (.scatterVisible c g i) s = .next t ∧ freed t ∧ (t.grp c g).vregs = x.vregs ∧ t.job j = some b' ∧
        b'.outs = b.outs ++ k.lanes.filterMap fun r => match r.target with
          | .host a => some (.hostWrite k.epoch a (leBytes k.width r.data.toNat))
          | _ => none)) ∧
  (∀ (s : State) (c g i : Nat) (k : Slot) (e : Sys2Proof.GatherData), c < 384 → g < 16 → s.clocksStopped = false → (s.grp c g).slot i = some k →
    let x := s.grp c g
    let ends := fun (regs : Bool) o => ∃ t, o = .next t ∧ (t.grp c g).slots = NMap.erase x.slots i ∧
      (t.grp c g).sregs = x.sregs ∧ (regs = true → (t.grp c g).vregs = x.vregs)
    (k.kind = .gather → x.blocked k = false → k.fixed = false → (∀ r ∈ k.lanes, r.got = true ∨ bit e.lanes r.lane = true) →
      ends false (exec (.gatherRelease c g i e) s)) ∧
    (k.kind = .scatter → x.blocked k = false → ends true (exec (.scatterVisible c g i) s)) ∧
    (k.kind = .zero → ends true (exec (.dkZeroDone c g i) s)))

/-! ### The matrix array -/

/-- R144, R151, R153, R163 to R167, R226: the array instructions, no split pending. Checked words enter: mx.cfg replaces the
target's configuration (its reserved bits read 0), mx.run and mx.drain join the target's queue behind its entries, mx.split with
no array work changes the mode; a full queue parks the group, and the checks raise their exceptions in the order of their codes.
Completes: mxCfg, mxRun, mxDrain, mxSplit. Model's choices: log entries 24 and 96. -/
def Obligations.ArrayInstructions : Prop :=
  ∀ (s : State) (c g : Nat) (w : IWord), s.offers c g [] → (s.core c).arr.pendSplit = none →
    let x := s.grp c g
    let k := s.core c
    let a := k.arr
    let t := fTarget w
    let v := x.sreg (fSrc1 w)
    let u := x.sreg (fSrc2 w)
    let kept := fun (s' : State) => s'.store = s.store ∧ s'.hbm = s.hbm ∧ (s'.core c).arr.bank = a.bank ∧
      (s'.core c).arr.work = a.work
    ((plainGroup w && fMod w = 0 && regs w 1 32 && fImm w = 0) = true → v.poison = false →
      (cfgOk v.val = true → a.modeOk (cfgTarget v.val) = true → a.ownerOk (cfgTarget v.val) g = true →
        ∃ s', exec (.mxCfg c g w) s = .next s' ∧ s'.grp c g = x.ran 0 false ∧ kept s' ∧
          ∀ n, (s'.core c).arr.cfgOf n = if n = cfgTarget v.val then cfgStored v.val else a.cfgOf n) ∧
      (cfgOk v.val = false → exec (.mxCfg c g w) s = .next (s.except c g 0x03 allLanes 0)) ∧
      (cfgOk v.val = true → a.modeOk (cfgTarget v.val) = false → exec (.mxCfg c g w) s = .next (s.except c g 0x05 allLanes 0)) ∧
      (cfgOk v.val = true → a.modeOk (cfgTarget v.val) = true → a.ownerOk (cfgTarget v.val) g = false →
        exec (.mxCfg c g w) s = .next (s.except c g 0x06 allLanes 0))) ∧
    ((plainGroup w && regs w 1 32 && lowRR w 32 1 && t ≠ 3 && !bit w 36) = true →
      v.poison = false → u.poison = false → cfgOk (a.cfgOf t) = true → a.modeOk t = true → a.ownerOk t g = true →
      let ra := rowsA (a.cfgOf t) (bf v.val 18 0) (bf v.val 50 32)
      let rb := rowsB (a.cfgOf t) t (bf u.val 18 0) (bf u.val 50 32)
      bf v.val 18 0 % 32 = 0 → bf u.val 18 0 % 32 = 0 → (hasScale (cfgFmtA (a.cfgOf t)) = true → bf v.val 50 32 % 32 = 0) →
      (hasScale (cfgFmtB (a.cfgOf t)) = true → bf u.val 50 32 % 32 = 0) → (∀ r ∈ ra ++ rb, r.1 + r.2 ≤ 2 ^ 19) →
        ((a.queue t).length < 4 → ∃ s' r, exec (.mxRun c g w) s = .next s' ∧ s'.grp c g = x.ran 0 false ∧ kept s' ∧
          (s'.core c).arr.queue t = a.queue t ++ [.run r false] ∧ r.group = g ∧ r.cfg = a.cfgOf t ∧
          r.bank = (if bit w 38 then 1 else 0) ∧ r.add = bit w 37 ∧ r.reads t = ra ++ rb) ∧
        (4 ≤ (a.queue t).length → ∃ s', exec (.mxRun c g w) s = .next s' ∧ s'.grp c g = { x with run := .parked .arrayFull })) ∧
    ((plainGroup w && regs w 1 32 && lowRR w 1 1 && t ≠ 3 && bf w 37 36 = 0) = true →
      v.poison = false → a.modeOk t = true → a.ownerOk t g = true → bf v.val 18 0 % 32 = 0 → bf v.val 50 32 % 32 = 0 →
      4 * targetCols t ≤ bf v.val 50 32 → bf v.val 18 0 + 31 * bf v.val 50 32 + 4 * targetCols t ≤ 2 ^ 19 →
      (a.queue t).length < 4 → ∃ s' d, exec (.mxDrain c g w) s = .next s' ∧ s'.grp c g = x.ran 0 false ∧ kept s' ∧
        (s'.core c).arr.queue t = a.queue t ++ [.drain d false] ∧ d.group = g ∧ d.bank = (if bit w 38 then 1 else 0) ∧
        d.base = bf v.val 18 0 ∧ d.stride = bf v.val 50 32) ∧
    ((plainGroup w && regs w 1 1 && modOnly w 0x10 && bf w 7 4 = 0 && bf w 31 12 = 0) = true →
      (bit w 40 = true → (s.grp c (bf w 3 0)).job.isSome = true ∧ (s.grp c (bf w 11 8)).job.isSome = true) → a.queues = [] →
        ∃ s', exec (.mxSplit c g w) s = .next s' ∧ s'.grp c g = x.ran 0 false ∧ (s'.core c).arr.split = bit w 40 ∧
          (s'.core c).arr.own0 = (if bit w 40 then bf w 3 0 else 0) ∧
          (s'.core c).arr.own1 = (if bit w 40 then bf w 11 8 else 0) ∧
          (∀ n, (s'.core c).arr.cfgOf n = Arr.cfgReset) ∧ (s'.core c).arr.bank = a.bank ∧ s'.store = s.store)

/-- R140, R141, R148 to R152, R164, R165, R147: the ends of array work. The first run or drain of a queue starts, in no slip of
its job (R72); a started run leaves its queue and, with no error, gives each cell of its target the closed fold of its products,
or with ADD the bank's value plus that fold, in one FP32 addition with the bank's value on the left, and its poison flag; a
started drain leaves its queue and stores its bank's rows; a pending split takes effect once the queues are empty; a bulk stream
ends. Completes: arrayRunStart, arrayDrainStart, arrayRunEnd, arrayDrainEnd, mxSplitEffect, bulkStreamEnd. Model's choices: log
entry 28. -/
def Obligations.ArrayEvents : Prop :=
  ∀ (s : State) (c t : Nat), c < 384 → t < 3 →
    let k := s.core c
    (s.coreAlive c = true → k.bulk = 0 → ∀ rest,
      (∀ r, k.arr.queue t = .run r false :: rest → s.slipped r.job = false →
        ∃ s', exec (.arrayRunStart c t) s = .next s' ∧
          (s'.core c).arr.queue t = .run { r with mark := s.storeLog.length } true :: rest ∧ s'.store = s.store) ∧
      (∀ d, k.arr.queue t = .drain d false :: rest → s.slipped d.job = false →
        ∃ s', exec (.arrayDrainStart c t) s = .next s' ∧ (s'.core c).arr.queue t = .drain d true :: rest ∧ s'.store = s.store) ∧
      (∀ r, k.arr.queue t = .run r true :: rest →
        ∃ s', exec (.arrayRunEnd c t { mismatches := [], half0 := false, half1 := false }) s = .next s' ∧
          (s'.core c).arr.queue t = rest ∧
          let m := (s.readRun c t r).1
          let ra := operandBlocks m c (cfgFmtA r.cfg) (cfgBlocks r.cfg) 32 r.aBase (32 * bf r.cfg 42 29) r.aScale (32 * bf r.cfg 14 9)
          let rb := operandBlocks m c (cfgFmtB r.cfg) (cfgBlocks r.cfg) (targetCols t) r.bBase (32 * bf r.cfg 28 15) r.bScale
            (32 * bf r.cfg 8 3)
          ∀ i j, i < 32 → targetCol0 t ≤ j → j < targetCol0 t + targetCols t →
            let q := runCell (decide (11 ≤ cfgFmtA r.cfg)) (ra.getD i []) (rb.getD (j - targetCol0 t) [])
            let old := NMap.get k.arr.bank (cellKey r.bank i j) 0
            let poison := q.2 || (r.add && NMap.get k.arr.bankPoison (cellKey r.bank i j) false)
            NMap.get (s'.core c).arr.bankPoison (cellKey r.bank i j) false = poison ∧
              (poison = false → NMap.get (s'.core c).arr.bank (cellKey r.bank i j) 0 =
                if r.add then addW old (closeFold q.1.stack) else closeFold q.1.stack)) ∧
      (∀ d, k.arr.queue t = .drain d true :: rest → 4 * targetCols t ≤ d.stride → d.base % 32 = 0 → d.stride % 32 = 0 →
        d.base + 31 * d.stride + 4 * targetCols t ≤ 2 ^ 19 →
        ∃ s', exec (.arrayDrainEnd c t) s = .next s' ∧ (s'.core c).arr.queue t = rest ∧ s'.hbm = s.hbm ∧
          (∀ i j, i < 32 → j < targetCols t → s'.storeBytes c (d.base + i * d.stride + 4 * j) 4 =
            leBytes 4 (NMap.get k.arr.bank (cellKey d.bank i (targetCol0 t + j)) 0).toNat) ∧
          (∀ a, (∀ i, i < 32 → a < storeAddr c (d.base + i * d.stride) ∨ storeAddr c (d.base + i * d.stride) + 4 * targetCols t ≤ a) →
            NMap.get s'.store.cells a 0 = NMap.get s.store.cells a 0))) ∧
    (∀ p, s.clocksStopped = false → k.arr.pendSplit = some p → k.arr.queues = [] →
      ∃ s', exec (.mxSplitEffect c) s = .next s' ∧ (s'.core c).arr.split = p.split ∧ (s'.core c).arr.pendSplit = none ∧
        (s'.core c).arr.bank = k.arr.bank) ∧
    (∃ s', exec (.bulkStreamEnd c) s = .next s' ∧ s'.core c = { k with bulk := k.bulk - 1 } ∧ s'.store = s.store)

/-! ### Semaphores, ticks and submissions -/

/-- R184, R229, R418 to R421, R656: sem.wait passes when its count is there and no group waits ahead, and else joins the queue's
end and parks; sem.post to a cluster of its partition is entered with the stores and drains that it waits for; its effect adds
its count, which with no group waiting is all that changes; tick.wait parks until STICK reaches its target. Completes: semWait,
semPost, tickWait. Model's choices: log entry 24. -/
def Obligations.Semaphores : Prop :=
  ∀ (s : State) (c g : Nat) (w : IWord), s.offers c g [] →
    let x := s.grp c g
    let j := x.job.getD 0
    let cl := s.idCore j c / 8
    let k := s.cluster cl
    let a := x.sreg (fSrc1 w)
    let n := fSem w
    let cnt := (NMap.get k.sem n 0).toNat
    let q := NMap.get k.semQ n []
    ((lowControl w 1 1 && semOk w) = true →
      (q = [] → fCount w ≤ cnt → ∃ t, exec (.semWait c g w) s = .next t ∧ t.grp c g = x.ran 0 false ∧
        (∀ m, NMap.get (t.cluster cl).sem m 0 = if m = n then BitVec.ofNat 32 (cnt - fCount w) else NMap.get k.sem m 0) ∧
        (t.cluster cl).semQ = k.semQ ∧ t.store = s.store) ∧
      ((q ≠ [] ∨ cnt < fCount w) → ∃ t, exec (.semWait c g w) s = .next t ∧
        t.grp c g = { x with run := .parked (.sem n (fCount w)) } ∧ (t.cluster cl).sem = k.sem ∧
        NMap.get (t.cluster cl).semQ n [] = q ++ [{ core := c, group := g, count := fCount w }] ∧ t.store = s.store)) ∧
    ((lowControl w 1 32 && semOk w) = true →
      (∀ d, a.poison = false → s.postTarget j cl a.val = .own d → ∃ t, exec (.semPost c g w) s = .next t ∧
        t.grp c g = ({ x with posts := x.posts ++
          [{ dev := s.device, cluster := d, sem := n, count := fCount w, waits := s.postWaits c g }] } : Grp).ran 0 false) ∧
      (a.poison = false → s.postTarget j cl a.val = .bad → exec (.semPost c g w) s = .next (s.except c g 0x0B allLanes 0)) ∧
      (a.poison = true → exec (.semPost c g w) s = .next (s.except c g 0x0E allLanes 0))) ∧
    ((lowControl w 1 32) = true → a.poison = false →
      ((a.val + imm64 w).toNat ≤ s.grpNow x → Ran s c g (x.ran 0 false) false (exec (.tickWait c g w) s)) ∧
      (s.grpNow x < (a.val + imm64 w).toNat → ∃ t, exec (.tickWait c g w) s = .next t ∧
        t.grp c g = { x with run := .parked (.tick (a.val + imm64 w)) } ∧ t.store = s.store))

/-- R184, R414, R418, R420, R421: a post with nothing left to wait for takes effect in its own cluster; one for another cluster or
device sets out and is due 6 ticks later; one that takes a count above 2^32 - 1 sets the
end of its job's task, with SEMAPHORE_OVERFLOW, where the job's units work and no end is set yet (R522); a group parked for a
tick goes on past its instruction once STICK has reached the target. Completes: semPostEffect, tickWaitReached. Model's choices:
log entry 24. -/
def Obligations.PostEffects : Prop :=
  ∀ (s : State) (c g i : Nat), c < 384 → g < 16 → s.clocksStopped = false →
    let x := s.grp c g
    (∀ p j, x.posts[i]? = some p → x.job = some j → p.waits = [] → (p.dev ≠ s.device ∨ p.cluster ≠ s.idCore j c / 8) →
      ∃ t, exec (.semPostEffect c g i) s = .next t ∧ (t.grp c g).posts = x.posts.eraseIdx i ∧
        t.postsDue = s.postsDue ++ [
          { due := s.tick + 6, dev := p.dev, cluster := p.cluster, sem := p.sem, count := p.count,
            number := (s.recJob j).1, src := s.device, core := some c }] ∧
        t.clusters = s.clusters ∧ t.store = s.store ∧ t.jobs = s.jobs) ∧
    (∀ p j, x.posts[i]? = some p → x.job = some j → p.waits = [] → p.dev = s.device → p.cluster = s.idCore j c / 8 →
      NMap.get (s.cluster p.cluster).semQ p.sem [] = [] →
      let sum := (NMap.get (s.cluster p.cluster).sem p.sem 0).toNat + p.count
      (sum < 2 ^ 32 → ∃ t, exec (.semPostEffect c g i) s = .next t ∧ (t.grp c g).posts = x.posts.eraseIdx i ∧
        (∀ cl m, NMap.get (t.cluster cl).sem m 0 = if cl = p.cluster ∧ m = p.sem then BitVec.ofNat 32 sum
          else NMap.get (s.cluster cl).sem m 0) ∧ t.store = s.store ∧ t.jobs = s.jobs) ∧
      (2 ^ 32 ≤ sum → ∀ b, s.job j = some b → b.onUnits = true → b.ending = none → ∃ t b', exec (.semPostEffect c g i) s = .next t ∧
        t.job j = some b' ∧ b'.ending.map (·.status) = some Status.semaphoreOverflow)) ∧
    (∀ v, x.run = .parked (.tick v) → v.toNat ≤ s.grpNow x → ∃ t, exec (.tickWaitReached c g) s = .next t ∧
      t.grp c g = { x with run := .running, pc := x.pc + 1 } ∧ t.jobs = s.jobs ∧ t.store = s.store)

/-- R227, R231, R362, R657, R659, R665: dma.enq and emb.sub of a clean, aligned block. The eight words are copied; the
descriptor joins the end of a queue that the job owns and that holds fewer than 64, with JOB and EPOCH filled in; the lookup
joins the end of those that wait for the engine. A full queue parks the group. Completes: dmaEnq, embSub. Model's choices: log
entry 24. -/
def Obligations.Submissions : Prop :=
  ∀ (s : State) (c g : Nat) (w : IWord), s.offers c g [] →
    let x := s.grp c g
    let j := x.job.getD 0
    let sc := s.idCore j c
    let k := s.cluster (sc / 8)
    let a := x.sreg (fSrc1 w)
    let o := a.val.toNat
    let q := bf w 1 0
    let ds := NMap.get k.dma q []
    let ws := (List.range 8).map fun i => BitVec.ofNat 64 (fromLe (s.storeBytes c (o + 8 * i) 8))
    a.poison = false → o % 32 = 0 → o + 64 ≤ 2 ^ 19 → s.drainPending c g [(o, 64)] = false → s.cleanSector c o →
    s.cleanSector c (o + 32) →
    ((lowControl w 1 32 && bf w 31 2 = 0) = true → s.ownsQueue j (sc / 8) q = true → s.descOk (partOf j) ws = true →
      (ds.length < 64 → ∃ t d, exec (.dmaEnq c g w) s = .next t ∧ t.grp c g = x.ran 0 false ∧ t.store = s.store ∧
        NMap.get (t.cluster (sc / 8)).dma q [] = ds ++ [d] ∧ d.accepted = false ∧ d.job = j ∧
        d.words = fillDesc ws (s.grpNumber x) (s.grpEpoch x)) ∧
      (64 ≤ ds.length → ∃ t, exec (.dmaEnq c g w) s = .next t ∧ t.grp c g = { x with run := .parked (.dmaFull (sc / 8) q) } ∧
        t.clusters = s.clusters)) ∧
    ((lowControl w 1 32 && bf w 31 12 = 0) = true → (s.template j (bf w 11 0)).isSome = true →
      let r := fun (u : List Word64) => LookReq.mk (.prog j sc g (bf w 11 0)) (partOf j) u (s.grpEpoch x)
      (∀ y ∈ k.lookWait, y ≠ r []) → k.lookups.length + k.lookWait.length < 8 →
      ∃ t, exec (.embSub c g w) s = .next t ∧ t.grp c g = x.ran 0 false ∧ t.store = s.store ∧
        (t.cluster (sc / 8)).lookWait = k.lookWait ++ [r ws])

/-! ### DMA and lookups -/

/-- R72, R147, R362 to R364, R406, R532, R655: the next descriptor of a queue, its job in no slip, whose ranges its engine can
translate (R20) and that crosses no revision-2 link with a protected page, is accepted with its WCET tick, its EPOCH and PROV
filled in, and held when its destination lies in a host page; one whose source is refused is recorded and ends its task.
Completes: dmaAccept. Model's choices: log entry 30. -/
def Obligations.DmaAcceptance : Prop :=
  ∀ (s : State) (cl q i : Nat) (d : Desc) (b : Job), cl < 48 → q < 4 →
    let ds := NMap.get (s.cluster cl).dma q []
    let src := s.descSrc cl d
    let dst := s.descDst cl d
    let n := s.destLength src dst d.length
    ds[i]? = some d → d.accepted = false → (∀ x ∈ ds.take i, x.accepted = true) → s.clocksStopped = false → s.job d.job = some b → s.slipped d.job = false →
    (s.endServed cl src d.length && s.endServed cl dst n) = true →
    (∀ ls ld, s.endLeaves cl src d.length false = .ok ls → s.endLeaves cl dst n true = .ok ld → s.rev2Refusal (ls ++ ld) = none →
      (ld.any Leaf.isHost = true → d.fixed = false → (NMap.get (s.cluster cl).sem d.sem 0).toNat + 1 < 2 ^ 32) →
      ∃ t d', exec (.dmaAccept cl q i) s = .next t ∧ (NMap.get (t.cluster cl).dma q [])[i]? = some d' ∧ d'.accepted = true ∧
        d'.due = b.now + d.wcet ∧ d'.words = acceptWords d.words b ∧ d'.held = ld.any Leaf.isHost ∧
        (ld.any Leaf.isHost = false → t.jobs = s.jobs) ∧ t.store = s.store ∧ t.hbm = s.hbm) ∧
    (∀ e, s.endLeaves cl src d.length false = .error e →
      exec (.dmaAccept cl q i) s = .next (s.refuseDesc cl q d e.1.cause e.2 0))

/-- R81, R82, R228, R362, R398, R659: an accepted descriptor finishes. To a local destination, or in the frames of the slot
tables to another device, under Elastic release: its queue entry frees and its token raises its semaphore, which with no group
waiting is the count and 1. To a local destination under Fixed release before its WCET tick: its data is kept, with POISON
filled in. Completes: dmaComplete. Model's choices: log entry 30. -/
def Obligations.DmaCompletion : Prop :=
  ∀ (s : State) (cl q i : Nat) (remote : List Byte) (poisoned : Bool) (d : Desc) (b : Job), cl < 48 → q < 4 →
    let ds := NMap.get (s.cluster cl).dma q []
    let src := s.descSrc cl d
    let dst := s.descDst cl d
    let far := (s.under d.leaves).remoteDst dst
    let n := NMap.get (s.cluster cl).sem d.sem 0
    ds[i]? = some d → d.accepted = true → d.held = false → d.moved = false → d.stream = none → s.clocksStopped = false →
    s.job d.job = some b →
    (d.fixed = false → n.toNat + 1 < 2 ^ 32 → (far.isSome = true → d.elastic = false) →
      ∃ t, exec (.dmaComplete cl q i remote poisoned) s = .next t ∧ (∀ x ∈ NMap.get (t.cluster cl).dma q [], x.id ≠ d.id) ∧
        (NMap.get (s.cluster cl).semQ d.sem [] = [] → NMap.get (t.cluster cl).sem d.sem 0 = n + 1)) ∧
    (d.fixed = true → b.now < d.due → far = none → ∃ t d', exec (.dmaComplete cl q i remote poisoned) s = .next t ∧
      (NMap.get (t.cluster cl).dma q [])[i]? = some d' ∧ d'.moved = true ∧
      d'.words = movedWords d.words ((s.under d.leaves).takeFrom (some cl) src dst d.length remote poisoned).1)

/-- R231, R242 to R250, R256, R264: the life of a lookup. The engine takes the first that waits, but for those of jobs that slip
(R72), while it holds fewer than 8 and its sequencer serves its misses (R20); a sort that ends leaves no lookup sorting; a row
from another device is taken for a key that waits for it; a lookup with every row pooled is handed over (Elastic) or kept for
its WCET tick (Fixed). Shards: R256, R660: a row that another device asks for, of a table and index that this device owns,
leaves in its stored format, in the class of its request, and nothing else of the tables changes. Completes: lookupAccept,
lookupSortEnd, lookupRowArrive, lookupComplete, shardRequest. Model's choices: log entry 33. -/
def Obligations.Lookups : Prop :=
  (∀ (s : State) (cl : Nat), cl < 48 → s.clocksStopped = false →
    let k := s.cluster cl
    (∀ r, k.lookWait.find? (fun y => !s.reqSlips y) = some r → r.words ≠ [] → k.lookups.length < 8 →
      s.walkStopped (.emb cl) = false →
      ∃ t l, exec (.lookupAccept cl) s = .next t ∧ (t.cluster cl).lookWait = k.lookWait.erase r ∧
        (t.cluster cl).lookups = k.lookups ++ [l] ∧ l.words = r.words ∧ l.source = r.source ∧ l.phase = .sorting ∧
        t.store = s.store) ∧
    (∀ i l, k.sortingIndex = some i → k.lookups[i]? = some l → l.sortEnd / 11 ≤ s.tick →
      ∃ t, exec (.lookupSortEnd cl) s = .next t ∧ ∀ x ∈ (t.cluster cl).lookups, x.id = l.id → x.phase ≠ .sorting) ∧
    (∀ i l p tb table index row, k.lookups[i]? = some l → l.phase = .pooling → (table, index) ∈ l.todo →
      (∀ y ∈ k.lookups, y.id = l.id → noDup y.todo = true) →
      s.isDefault (table, index) = false → l.arrived (table, index) = none →
      s.pinnedTable (s.lookupPins l) table = some (p, tb) → tb.owns s.device index = false →
      ∃ t, exec (.lookupRowArrive cl i table index (some row)) s = .next t ∧
        ∀ x ∈ (t.cluster cl).lookups, x.id = l.id → (x.arrived (table, index)).isSome = true ∨ (table, index) ∉ x.todo) ∧
    (∀ l, k.lookups.find? (fun (y : Lookup) => decide (y.phase = .pooling)) = some l → l.todo = [] →
      (l.fixed = false → ∃ t, exec (.lookupComplete cl) s = .next t ∧ ∀ x ∈ (t.cluster cl).lookups, x.id ≠ l.id) ∧
      (l.fixed = true → s.lookupNow l < l.due → ∃ t, exec (.lookupComplete cl) s = .next t ∧
        (∀ x ∈ (t.cluster cl).lookups, x.id = l.id → x.phase = .written) ∧ t.store = s.store ∧ t.hbm = s.hbm))) ∧
  (∀ (s : State) (dev table index : Nat) (version : Byte) (ce : Word32) (scheduled : Bool) (tb : Table), s.clocksStopped = false → s.table table = some tb →
    tb.owns s.device index = true → index < tb.rows →
    ∃ t b bad, exec (.shardRequest dev table index ⟨version, ce⟩ scheduled) s = .next t ∧
      t.shardOut = s.shardOut ++ [.row dev table index b bad scheduled] ∧ b.length = tb.rowBytes ∧ t.tables = s.tables ∧
      t.overlay = s.overlay)

/-- R81, R83, R84, R192: the WCET tick of an operation that is done hands it over; of a gather that has not arrived, it hands
over poisoned lanes and frees the slot; of a lookup whose WCET is not 0, it ends the lookup (R264). Completes: wcetTick. Model's
choices: log entry 32. -/
def Obligations.WcetTicks : Prop :=
  (∀ (s : State) (c g i : Nat) (k : Slot), c < 384 → g < 16 → (s.grp c g).slot i = some k → k.kind = .gather →
    k.due ≤ s.grpNow (s.grp c g) → noDup (k.lanes.map (·.lane)) = true →
      ∃ t, exec (.wcetTick (.slot c g i)) s = .next t ∧ (t.grp c g).slots = NMap.erase (s.grp c g).slots i ∧
        (k.arrived = true → ∀ r ∈ k.lanes, (t.grp c g).vlane k.reg r.lane = { val := r.data, poison := r.poison }) ∧
        (k.arrived = false → ∀ r ∈ k.lanes, ((t.grp c g).vlane k.reg r.lane).poison = true)) ∧
  (∀ (s : State) (cl q i : Nat) (d : Desc) (b : Job), cl < 48 → q < 4 → (NMap.get (s.cluster cl).dma q [])[i]? = some d →
    s.job d.job = some b → d.accepted = true → d.held = false → d.moved = true → d.due ≤ b.now →
    (NMap.get (s.cluster cl).sem d.sem 0).toNat + 1 < 2 ^ 32 →
      ∃ t, exec (.wcetTick (.dma cl q i)) s = .next t ∧ ∀ x ∈ NMap.get (t.cluster cl).dma q [], x.id ≠ d.id) ∧
  (∀ (s : State) (cl i : Nat) (l : Lookup), cl < 48 → (s.cluster cl).lookups[i]? = some l → l.wcet ≠ 0 →
    l.due ≤ s.lookupNow l → ∃ t, exec (.wcetTick (.lookup cl i)) s = .next t ∧ ∀ x ∈ (t.cluster cl).lookups, x.id ≠ l.id)

/-! ### Steps, slips and replays -/

/-- R229, R424, R430, R529: at its commit point a job that no report and no stop holds up goes to the next epoch, its schedule
time stays, and its Ceiling is due 6 ticks later; a stop that has fallen due ends the job. Completes: commitPoint. -/
def Obligations.CommitPoints : Prop :=
  ∀ (s : State) (j t : Nat) (b : Job) (img : Image), s.job j = some b → s.jobImage b = some img → closeTick img b.epoch = some t →
    b.inStep = true → b.replayTick = none → t ≤ b.stick →
    (b.stopAt = none → s.dueReport b = none → ∃ s' b', exec (.commitPoint j) s = .next s' ∧ s'.job j = some b' ∧
      b'.epoch = b.epoch + 1 ∧ b'.stick = b.stick ∧ (b'.ceil b.epoch).point = s.tick ∧ (b'.ceil b.epoch).due = some (s.tick + 6)) ∧
    (∀ at_ st, b.stopAt = some (at_, st) → at_ ≤ t → ∃ s', exec (.commitPoint j) s = .next s' ∧ s'.job j = none)

/-- R70, R72, R74, R75, R343 to R346, R445, R446: at a slip point the severity that SLIP_SET fixed gives the slip's length (0
none), and without one the device fails for the job; a slip whose ticks have run down ends; a maintenance window slips every job
on its units that maps its stack. The Ceiling root fixes the severity of the next slip point T_DEPTH ticks before it and starts
anew; another device takes it from SLIP_SET. Completes: slipPoint, slipEnd, replaySlipEnd, maintenanceWindow, slipSetSend,
slipSet. -/
def Obligations.Slips : Prop :=
  (∀ (s : State) (j : Nat) (b : Job) (img : Image), s.job j = some b → s.jobImage b = some img →
    (∀ t v, img.slipPoints[b.slipIdx]? = some t → b.inStep = true → t ≤ b.stick → NMap.get b.slipSets (b.slipIdx % 256) 0 = v →
      (v = 0 → ∃ s' b', exec (.slipPoint j) s = .next s' ∧ s'.job j = some b' ∧ b'.slipIdx = b.slipIdx + 1 ∧ b'.stopAt.isSome = true ∧
        s.device ∈ s'.failedDevs) ∧
      (v = 1 → ∃ s' b', exec (.slipPoint j) s = .next s' ∧ s'.job j = some b' ∧ b'.slipIdx = b.slipIdx + 1 ∧ b'.slips = b.slips) ∧
      (2 ≤ v → v ≤ 5 → b.slips = [] → ∃ s' b', exec (.slipPoint j) s = .next s' ∧ s'.job j = some b' ∧
        b'.slipIdx = b.slipIdx + 1 ∧ b'.slips = [{ kind := .squall, left := 100 * 4 ^ (v - 2) }])) ∧
    (∀ rest, b.slips = { kind := .squall, left := 0 } :: rest → ∃ s' b', exec (.slipEnd j) s = .next s' ∧ s'.job j = some b' ∧
      b'.slips = rest ∧ b'.stick = b.stick) ∧
    (∀ n rest, b.slips = { kind := .maintenance n, left := 0 } :: rest → ∃ s' b', exec (.slipEnd j) s = .next s' ∧
      s'.job j = some b' ∧ b'.slips = rest) ∧
    (∀ g rest, b.slips = { kind := .replay g, left := 0 } :: rest → s.replayArrayBusy j b img = false →
      ∃ s' b', exec (.replaySlipEnd j) s = .next s' ∧ s'.job j = some b' ∧ b'.epoch = g + 1 ∧ b'.slips = rest) ∧
    (∀ i w m, img.windows[i]? = some w → b.inStep = true → b.stick = w.tick →
      b.slips.any (fun x => x.kind = .maintenance w.stack) = false →
      ∃ s', exec (.maintenanceWindow j i m) s = .next s' ∧ (s'.stack w.stack).inWindow = true ∧
        ∀ k ∈ s.heldJobs, ∀ b₂, s.job k = some b₂ → b₂.onUnits = true → s.mapsStack (partOf k) w.stack = true →
          ∃ b₃, s'.job k = some b₃ ∧ ⟨.maintenance w.stack, w.length⟩ ∈ b₃.slips)) ∧
  (∀ (s : State) (j t : Nat) (b : Job) (img : Image), s.job j = some b → s.jobImage b = some img →
    img.slipPoints[b.slipIdx]? = some t → s.isRoot img = true → t ≤ b.stick + s.jobDepth img →
    NMap.get b.slipSets (b.slipIdx % 256) 0 = 0 → ∃ s' b', exec (.slipSetSend j) s = .next s' ∧ s'.job j = some b' ∧
      b'.sevSince = 0 ∧ NMap.get b'.slipSets (b.slipIdx % 256) 0 = b.sevSince + 1) ∧
  (∀ (s : State) (port j : Nat) (t : Word64) (b : Job), port < 16 → s.jobNumbered (BitVec.ofNat 32 (bf t 55 24)) = some j →
    s.job j = some b → ∃ s' b', exec (.slipSet port t) s = .next s' ∧ s'.job j = some b' ∧
      NMap.get b'.slipSets (bf t 23 16) 0 = bf t 15 13 + 1)

/-- R426, R530, R531, R538: a release that has come. One that is neither suspect nor failed commits the next epoch of a job
whose end is not set, where no token boundary closes it: what the job held for it is no longer held; a suspect one is kept for
the replay; a failed one is only marked. Completes: ceilingReleaseApply. -/
def Obligations.Releases : Prop :=
  ∀ (s : State) (j t : Nat) (epoch : Word32) (b : Job) (img : Image), s.job j = some b → s.jobImage b = some img → t ≤ s.tick →
    (b.ceil epoch).applied = false →
    ((b.ceil epoch).release = some (t, false, true) → ∃ s' b', exec (.ceilingReleaseApply j epoch) s = .next s' ∧
      s'.job j = some b' ∧ (b'.ceil epoch).applied = true ∧ b'.nextCommit = b.nextCommit ∧ b'.outs = b.outs) ∧
    ((b.ceil epoch).release = some (t, true, false) → b.rerun = [] →
      ∃ s' b', exec (.ceilingReleaseApply j epoch) s = .next s' ∧ s'.job j = some b' ∧ b'.reported = b.reported ++ [epoch] ∧
        ∀ h ∈ b'.outs, epochGe h.epoch epoch = false) ∧
    ((b.ceil epoch).release = some (t, false, false) → b.nextCommit = epoch → (b.ceil (epoch + 1)).release = none → b.ending = none →
      (img.gen.isSome = true → ∀ st, img.steps[epoch.toNat]? = some st → st.boundary = false) →
      ∃ s' b', exec (.ceilingReleaseApply j epoch) s = .next s' ∧ s'.job j = some b' ∧ b'.nextCommit = epoch + 1 ∧
        ∀ h ∈ b'.outs, h.epoch ≠ epoch)

/-! ### Jobs and slices -/

/-- R71, R170, R172, R417, R602: a job chosen to start whose cores are free, with the clusters that start at tick 0 awake,
begins, a job of several devices at their launch tick and no later: schedule time 0, every group of its streams at its start values
and its entry, its semaphores 0. A device that cannot begin then fails for the job. Completes: jobStart. Model's choices: log
entry 124. -/
def Obligations.JobStarts : Prop :=
  ∀ (s : State) (j : Nat) (b : Job) (img : Image), s.job j = some b → s.jobImage b = some img → b.phase = .starting →
    b.launchTick ≤ s.tick →
    let able := s.coresReady (s.jobFootprint j) && s.awake img
    (s.soleDevice img = false → (able = false ∨ b.launchTick < s.tick) → ∃ s', exec (.jobStart j) s = .next s' ∧
      s.device ∈ s'.failedDevs) ∧
    (able = true → (s.soleDevice img = true ∨ b.launchTick = s.tick) → ∃ s' b', exec (.jobStart j) s = .next s' ∧ s'.job j = some b' ∧ b'.phase = .running ∧ b'.stick = 0 ∧ b'.launchTick = s.tick ∧
      (∀ st ∈ s.streams img, ∀ g ∈ st.groups, ∃ e, s'.grp st.core g = startGrp j e) ∧
      (∀ x ∈ img.sems, NMap.get (s'.cluster x.1).sem x.2 0 = 0))

/-- R57, R71, R230, R516 to R522: the end of a job and of its slices. A job that is idle with every step committed leaves its slot;
one whose end another device tells has its end set for the tick that it names, the earliest standing;
one that overruns has its end set, and leaves its slot at the tick boundary at which the end's schedule tick has come; a quantum
that ends with no waiter starts a new slice, and with one makes a pre-emption pending; a save releases the job's groups; a
restore on one device resumes it where it stopped. Completes: jobComplete, sliceOverrun, quantumExpiry, saveEnd, restoreEnd.
Model's choices: log entries 42, 43, 44 and 102. -/
def Obligations.JobEnds : Prop :=
  ∀ (s : State) (j : Nat) (b : Job) (img : Image), s.job j = some b → s.jobImage b = some img →
    (b.phase = .running → b.ending = none → s.jobIdle j = true → img.steps.length ≤ b.nextCommit.toNat →
      ∃ s', exec (.jobComplete { job := j, peers := [] }) s = .next s' ∧ s'.job j = none) ∧
    (∀ p, ∃ b' e, exec (.jobComplete { job := j, peers := [p] }) s = .next (s.setJob j (some b')) ∧ b'.ending = some e ∧
      b'.phase = b.phase ∧ e.tick = ((b.ending.map (·.tick)).map (min p.tick)).getD p.tick ∧ (∀ c ∈ p.cores, (p.dev, c) ∈ e.far)) ∧
    (s.overrun j b img = true → b.ending = none → ∃ s' b' e, exec (.sliceOverrun j) s = .next s' ∧ s'.job j = some b' ∧
      b'.ending = some e ∧ e.status = Status.sliceOverrun ∧ (s.soleDevice img = true → e.tick = b.stick)) ∧
    (∀ e, b.ending = some e → (b.phase = .running ∨ s.aboutToRun j b = true → e.tick ≤ b.stick) → (s.endDue j).job j = none) ∧
    (b.phase = .running → (s.part (partOf j)).saveUnits ≠ 0 → b.pendCheap = none →
      b.sliceStart + (s.part (partOf j)).quantum ≤ b.stick → (∃ x ∈ s.jobGroups j, (s.grp x.1 x.2).run ≠ .ended) →
      (s.contended j = false → ∃ s' b', exec (.quantumExpiry j) s = .next s' ∧ s'.job j = some b' ∧
        b'.sliceStart = b.sliceStart + (s.part (partOf j)).quantum) ∧
      (∀ c, s.contended j = true → s.soleDevice img = true →
        cheapFrom img (max (b.sliceStart + (s.part (partOf j)).quantum) (b.stick + 2 * s.ceil.diam + 256)) = some c →
        ∃ s' b', exec (.quantumExpiry j) s = .next s' ∧ s'.job j = some b' ∧ b'.pendCheap = some c.index)) ∧
    (∀ n c, b.phase = .saving n → img.cheaps.find? (fun (y : CheapImg) => decide (y.index = n)) = some c →
      let u := (s.streamCores img).foldl (fun s k => s.noteStore k ((c.store.filter fun r => r.1 = k).map (·.2))) s
      ∃ s' b', exec (.saveEnd j) s = .next s' ∧ s'.job j = some b' ∧ (b'.phase = .preempted ∨ b'.phase = .restoring) ∧
        b'.saved = ((u.streamCores img).map fun k => u.liveOf j k c b.epoch) ∧
        ∀ x ∈ s.jobGroups j, (s'.grp x.1 x.2).job = none) ∧
    (b.phase = .restoring → s.coresReady (s.jobFootprint j) = true → s.soleDevice img = true →
      ∃ s' b', exec (.restoreEnd j) s = .next s' ∧ s'.job j = some b' ∧ b'.phase = .running ∧ b'.pendCheap = none ∧
        b'.sliceStart = b'.stick ∧ b'.stick = b.stick)

/-- R203 to R205: taking an exception. DBG_CORE_EXC holds valid, the code, the group, its program counter and the lanes, and the
group stops at the instruction; the end of the task of the group's job is set, with CORE_EXCEPTION; core store and the other
memories stay. Of the exceptions of one cycle, one record at the tick boundary names the core of the lowest unit reference and
group. Model's choices: log entry 35. -/
def Obligations.ExceptionTaken : Prop :=
  (∀ (s : State) (c g code : Nat) (lanes : Word32) (addr j : Nat) (b : Job), (s.grp c g).job = some j → s.job j = some b →
    b.ending = none → code < 256 → g < 16 → let t := s.except c g code lanes addr
      (∃ b' e, t.job j = some b' ∧ b'.ending = some e ∧ e.status = Status.coreException ∧
        e.raised = [(c, g, s.grpEpoch (s.grp c g))]) ∧
      (t.grp c g).run = .excepted ∧ (t.grp c g).pc = (s.grp c g).pc ∧
      bit (t.grp c g).exc 63 = true ∧ bf (t.grp c g).exc 57 50 = code ∧ bf (t.grp c g).exc 49 46 = g ∧
      bf (t.grp c g).exc 45 32 = (s.grp c g).pc.toNat ∧ bf (t.grp c g).exc 31 0 = lanes.toNat ∧
      (t.grp c g).excAddr.toNat = addr % 2 ^ 52 ∧ t.store = s.store) ∧
  (∀ (s : State) (j c g : Nat) (b : Job) (e : Word32) (l : List (Nat × Nat × Word32)), (c, g, e) ∈ l → (∀ y ∈ l, y.2.1 < 16) →
    (∀ y ∈ l, y ≠ (c, g, e) → 16 * c + g < 16 * y.1 + y.2.1) → let t := s.recordRaised j b l
      t.errNumber = s.errNumber + 1 ∧ ∃ r, t.errLog = lastN 1024 (s.errLog ++ [r]) ∧ r.unit = coreRef s.device c ∧
        r.job = b.number ∧ r.syndrome.toNat = (s.grp c g).exc.toNat)

/-! ### Sensors, failures and Ceilings -/

/-- R441 to R443, R445, R447: a sample sets each sensor's reading and severity, and a critical one fails the module for every
job, stops its clusters' clocks and puts its stacks in self-refresh. A window's mean above 1,600 W raises the module's severity,
and below it falls to 0. A severity of 1 or more that stays is noticed again after 2,000 ticks. A notice that arrives counts for
every held job's next SLIP_SET; it goes on through every other port that is up, unless one of at least its severity has left
within 200 ticks. Completes: sensorSample, inputPowerWindow, squall, squallRepeat. -/
def Obligations.SensorsAndNotices : Prop :=
  (∀ (s : State) (readings : List Int), ∃ t, exec (.sensorSample readings) s = .next t ∧
    ∀ i r, i < 16 → readings[i]? = some r → (t.sensor i).reading = r ∧ (t.sensor i).sev = sevNext i (s.sensor i).sev r ∧
      (criticalAt i ≤ r → (s.criticalDone = false → t.failedAll = true) ∧ t.clocksStopped = true ∧
        ∀ n < 12, (t.stack n).selfRefresh = true)) ∧
  (∀ (s : State) (mw : Nat), ∃ t, exec (.inputPowerWindow mw) s = .next t ∧
    (mw ≤ 1600000 → t.powerWindows = 0 ∧ (t.sensor 16).sev = 0) ∧
    (1600000 < mw → t.powerWindows = s.powerWindows + 1 ∧ (t.sensor 16).sev = min (s.powerWindows + 2) 4)) ∧
  (∀ (s : State) (i : Nat) (x : Nat × Nat), i < 17 → (s.sensor i).sev ≠ 0 → (s.sensor i).noticed.getLast? = some x →
    x.2 + 2000 ≤ s.tick → ∃ t, exec (.squallRepeat i) s = .next t ∧ t.notices = satN 32 (s.notices + 1) ∧
      ∀ p < 16, (s.port p).st = .up → squallToken s.device (s.sensor i).sev (sensorSource i) (sensorIndex i) ∈ (t.port p).tokU) ∧
  (∀ (s : State) (port : Nat) (t : Word64), port < 16 → ∃ s', exec (.squall port t) s = .next s' ∧
    (∀ j b, s.job j = some b → ∃ b', s'.job j = some b' ∧ b'.sevSince = max b.sevSince (bf t 45 43)) ∧
    ((∀ x ∈ s.ports, ∀ y ∈ x.2.sqSent, y.1 < bf t 45 43 ∨ y.2 + 200 < s.tick) →
      ∀ p < 16, p ≠ port → (s.port p).st = .up → t ∈ (s'.port p).tokU) ∧
    (∀ x ∈ s.ports, ∀ y ∈ x.2.sqSent, bf t 45 43 ≤ y.1 → s.tick ≤ y.2 + 200 → s'.ports = s.ports))

/-- R20, R62, R394, R429 to R431: failures. A device that a token says has failed joins those known to be, the token goes on
once with its AGE raised by the link's delay, and every job of which the device is a member is to stop; a sequencer that disagrees
stops; a lost reference ends the module's frames, of which the last control frame carries FAILED; a port that loses its control
frames goes down. Completes: failed, sequencerMismatch, clockLoss, controlFrameLost. Model's choices: log entries 36, 82, 106, 115. -/
def Obligations.Failures : Prop :=
  (∀ (s : State) (port : Nat) (t : Word64), port < 16 →
    let age := bf t 37 22 + (s.port port).dCtrl
    let seen := s.failedSeen.contains (bf t 55 46, bf t 45 38, s.tick - age)
    (bf t 55 46 ≠ s.device → seen = false → ∃ s', exec (.failed port t) s = .next s' ∧ bf t 55 46 ∈ s'.failedDevs ∧
      (∀ p < 16, p ≠ port → (s.port p).st = .up → failedToken (bf t 55 46) (bf t 45 38) age ∈ (s'.port p).tokU) ∧
      ∀ j b img, s.job j = some b → s.jobImage b = some img → bf t 55 46 ∈ img.devices → ∃ b', s'.job j = some b' ∧
        b'.stopAt.isSome = true) ∧
    (bf t 55 46 = s.device ∨ seen = true → ∃ s', exec (.failed port t) s = .next s' ∧ s'.failedDevs = s.failedDevs ∧ s'.jobs = s.jobs ∧
      ∀ p, (s'.port p).tokU = (s.port p).tokU)) ∧
  (∀ (s : State) (cl : Nat), cl < 48 → (s.cluster cl).seqStopped = false → ∃ t, exec (.sequencerMismatch cl) s = .next t ∧
    (t.cluster cl).seqStopped = true ∧ ∀ j b, s.job j = some b → (s.jobFootprint j).any (fun x => x.1 / 8 = cl) = true →
      s.device ∈ t.failedDevs ∧ ∃ b', t.job j = some b' ∧ b'.stopAt.isSome = true) ∧
  (∀ (s : State) (outside : Bool), s.framesStopped = false → ∃ t, exec (.clockLoss outside) s = .next t ∧ t.framesStopped = true ∧
    t.clocksStopped = true ∧ t.refLost = true ∧ t.failedAll = true ∧
    ∀ p < 16, (s.port p).st = .up → (t.port p).txCtrl = (s.port p).txCtrl + 1 ∧
      ((s.port p).tokU = [] → failedToken s.device 0x2A 0 ∈ (t.port p).outTokens)) ∧
  (∀ (s : State) (p cause : Nat), p < 16 → (s.port p).st = .up → cause < 3 → ∃ t, exec (.controlFrameLost p cause) s = .next t ∧
    (t.port p).st = .down ∧ (t.port p).ctrlLost = satN 8 ((s.port p).ctrlLost + 1) ∧
    ((s.port p).peerClock = false → ∀ j b, s.job j = some b → j ∈ s.jobsOnPort p →
      s.device ∈ t.failedDevs ∧ ∃ b', t.job j = some b' ∧ b'.stopAt.isSome = true))

/-- R415, R416, R424 to R426, R431, R538: a child's arrival is combined, passed on by a device that does not hold the job, and at the
root the last one makes the release, but at a failed root; a device without a unit of the job counts itself arrived. A release goes
down the tree with REMAIN less the link's delay and holds for the tick it names; the device fails for the job when that tick has
passed. A revocation goes down the tree. Completes: ceilArrive, ceilRelease, revoke. Model's choices: log entry 123. -/
def Obligations.CeilingTokens : Prop :=
  ∀ (s : State) (port : Nat) (t : Word64), port < 16 →
    (s.jobNumbered (BitVec.ofNat 32 (bf t 55 24)) = none → s.ceil.root ≠ s.device → (s.port s.ceil.parent).st = .up →
      ∃ s', exec (.ceilArrive port t) s = .next s' ∧ (s'.port s.ceil.parent).tokS = (s.port s.ceil.parent).tokS ++ [t]) ∧
    (∀ j b img, s.jobNumbered (BitVec.ofNat 32 (bf t 55 24)) = some j → s.job j = some b → s.jobImage b = some img →
      let e := b.epochOfSeq (bf t 23 16)
      let c := b.ceil e
      ∃ s' b', exec (.ceilArrive port t) s = .next s' ∧ s'.job j = some b' ∧ port ∈ (b'.ceil e).arrived ∧
        (b'.ceil e).suspect = (c.suspect || bit t 1) ∧
        (c.own = true ∨ s.streams img = [] → c.sent = false → s.isRoot img = true → s.failedDevs = [] → b.failed = false →
          (∀ p ∈ s.jobKids img, p = port ∨ p ∈ c.arrived) →
          (b'.ceil e).release = some (s.tick + s.jobDepth img, (c.suspect || bit t 1), (c.fail || bit t 0))) ∧
        (c.own = true ∨ s.streams img = [] → c.sent = false → s.isRoot img = false → s.failedDevs = [] → (s.port s.ceil.parent).st = .up →
          (∀ p ∈ s.jobKids img, p = port ∨ p ∈ c.arrived) → (s'.port s.ceil.parent).tokS = (s.port s.ceil.parent).tokS ++
            [ceilArriveToken b.number e (c.suspect || bit t 1) (c.fail || bit t 0 || b.failed)])) ∧
    (∀ j b img, s.jobNumbered (BitVec.ofNat 32 (bf t 55 24)) = some j → s.job j = some b → s.jobImage b = some img → s.isRoot img = true →
      b.failed = true → let e := b.epochOfSeq (bf t 23 16)
      ∃ s' b', exec (.ceilArrive port t) s = .next s' ∧ s'.job j = some b' ∧ (b'.ceil e).release = (b.ceil e).release) ∧
    (∃ s', exec (.ceilRelease port t) s = .next s' ∧
      ∀ p ∈ s.childPorts, (s.port p).st = .up → (s'.port p).tokS = (s.port p).tokS ++
        [ceilReleaseToken (BitVec.ofNat 32 (bf t 55 24)) (bf t 23 16) (bf t 15 2 - (s.port port).dCtrl) (bit t 1) (bit t 0)]) ∧
    (∀ j b, s.jobNumbered (BitVec.ofNat 32 (bf t 55 24)) = some j → s.job j = some b →
      ((s.port port).dCtrl ≤ bf t 15 2 → ∃ s' b', exec (.ceilRelease port t) s = .next s' ∧ s'.job j = some b' ∧
        (b'.ceil (b.epochOfSeq (bf t 23 16))).release = some (s.tick + (bf t 15 2 - (s.port port).dCtrl), bit t 1, bit t 0)) ∧
      (bf t 15 2 < (s.port port).dCtrl → ∃ s', exec (.ceilRelease port t) s = .next s' ∧ s.device ∈ s'.failedDevs)) ∧
    (∃ s', exec (.revoke port t) s = .next s' ∧
      ∀ p ∈ s.childPorts, (s.port p).st = .up → (s'.port p).tokU = (s.port p).tokU ++ [t])

/-! ### Mode changes -/

/-- R433 to R440: the two phases of a mode change. A request is queued at the root, or goes toward it; a prepare is checked here
and passed on; acknowledgements are combined; a commit names the tick at which the change takes effect; an abort, a timeout and
an outcome end it. A committed change takes effect at its tick: a group is defined or cleared, a flip of a table, a pre-emption
made pending, a job that waits on several devices given its launch tick; a change that can no longer be applied locks the group or
table that it concerns. Completes: mcRequest, mcPrepare, mcAck, mcCommit, mcAbort, mcOutcome, modeChangeTimeout, modeChangeApply.
Model's choices: log entries 45, 101 and 124. -/
def Obligations.ModeChanges : Prop :=
  (∀ (s : State) (port : Nat) (t : Word64) (content : Option McContent), port < 16 →
    (s.ceil.root ≠ s.device → (s.port s.ceil.parent).st = .up → ∃ s', exec (.mcRequest port t content) s = .next s' ∧
      (s'.port s.ceil.parent).tokM = (s.port s.ceil.parent).tokM ++ [t] ∧ s'.mcRoot = s.mcRoot) ∧
    (∀ x rest, s.ceil.root = s.device → s.mcRoot = x :: rest → x.start.isSome = true → s.mcRoot.length < 65 →
      ∃ s', exec (.mcRequest port t content) s = .next s' ∧
        s'.mcRoot = s.mcRoot ++ [{ coord := tokCoord t, change := tokChange t, kind := bf t 29 24, content := content, start := none }]) ∧
    (∀ o, s.ceil.root = s.device → 65 ≤ s.mcRoot.length → tokCoord t ≠ s.device → s.portToward (tokCoord t) 0 = some o →
      ∃ s', exec (.mcRequest port t content) s = .next s' ∧ s'.mcRoot = s.mcRoot ∧
        (s'.port o).tokM = (s.port o).tokM ++ [mcOutcomeToken (tokCoord t) (tokChange t) 3 0 0]) ∧
    (s.ceil.root ≠ s.device → tokCoord t ≠ s.device → s.prepOf (tokCoord t) (tokChange t) = none →
      ∃ s' p, exec (.mcPrepare port t content) s = .next s' ∧ s'.prepOf (tokCoord t) (tokChange t) = some p ∧ p.own = true ∧
        p.content = content ∧ p.commit = none ∧ p.refuse = (match content with
          | some c => s.checkChange false c
          | none => s.lacking (bf t 29 24)).map (fun r => (s.device, r)) ∧
        ∀ q ∈ s.childPorts, (s.port q).st = .up → mcToken 0x09 (tokCoord t) (tokChange t) (bf t 29 24) ∈ (s'.port q).tokM) ∧
    (∀ p, s.ceil.root ≠ s.device → s.prepOf (tokCoord t) (tokChange t) = some p →
      ∃ s' p', exec (.mcAck port t) s = .next s' ∧ s'.prepOf (tokCoord t) (tokChange t) = some p' ∧ port ∈ p'.acks ∧
        p'.refuse = lowest p.refuse (if bit t 29 then some (bf t 28 19, bf t 18 3) else none) ∧
        (p.own = true → p.sentAck = false → (∀ q ∈ s.childPorts, q = port ∨ q ∈ p.acks) → (s.port s.ceil.parent).st = .up →
          mcAckToken (tokCoord t) (tokChange t) p'.refuse ∈ (s'.port s.ceil.parent).tokM)) ∧
    (∃ s', exec (.mcCommit port t) s = .next s' ∧
      (∀ q ∈ s.childPorts, (s.port q).st = .up →
        mcCommitToken (tokCoord t) (tokChange t) (bf t 29 14 - (s.port port).dCtrl) ∈ (s'.port q).tokM) ∧
      (bf t 29 14 < (s.port port).dCtrl → s'.prepOf (tokCoord t) (tokChange t) = none) ∧
      ∀ p c, (s.port port).dCtrl ≤ bf t 29 14 → s.prepOf (tokCoord t) (tokChange t) = some p → p.content = some c →
        ∃ p', s'.prepOf (tokCoord t) (tokChange t) = some p' ∧ p'.commit = some (s.tick + (bf t 29 14 - (s.port port).dCtrl))) ∧
    (∃ s', exec (.mcAbort port t) s = .next s' ∧ s'.prepOf (tokCoord t) (tokChange t) = none ∧
      ∀ q ∈ s.childPorts, (s.port q).st = .up → mcAbortToken (tokCoord t) (tokChange t) ∈ (s'.port q).tokM) ∧
    (∀ o, tokCoord t ≠ s.device → s.portToward (tokCoord t) 0 = some o → ∃ s', exec (.mcOutcome port t) s = .next s' ∧
      (s'.port o).tokM = (s.port o).tokM ++ [mcOutcomeToken (tokCoord t) (tokChange t) (bf t 29 28) (bf t 27 18)
        (if bf t 29 28 = 0 then bf t 17 2 - (s.port port).dCtrl else bf t 17 2)]) ∧
    (tokCoord t = s.device → bf t 29 28 = 0 → (∀ p, s.prepOf (tokCoord t) (tokChange t) = some p → p.commit.isSome = true) →
      exec (.mcOutcome port t) s = .next s) ∧
    (∀ p c, tokCoord t = s.device → bf t 29 28 = 0 → s.prepOf (tokCoord t) (tokChange t) = some p → p.commit = none → p.content = some c →
      (s.port port).dCtrl ≤ bf t 17 2 → ∃ s' p', exec (.mcOutcome port t) s = .next s' ∧
        s'.prepOf (tokCoord t) (tokChange t) = some p' ∧ p'.commit = some (s.tick + (bf t 17 2 - (s.port port).dCtrl))) ∧
    (tokCoord t = s.device → bf t 29 28 ≠ 0 → ∃ s', exec (.mcOutcome port t) s = .next s' ∧ s'.coordOf (tokChange t) = none) ∧
    (∀ x rest b, s.mcRoot = x :: rest → x.start = some b → b + 2 * s.ceil.diam + 200 ≤ s.tick →
      ∃ s', exec (.modeChangeTimeout x.coord x.change) s = .next s' ∧ s'.mcRoot = rest ∧ s'.prepOf x.coord x.change = none)) ∧
  (∀ (s : State) (coord change at_ : Nat) (p : McPrep) (c : McContent), s.prepOf coord change = some p → p.commit = some at_ →
    p.content = some c → at_ ≤ s.tick →
    let ok := (s.dropPrep coord change).checkChange true c
    (∀ n home cores depth pf ms, c = .groupInstall n home cores depth pf ms → ok = none →
      home = s.device ∨ cores.any (fun x => x.1 = s.device) = true →
      ∃ t, exec (.modeChangeApply coord change) s = .next t ∧ t.prepOf coord change = none ∧ (t.groupE n).st = .defined ∧
        (t.groupE n).cores = cores ∧ (t.groupE n).home = home ∧ (t.groupE n).depth = depth) ∧
    (∀ n, c = .groupClear n → ok = none → ∃ t, exec (.modeChangeApply coord change) s = .next t ∧ t.groupE n = GroupEntry.reset) ∧
    (∀ q n i j b, c = .preempt q n i → ok = none → s.partJob q n = some (j, b) →
      ∃ t b', exec (.modeChangeApply coord change) s = .next t ∧ t.job j = some b' ∧ b'.pendCheap = some i) ∧
    (∀ q n j b, c = .resume q n → ok = none → s.partJob q n = some (j, b) → b.phase = .reserved →
      ∃ t b', exec (.modeChangeApply coord change) s = .next t ∧ t.job j = some b' ∧ b'.phase = .starting ∧
        b'.launchTick = at_ + launchMargin) ∧
    (∀ n home cores depth pf ms, c = .groupInstall n home cores depth pf ms → ok ≠ none →
      ∃ t, exec (.modeChangeApply coord change) s = .next t ∧ t.prepOf coord change = none ∧ n ∈ t.lockedGroups) ∧
    (∀ n v, c = .flip n v → ok ≠ none →
      ∃ t, exec (.modeChangeApply coord change) s = .next t ∧ n ∈ t.lockedTables ∧ t.tables = s.tables))

/-! ### Ports, frames and service tokens -/

/-- R374 to R383, R391 to R394: a port that is up sends a data frame, stamped with the time and sealed under its keys and its
counter, and a control frame with 16 tokens, when its period has run; a port in bring-up, or one whose keys are spent and the new
ones not agreed, sends control frames alone. At the announced counter value the new keys begin at counter 0. A received frame with at most 16 wrong symbols that opens under the keys
of its phase counts its corrections; another is lost: it is counted, its sender told, and the sector that the slot table expects is
poisoned. A control frame with at most 4 wrong symbols that opens brings its tokens; another takes the port down. Completes:
tickFrameSend, tickFrameReceive. Model's choices: log entries 9, 50, 105 and 107. -/
def Obligations.TickFrames : Prop :=
  (∀ (s : State) (p : Nat), p < 16 →
    (s.framesStopped = true ∨ (s.port p).frameDue s.tick = false ∨ (s.port p).st.talks = false → exec (.tickFrameSend p) s = .next s) ∧
    (s.framesStopped = false → (s.port p).frameDue s.tick = true →
      ((s.port p).st = .up → (s.port p).switchAt = none → (s.port p).txCount < 2 ^ 40 → ∃ t f, exec (.tickFrameSend p) s = .next t ∧
        (t.port p).txCount = (s.port p).txCount + 1 ∧ (t.port p).lastSent = some s.tick ∧ (t.port p).outFrame = some f ∧
        f.timestamp = s.stamp ∧ (t.port p).outTokens.length = 16 ∧ (t.port p).keyPhase = (s.port p).keyPhase ∧
        ∀ y, (s.port p).tx = some y → (t.port p).outWire = dataWord (sealFrame y (s.port p).txCount f)) ∧
      (∀ v y, (s.port p).st = .up → (s.port p).switchAt = some v → (s.port p).txNext = some y → v ≤ (s.port p).txCount →
        ∃ t, exec (.tickFrameSend p) s = .next t ∧ (t.port p).txCount = 1 ∧ (t.port p).keyPhase = !(s.port p).keyPhase ∧
          (t.port p).switchAt = none ∧ (t.port p).tx = some y) ∧
      ((s.port p).st ≠ .up ∨ (s.port p).keysSpent = true → (s.port p).st.talks = true → ∃ t, exec (.tickFrameSend p) s = .next t ∧
        (t.port p).txCtrl = (s.port p).txCtrl + 1 ∧ (t.port p).outTokens.length = 16 ∧ (t.port p).outFrame = (s.port p).outFrame))) ∧
  (∀ (s : State) (p : Nat) (d : Wire), p < 16 → (s.port p).st = .up →
    let ph := bit (BitVec.ofNat 8 (fromLe ((d.message.drop 8).take 1))) 0
    let c := if ph = (s.port p).rxPhase then (s.port p).rxCount else 0
    (∀ y f, wrongSymbols d 1024 ≤ 16 → (s.port p).rxKeys ph = some y → openFrame y c d.message = some f → s.slotNow p true = none →
      bf f.route 10 5 = 0 → bf f.ePos 31 26 = 0 → ∃ t, exec (.tickFrameReceive p d.message d.errors none) s = .next t ∧
        (t.port p).corrected = satN 32 ((s.port p).corrected + wrongSymbols d 1024) ∧ (t.port p).rxCount = c + 1 ∧
        (t.port p).rxPhase = ph ∧ t.store = s.store ∧ t.hbm = s.hbm ∧ t.jobs = s.jobs) ∧
    (16 < wrongSymbols d 1024 → ∃ t, exec (.tickFrameReceive p d.message d.errors none) s = .next t ∧
      (t.port p).uncorrectable = satN 16 ((s.port p).uncorrectable + 1) ∧ (t.port p).lost = (s.port p).lost + 1 ∧
      token 0x19 (((s.port p).arrive none).1 % 2 ^ 56) ∈ (t.port p).tokE) ∧
    (wrongSymbols d 1024 ≤ 16 → ((s.port p).rxKeys ph).bind (fun y => openFrame y c d.message) = none →
      ∃ t, exec (.tickFrameReceive p d.message d.errors none) s = .next t ∧ (t.port p).authFail = satN 8 ((s.port p).authFail + 1)) ∧
    (∀ j b x cr off, s.slotNow p true = some (j, b, x) → x.places = [.store cr off] →
      16 < wrongSymbols d 1024 ∨ ((s.port p).rxKeys ph).bind (fun y => openFrame y c d.message) = none →
      ∃ t, exec (.tickFrameReceive p d.message d.errors none) s = .next t ∧ (t.store.sector (storeAddr cr off / 32)).poison = true) ∧
    (∀ w, 4 < wrongSymbols w 128 → ∃ t, exec (.tickFrameReceive p d.message d.errors (some w)) s = .next t ∧ (t.port p).st = .down ∧
      (t.port p).ctrlLost = satN 8 ((s.port p).ctrlLost + 1)) ∧
    (∀ w y ts, wrongSymbols w 128 ≤ 4 → (s.port p).rxKeys (controlPhase w.message) = some y →
      let n := if controlPhase w.message = (s.port p).rxCtrlPhase then (s.port p).rxCtrl else 0
      openControl y n w.message = some ts → ∃ t, exec (.tickFrameReceive p d.message d.errors (some w)) s = .next t ∧ (t.port p).inTokens = ts ∧
        (t.port p).rxCtrl = n + 1)) ∧
  (∀ (s : State) (p : Nat) (d : Wire) (w : Option Wire), p < 16 → (s.port p).st.talks = false →
    exec (.tickFrameReceive p d.message d.errors w) s = .next s)

/-- R382, R383, R385, R389, R390, R408: a step of bring-up that ends well leads to the next, the last to an up port, and one that
fails is named. After the frames of a key set a port announces new keys. A fragment takes its place in the message; certificates
that are complete are answered with this end's share of the keys; a renewal that is complete ends. An echo request is answered and a
reply kept. A write to the settings of a port that no image uses takes effect. Completes: portBringupDone, keyRenewal, keyFragment,
echo, fabPortConfigWrite. Model's choices: log entries 49 and 105. -/
def Obligations.PortsAndKeys : Prop :=
  ∀ (s : State) (p : Nat), p < 16 →
    (∀ b l isA, (s.port p).st.rising = true → s.fabric.linkAt s.device p = some (l, isA) →
      let step := bringUp (s.port p) l isA (s.idOf (l.far isA).1) (ownChain s.secret s.fwImage) (kemSeed s.secret) b
      (∀ k, step = .ok k → ∃ t, exec (.portBringupDone p b) s = .next t ∧ t.port p = k ∧ k.st.code = (s.port p).st.code + 1) ∧
      (∀ n delay, step = .error (n, delay) → ∃ t, exec (.portBringupDone p b) s = .next t ∧
        (t.port p).st = .failed ∧ (t.port p).failStep = n)) ∧
    ((s.port p).st = .up → (s.port p).switchAt = none → (s.port p).share = none →
      2 ^ (28 + bf (s.port p).cfg 7 4) ≤ (s.port p).txCount → (s.port p).txCount < 2 ^ 40 →
      ∃ t v x, exec (.keyRenewal p) s = .next t ∧ (t.port p).switchAt = some v ∧ (s.port p).txCount < v ∧ v ≤ 2 ^ 40 ∧
        (t.port p).share = some x ∧ x.switch = some v) ∧
    (∀ w, let n := max (s.port p).fragments.length (5 * bf w 55 40 + 5)
      ((s.port p).st ≠ .up ∨ n < 1576 → ∃ t, exec (.keyFragment p w) s = .next t ∧
        ((t.port p).fragments.drop (5 * bf w 55 40)).take 5 = leBytes 5 (bf w 39 0)) ∧
      ((s.port p).st = .keying → (s.port p).share = none → chainBytes ≤ n → ∃ t, exec (.keyFragment p w) s = .next t ∧
        (t.port p).share.isSome = true) ∧
      ((s.port p).st = .up → 1576 ≤ n → ∃ t, exec (.keyFragment p w) s = .next t ∧ (t.port p).share = none ∧
        (t.port p).fragments = [])) ∧
    (∀ w, bit w 55 = true → ∃ t, exec (.echo p w) s = .next t ∧ (t.port p).echoes = (s.port p).echoes ++ [w]) ∧
    (∀ w, bit w 55 = false → ∃ t x, exec (.echo p w) s = .next t ∧ (t.port p).tokE = (s.port p).tokE ++ [x] ∧
      bf x 63 56 = 0x1F ∧ bit x 55 = true) ∧
    (∀ v, s.portUsed p = false → portCfgOk v = true → s.on = true →
      (bit v 0 = false → ∃ t, exec (.fabPortConfigWrite p v) s = .next t ∧ (t.port p).cfg = v &&& portCfgMask ∧ (t.port p).st ≠ .up) ∧
      (bit v 0 = true → (s.port p).st ≠ .up → ∃ t, exec (.fabPortConfigWrite p v) s = .next t ∧
        (t.port p).cfg = v &&& portCfgMask) ∧
      (bit v 0 = true → (s.port p).st = .up → ∃ t, exec (.fabPortConfigWrite p v) s = .next t ∧ t.ports = s.ports)) ∧
    (∀ v, s.portUsed p = true → exec (.fabPortConfigWrite p v) s = .next s)

/-- R367, R392, R397 to R401, R414, R422, R606, R667: the service tokens of the elastic class; a post that came takes effect 6 ticks
later. Completes: credit, frameLost,
frameAccount, mcastTimeout, streamOpen, streamDrop, semPostToken, refuse. Model's choices: log entries 51, 52 and 110. -/
def Obligations.ElasticTokens : Prop :=
  ∀ (s : State) (p : Nat), p < 16 →
    (∀ w, ∃ t, exec (.credit p w) s = .next t ∧ (t.port p).credits = min 4096 ((s.port p).credits + bf w 55 43)) ∧
    (∀ w, (s.port p).st = .up →
      let keys := if bf w 55 0 < (s.port p).txCount % 2 ^ 56 then (s.port p).keysUsed else (s.port p).keysUsed - 1
      let found := (s.port p).sent.find? (fun (y : SentSeg) => decide (y.keys = keys ∧ y.counter % 2 ^ 56 = bf w 55 0))
      ∃ t, exec (.frameLost p w) s = .next t ∧ (t.port p).tokE = (s.port p).tokE ++
        accountTokens (found.getD { keys := keys, counter := bf w 55 0, src := 0, stream := 0, offset := 0, count := 0 })) ∧
    (∀ w0 w1, bf w0 29 24 ≠ 0 → s.quiet = true → ∃ t x, exec (.frameAccount p w0 w1) s = .next t ∧ t.waitSegs = s.waitSegs ++ [x] ∧
      x.port = p ∧ x.src = bf w0 55 46 ∧ x.stream = bf w0 45 30 ∧ x.offset = bf w1 55 30 ∧ x.sectors.length = bf w0 29 24 ∧
      (∀ y ∈ x.sectors, bit y.2 7 = true) ∧ (t.port p).rxHeld = (s.port p).rxHeld + bf w0 29 24 ∧
      (t.port p).lost = (s.port p).lost - 1) ∧
    (∀ w0 w1, bf w0 29 24 = 0 → ∃ t, exec (.frameAccount p w0 w1) s = .next t ∧ t.waitSegs = s.waitSegs ∧
      (t.port p).lost = (s.port p).lost - 1) ∧
    (∀ w0 w1, bf w0 29 24 ≠ 0 → s.quiet = false → (s.port p).st = .up → s.rxStreams = [] → (∀ q, (s.port q).txStreams = []) →
      ∃ t, exec (.frameAccount p w0 w1) s = .next t ∧ (t.port p).tokE = (s.port p).tokE ++ [token 0x18 (bf w0 29 24 * 2 ^ 43)]) ∧
    (∀ src stream x, (s.port p).txStreams.find? (fun (y : TxStream) => decide (y.mcast = true ∧ y.src = some src ∧ y.stream = stream)) = some x →
      (s.port p).credits = 0 → x.sectors ≠ [] → (s.port p).mcastSince + 100 * bf (s.port p).cfg 31 16 ≤ s.tick →
      ∃ t, exec (.mcastTimeout p src stream) s = .next t ∧ t.errNumber = s.errNumber + 1 ∧
        ((s.port p).st = .up → token 0x1C (src * 2 ^ 46 + stream * 2 ^ 30) ∈ (t.port p).tokE) ∧
        (x.via = none → x ∉ (t.port p).txStreams)) ∧
    (∀ w0 w1 w2, bit w0 21 = false → bf w0 55 46 = s.device → ∃ t, exec (.streamOpen p w0 w1 w2) s = .next t ∧
      t.rxStreams = s.rxStreams ++ [{ src := none, stream := bf w0 45 30, port := p, window := bf w0 29 22, base := bf w2 53 20,
                                      length := bf w1 23 0 + bf w2 55 54 * 2 ^ 24, job := BitVec.ofNat 32 (bf w1 55 24),
                                      rel := bit w0 20, seen := 0, admitted := none, refused := false, last := false }]) ∧
    (∀ w0 w1 w2 o, bit w0 21 = false → bf w0 55 46 ≠ s.device → s.portToward (bf w0 55 46) (bf w0 45 30) = some o →
      ∃ t, exec (.streamOpen p w0 w1 w2) s = .next t ∧ (t.port o).tokE = (s.port o).tokE ++ [w0, w1, w2] ∧
        t.rxStreams = s.rxStreams) ∧
    (∀ w0 w1 w2 m, bit w0 21 = true → s.mcastOf (BitVec.ofNat 32 (bf w1 55 24)) (bf w0 55 46) = some m →
      ∃ t, exec (.streamOpen p w0 w1 w2) s = .next t ∧
        t.rxStreams.length = s.rxStreams.length + (if m.here = true then 1 else 0) ∧
        ∀ o ∈ m.ports, o ≠ p → (s.port o).st = .up → w0 ∈ (t.port o).tokE ∧ w1 ∈ (t.port o).tokE ∧ w2 ∈ (t.port o).tokE) ∧
    (∀ w r, s.rxOf p (bf w 55 46) (bf w 45 30) none = some r →
      ∃ t, exec (.streamDrop p w) s = .next t ∧ t.rxStreams.count r + 1 = s.rxStreams.count r) ∧
    (∀ w0 w1, bf w0 55 46 = s.device → ∃ t, exec (.semPostToken p w0 w1) s = .next t ∧ t.clusters = s.clusters ∧
      t.postsDue = s.postsDue ++ [
        { due := s.tick + 6, dev := s.device, cluster := 12 * bf w0 45 44 + bf w0 43 40, sem := bf w0 39 32,
          count := bf w0 31 16, number := BitVec.ofNat 32 (bf w1 45 14), src := bf w1 55 46, core := none }]) ∧
    (∀ y : PostDue, y.dev = s.device →
      let holder := (s.clusterPart y.cluster).bind fun n => s.partJob n y.number
      let sum := (NMap.get (s.cluster y.cluster).sem y.sem 0).toNat + y.count
      (holder.isSome = true → sum < 2 ^ 32 → NMap.get (s.cluster y.cluster).semQ y.sem [] = [] →
        (NMap.get ((s.landPost y).cluster y.cluster).sem y.sem 0).toNat = sum) ∧
      (∀ o, holder = none → y.src ≠ s.device → s.portToward y.src 0 = some o → (s.landPost y).clusters = s.clusters ∧
        ((s.landPost y).port o).tokE = (s.port o).tokE ++ [token 0x1D (y.src * 2 ^ 46 + y.number.toNat * 2 ^ 14 + 2 ^ 6)])) ∧
    (∀ w0 w1 o, bf w0 55 46 ≠ s.device → s.portToward (bf w0 55 46) 0 = some o →
      ∃ t, exec (.semPostToken p w0 w1) s = .next t ∧
        ((t.port o).tokE = (s.port o).tokE ++ [w0, w1] ∨ (t.port o).tokS = (s.port o).tokS ++ [w0, w1])) ∧
    (∀ w j b, bf w 55 46 = s.device → s.jobNumbered (BitVec.ofNat 32 (bf w 45 14)) = some j → s.job j = some b → b.ending = none →
      (b.onUnits = true ∨ (b.active = true ∧ s.spans b = true) → ∃ t b' e, exec (.refuse p w) s = .next t ∧ t.job j = some b' ∧ b'.ending = some e ∧
        e.status = Status.remoteRefused) ∧
      (b.onUnits = false → (b.active = false ∨ s.spans b = false) → ∃ t, exec (.refuse p w) s = .next t ∧ t.job j = none)) ∧
    (∀ w o, bf w 55 46 ≠ s.device → s.portToward (bf w 55 46) 0 = some o →
      ∃ t, exec (.refuse p w) s = .next t ∧ (t.port o).tokE = (s.port o).tokE ++ [w])

/-! ### Translation, power, maintenance and tables in the background -/

/-- R359 to R361, R369, R372: a walk that ends installs the leaf of a mapped page and, in free issue, the groups that wait for it
run on; a page that is not mapped is noted for them. In fixed issue the park ends 200 schedule ticks after the miss. An engine's
acknowledgement is taken off an invalidation, and the last one completes its command; without it for 10,000 ticks the module
fails for every job. A stopped sequencer serves no miss. Completes: translationWalkDone, translationParkExpiry, invalidateAck,
translationTimeout. -/
def Obligations.TranslationEvents : Prop :=
  (∀ (s : State) (c part va : Nat), c < 384 → s.walkStopped (.core c) = false → s.clocksStopped = false → ∀ g, (s.grp c g).missing part va = true →
    (∀ l, s.leafAt part va = some l → l.owner = part → ∃ t, exec (.translationWalkDone (.core c) part va) s = .next t ∧ t.tlbFind c part va = some l ∧
      ((s.core c).fixed = false → (t.grp c g).run = .running ∧ (t.grp c g).pc = (s.grp c g).pc) ∧
      ((s.core c).fixed = true → t.grp c g = s.grp c g)) ∧
    ((∀ l, s.leafAt part va = some l → l.owner ≠ part) → ∃ t, exec (.translationWalkDone (.core c) part va) s = .next t ∧
      pageOf va ∈ (t.grp c g).unmapped ∧ t.tlbs = s.tlbs)) ∧
  (∀ (s : State) (e : Engine) (part va : Nat), s.walkStopped e = true → exec (.translationWalkDone e part va) s = .next s) ∧
  (∀ (s : State) (e : Engine) (part va : Nat) (l : Leaf), (∀ c, e ≠ .core c) → s.walkStopped e = false → (s.clocksStopped = false ∨ Engine.inCluster e = false) → s.leafAt part va = some l →
    l.owner = part → ∃ t, exec (.translationWalkDone e part va) s = .next t ∧ t.tlbFind (Engine.key e) part va = some l) ∧
  (∀ (s : State) (c g part va since : Nat), c < 384 → g < 16 → (s.grp c g).run = .parked (.miss part va since) →
    ((s.core c).fixed = true → since + 200 ≤ s.grpNow (s.grp c g) → ∃ t, exec (.translationParkExpiry c g) s = .next t ∧
      (t.grp c g).run = .running ∧ (t.grp c g).pc = (s.grp c g).pc) ∧
    (s.grpNow (s.grp c g) < since + 200 → exec (.translationParkExpiry c g) s = .next s)) ∧
  (∀ (s : State) (e : Engine) (i : Nat) (v : Inval), s.invals[i]? = some v → e ∈ v.waiting →
    (v.noticed = true → s.engineBusy e v = false → v.waiting.erase e ≠ [] → ∃ t, exec (.invalidateAck e i) s = .next t ∧
      t.invals[i]? = some { v with waiting := v.waiting.erase e }) ∧
    (∀ k, v.noticed = true → s.engineBusy e v = false → v.waiting = [e] → v.cmd = some k → (s.queue k.queue).st = .running →
      (s.queue k.queue).orphans = [] →
      Answers s k (exec (.invalidateAck e i) s) { status := Status.success, count := v.aborted } fun t => t.invals = s.invals.eraseIdx i) ∧
    (v.start + 10000 ≤ s.tick → ∃ t, exec (.translationTimeout e i) s = .next t ∧ t.failedAll = true ∧ s.device ∈ t.failedDevs ∧
      t.invals = s.invals.eraseIdx i))

/-- R20, R322, R550 to R552, R599: a cluster without work gates its clocks and wakes; the batcher's deadline takes the oldest requests;
a field-test segment runs on the core whose turn it is, and the last one's result clears or removes the core. Completes: clusterIdle, clusterWake, batcherDeadline, fieldTestSegment,
fieldTestSegmentEnd. -/
def Obligations.ClustersAndTests : Prop :=
  (∀ (s : State) (cl : Nat), cl < 48 →
    ((s.cluster cl).pwr = .run → s.groupsIdle cl = true → s.enginesIdle cl = true → ∃ t, exec (.clusterIdle cl) s = .next t ∧
      (t.cluster cl).pwr = .idle ∧ t.cores = s.cores ∧ ∀ m, m ≠ cl → t.cluster m = s.cluster m) ∧
    ((s.cluster cl).pwr = .idle → ∃ t, exec (.clusterWake cl) s = .next t ∧ (t.cluster cl).pwr = .run ∧ s.tick + 2 ≤ (t.cluster cl).wakeAt ∧
      t.cores = s.cores ∧ ∀ m, m ≠ cl → t.cluster m = s.cluster m)) ∧
  (∀ (s : State) (p : Nat) (r : BatchReq) (rest : List BatchReq), p < 16 → (s.part p).batchQ = r :: rest → 0 < (s.part p).fill →
    r.accepted + (s.part p).deadline ≤ s.tick → ∃ t, exec (.batcherDeadline p) s = .next t ∧
      (t.part p).batchQ = (r :: rest).drop (s.part p).fill ∧
      (∀ img, s.launchImg p r.cmd = some img → s.soleDevice img = true → s.inTarget (launchUnit r.cmd) img = true →
        s.launchFail p (launchEntry r.cmd) img = none → ∃ j b, t.job j = some b ∧
        b.batch = true ∧ b.number = launchNumber r.cmd ∧ b.origins = ((r :: rest).take (s.part p).fill).map (·.cmd))) ∧
  (∀ (s : State) (c : Nat), c < 384 →
    (s.testing = false → s.nextTest = some c → s.flash.scanOk = true → ∃ t x, exec (.fieldTestSegment c) s = .next t ∧
      (t.core c).test = some x ∧ x.active = true ∧ x.until_ = s.tick + 4000) ∧
    (s.testing = false → s.nextTest = some c → s.flash.scanOk = false → ∃ t, exec (.fieldTestSegment c) s = .next t ∧
      (t.core c).test = none ∧ (t.core c).removed = (s.core c).removed ∧ t.errNumber = s.errNumber + 1) ∧
    (∀ x, (s.core c).test = some x → x.active = true → x.until_ ≤ s.tick →
      (∃ t, exec (.fieldTestSegmentEnd c none) s = .next t ∧ (t.core c).segment = (s.core c).segment + 1 ∧ (t.core c).groups = [] ∧
        (t.core c).busyUntil = s.tick + 125) ∧
      (∀ r, r.passed = true → ∃ t, exec (.fieldTestSegmentEnd c (some r)) s = .next t ∧ (t.core c).test = none ∧
        (t.core c).suspect = false ∧ (t.core c).passed = true ∧ (t.core c).segment = 0 ∧
        ((∀ k ∈ x.cmds, testAction k ≠ 2) → (t.core c).removed = (s.core c).removed)) ∧
      (∀ r, r.passed = false → ∃ t, exec (.fieldTestSegmentEnd c (some r)) s = .next t ∧ (t.core c).removed = true ∧
        c ∈ t.nvm.removed)))

/-- R337 to R340, R344 to R346, R549, R592: the scrubber reads the oldest sector of the correction queue, or the next of its
pass, and rewrites a corrected one; a stack that no job maps is retrained or repaired; a held error record is routed after
10,000 ticks; a staged trace record is written. Completes: scrubAccess, retrainWithoutWindow, errorRecordHoldExpiry,
traceRecordWrite. Model's choices: log entry 94. -/
def Obligations.BackgroundWork : Prop :=
  (∀ (s : State) (n spares reports : Nat), n < 12 → (s.stack n).lost = false → (s.stack n).selfRefresh = false → s.quiet = false →
    (∀ i rest, (s.stack n).corrQ = i :: rest → ∃ t, exec (.scrubAccess n ⟨spares, reports⟩) s = .next t ∧ (t.stack n).corrQ = rest ∧
      (t.stack n).scrubAt = (s.stack n).scrubAt) ∧
    ((s.stack n).corrQ = [] → (s.stack n).scrubAt + 1 < 2 ^ 31 → ∃ t, exec (.scrubAccess n ⟨spares, reports⟩) s = .next t ∧
      (t.stack n).scrubAt = (s.stack n).scrubAt + 1 ∧ ((s.hbm.sector (n * 2 ^ 31 + (s.stack n).scrubAt)).corrected = false →
        (s.hbm.sector (n * 2 ^ 31 + (s.stack n).scrubAt)).bad = false → (t.stack n).ondie = satN 16 ((s.stack n).ondie + reports))) ∧
    ((s.stack n).corrQ = [] → (s.stack n).scrubAt + 1 = 2 ^ 31 → ∃ t, exec (.scrubAccess n ⟨spares, reports⟩) s = .next t ∧
      (t.stack n).scrubAt = 0 ∧ (t.stack n).passes = satN 32 ((s.stack n).passes + 1)) ∧
    (∀ i, i = n * 2 ^ 31 + (s.stack n).scrubAt → (s.stack n).corrQ = [] →
      (s.stack n).scrubAt < 2 ^ 31 → spares ≠ 0 → (s.hbm.sector i).corrected = true →
      ∃ t, exec (.scrubAccess n ⟨spares, reports⟩) s = .next t ∧ (t.hbm.sector i).corrected = false ∧
        (t.hbm.sector i).data = (s.hbm.sector i).data)) ∧
  (∀ (s : State) (n : Nat) (m : Maintenance), n < 12 → s.jobsOnStack n = [] → (s.stack n).lost = false →
    (m.drift = true → m.trained = true → ∃ t, exec (.retrainWithoutWindow n m) s = .next t ∧ t.hbmStacks = s.hbmStacks) ∧
    (m.drift = true → m.trained = false → ∃ t, exec (.retrainWithoutWindow n m) s = .next t ∧ (t.stack n).lost = true) ∧
    (∀ r, m.drift = false → (s.stack n).repairs = [r] → ∃ t, exec (.retrainWithoutWindow n m) s = .next t ∧
      r ∉ (t.stack n).repairs ∧ (t.stack n).spares = m.spares)) ∧
  (∀ (s : State) (i t0 : Nat) (r : ErrRec), s.errHold[i]? = some (t0, r) →
    (t0 + 10000 ≤ s.tick → ∃ t, exec (.errorRecordHoldExpiry i) s = .next t ∧ t.errHold = s.errHold.eraseIdx i ∧
      t.errNumber = s.errNumber + 1 ∧ t.errLog.getLast? = some { r with number := s.errNumber }) ∧
    (s.tick < t0 + 10000 → exec (.errorRecordHoldExpiry i) s = .next s)) ∧
  (∀ (s : State) (die p : Nat) (r : BitVec 256) (rest : List (BitVec 256)), die < 6 → p < 16 →
    let x := (s.part p).trace
    x.running = true → x.frozen = false → x.full = false → NMap.get x.staged die [] = r :: rest →
    ∃ t, exec (.traceRecordWrite die p) s = .next t ∧ (t.part p).trace.count = satN 32 (x.count + 1))

/-! ### Queues and registers -/

/-- R451, R460 to R463, R466: a doorbell makes slots available, and one beyond the ring stops the queue; one of a page that is not
live for its function does nothing; a fetched slot that is valid
is accepted, one that is not is fetched again, and after eight more tries 100 ticks apart the queue stops as stale. Completes: sqTail,
slotFetch, slotRefetch. Model's choices: log entries 85, 113 and 116. -/
def Obligations.SubmissionQueues : Prop :=
  ∀ (s : State) (q : Nat), q < 1024 →
    (∀ (v : Word32) (b : Doorbell), b.queue = q → b.fn < 17 → b.fn ≠ 0 → (s.queue q).part + 1 ≠ b.fn →
      exec (.sqTail b v) s = .next s ∧ exec (.cqHead b v) s = .next s) ∧
    (∀ (v : Word32) (b : Doorbell), b.queue = q → b.fn < 17 → (b.fn = 0 ∨ (s.queue q).part + 1 = b.fn) → (s.queue q).st = .running →
      bf v 15 0 ≠ (s.queue q).tail →
      (bf v 15 0 < ringSlots (s.queue q).sq → ∃ t, exec (.sqTail b v) s = .next t ∧
        t.queue q = { s.queue q with tail := bf v 15 0 }) ∧
      (ringSlots (s.queue q).sq ≤ bf v 15 0 → ∃ t, exec (.sqTail b v) s = .next t ∧ (t.queue q).st = .stopped ∧
        (t.queue q).cause = 3 ∧ (t.queue q).done = (s.queue q).done ++ [queueEntry (s.queue q) Status.queueState v.toNat])) ∧
    (∀ (v : Word32) (b : Doorbell), b.queue = q → b.fn < 17 → (b.fn = 0 ∨ (s.queue q).part + 1 = b.fn) → (s.queue q).st = .stopped →
      ∃ t, exec (.sqTail b v) s = .next t ∧
      t.queue q = { s.queue q with tail := bf v 15 0 }) ∧
    (∀ slot x u, s.fetches q = true → s.slotBits q slot = (some x, u) → (s.queue q).refetch = 0 →
      (slotValid (s.queue q) x = true → opcodes.contains (packetOf q x).opcode.toNat = true →
        ∃ t, exec (.slotFetch q slot) s = .next t ∧ (t.queue q).accepted = (s.queue q).accepted ++ [packetOf q x] ∧
          (t.queue q).took = (s.queue q).took ++ [(packetOf q x, s.tick)] ∧
          (t.queue q).expect = (s.queue q).expect + 1 ∧ (t.queue q).head = ((s.queue q).head + 1) % max (ringSlots (s.queue q).sq) 1) ∧
      (slotValid (s.queue q) x = true → opcodes.contains (packetOf q x).opcode.toNat = false → (packetOf q x).gen ≠ 0 →
        (s.queue q).orphans = [] →
        Answers u (packetOf q x) (exec (.slotFetch q slot) s) { status := Status.invalidOpcode } fun t =>
          (t.queue q).expect = (s.queue q).expect + 1) ∧
      (slotValid (s.queue q) x = false → ∃ t, exec (.slotFetch q slot) s = .next t ∧
        t.queue q = { s.queue q with refetch := 1, fetchTick := s.tick })) ∧
    (∀ slot x u, s.fetches q = true → s.slotBits q slot = (some x, u) → (s.queue q).refetch ≠ 0 →
      (s.queue q).fetchTick + 100 ≤ s.tick →
      (slotValid (s.queue q) x = true → opcodes.contains (packetOf q x).opcode.toNat = true →
        ∃ t, exec (.slotRefetch q slot) s = .next t ∧ (t.queue q).accepted = (s.queue q).accepted ++ [packetOf q x] ∧
          (t.queue q).refetch = 0) ∧
      (slotValid (s.queue q) x = false → (s.queue q).refetch < 8 → ∃ t, exec (.slotRefetch q slot) s = .next t ∧
        t.queue q = { s.queue q with refetch := (s.queue q).refetch + 1, fetchTick := s.tick }) ∧
      (slotValid (s.queue q) x = false → 8 ≤ (s.queue q).refetch → ∃ t, exec (.slotRefetch q slot) s = .next t ∧
        (t.queue q).st = .stopped ∧ (t.queue q).cause = 2 ∧
        (t.queue q).done = (s.queue q).done ++ [queueEntry (s.queue q) Status.staleSlot (s.queue q).head])) ∧
    (∀ slot u, s.fetches q = true → s.slotBits q slot = (none, u) → (s.queue q).refetch = 0 →
      ∃ t, exec (.slotFetch q slot) s = .next t ∧ (t.queue q).st = .stopped ∧ (t.queue q).cause = 4)

/-- R457 to R459, R467, R468: the oldest completion that a queue holds is written to its ring, 32 bytes, and its vector
signalled unless NOINT is set, a masked vector pending instead; CQ_HEAD releases slots; an admin queue starts at slot 0 with the sequence number given, and
stops. Completes: completionPost, cqHead, hifAqCtrlEnable, hifAqCtrlDisable. Model's choices: log entries 85 and 129. -/
def Obligations.CompletionQueues : Prop :=
  (∀ (s : State) (q : Nat), q < 1024 →
    (∀ e rest, (s.queue q).done = e :: rest → (s.queue q).st ≠ .absent → ringSlots (s.queue q).cq ≠ 0 → (s.queue q).ringFull = false →
      let f := (s.queue q).fn
      let v := (s.queue q).vector
      let m := s.msixOf f
      (∃ t, exec (.completionPost q) s = .next t ∧ (t.queue q).done = rest ∧
        (t.queue q).cqTail = ((s.queue q).cqTail + 1) % ringSlots (s.queue q).cq ∧
        t.hostRead (ringBase (s.queue q).cq + 32 * (s.queue q).cqTail) 32 = e.bytes (s.queue q).phase q ∧
        (t.queue q).phase = (if (t.queue q).cqTail = 0 then !(s.queue q).phase else (s.queue q).phase) ∧
        (e.noint = true → t.msixOut = s.msixOut)) ∧
      (e.noint = false → v < msixVectors f → m.enable = true → m.functionMask = false → v ∈ m.unmasked →
        ∃ t, exec (.completionPost q) s = .next t ∧ t.msixOut = s.msixOut ++ [(f, v)]) ∧
      (e.noint = false → v < msixVectors f → m.enable = true → m.functionMask = true ∨ v ∉ m.unmasked →
        ∃ t, exec (.completionPost q) s = .next t ∧ t.msixOut = s.msixOut ∧ v ∈ (t.msixOf f).waiting)) ∧
    ((s.queue q).ringFull = true → exec (.completionPost q) s = .next s) ∧
    (∀ (v : Word32) (b : Doorbell), b.queue = q → b.fn < 17 → (b.fn = 0 ∨ (s.queue q).part + 1 = b.fn) → (s.queue q).st ≠ .absent →
      ∃ t, exec (.cqHead b v) s = .next t ∧
      t.queue q = { s.queue q with cqHead := bf v 15 0 })) ∧
  (∀ (s : State) (f : Nat) (v : Word64), f < 17 → s.on = true →
    (bit v 0 = true → (s.recovery = false ∨ f = 0) → ringSlots (s.adminOf f).sq ≠ 0 → ringSlots (s.adminOf f).cq ≠ 0 →
      ∃ t, exec (.hifAqCtrlEnable f v) s = .next t ∧ (t.queue f).st = .running ∧ (t.queue f).head = 0 ∧ (t.queue f).tail = 0 ∧
        (t.queue f).fn = f ∧ (t.queue f).expect.toNat = bf v 63 32 ∧ (t.queue f).vector = bf v 31 21 ∧
        (t.queue f).sq = (s.adminOf f).sq ∧ (t.queue f).cq = (s.adminOf f).cq ∧ bit (t.adminOf f).ctrl 0 = true) ∧
    (bit v 0 = true → ringSlots (s.adminOf f).sq = 0 ∨ ringSlots (s.adminOf f).cq = 0 → exec (.hifAqCtrlEnable f v) s = .next s) ∧
    (bit v 0 = false → (s.queue f).st ≠ .absent → ∃ t, exec (.hifAqCtrlDisable f v) s = .next t ∧ (t.queue f).st = .stopped ∧
      (t.queue f).cause = 1 ∧ (t.queue f).accepted = (s.queue f).accepted ∧ bit (t.adminOf f).ctrl 0 = false))

/-- R13, R65, R454, R455, R565, R566: writes and reads of registers. What a write does not concern stays. Completes:
hifErrRingWrite, hifErrPtrsRead, fabTimestampRead, registerWrite, dbgCoreRegisterRead. -/
def Obligations.RegisterAccesses : Prop :=
  ∀ (s : State), s.on = true →
    (∀ v, log2Ok v = true → bf v 4 0 ≠ 0 → exec (.hifErrRingWrite v) s =
      .next { s with errRing := ringWord v false, errHead := 0, errTail := 0 }) ∧
    (∀ v, bf v 4 0 = 0 → exec (.hifErrRingWrite v) s = .next { s with errRing := ringWord v false }) ∧
    (exec .hifErrPtrsRead s =
      .next ({ s with errDropped := 0 }.answerRead (leBytes 8 (s.errDropped * 2 ^ 48 + s.errTail * 2 ^ 16 + s.errHead)))) ∧
    (∀ f, f < 17 →
      (∃ t, exec (.fabTimestampRead f .full) s = .next t ∧ t.readOut.map (·.bytes) = some (leBytes 8 s.stamp.toNat)) ∧
      (∃ t, exec (.fabTimestampRead f .low) s = .next t ∧ t.readOut.map (·.bytes) = some (leBytes 4 (bf s.stamp 31 0)) ∧
        NMap.get t.tsLatch f none = some (BitVec.ofNat 32 (bf s.stamp 63 32))) ∧
      (∀ x, NMap.get s.tsLatch f none = some x → ∃ t, exec (.fabTimestampRead f .high) s = .next t ∧
        t.readOut.map (·.bytes) = some (leBytes 4 x.toNat) ∧ NMap.get t.tsLatch f none = none)) ∧
    (∀ v, exec (.registerWrite 0 0x18 v) s = .next { s with errRoute := errRouteWord v }) ∧
    (∀ v, exec (.registerWrite 0 0x28 v) s = .next { s with errHead := bf v 15 0 }) ∧
    (∀ v, exec (.registerWrite 0 0 v) s = .next s) ∧
    (∀ v, hbmCtlOk v = true → exec (.registerWrite 0 0x3200 v) s = .next { s with hbmCtl := hbmCtlWord v }) ∧
    (∀ f v, f < 17 → log2Ok v = true → ∃ t, exec (.registerWrite f 0x100 v) s = .next t ∧
      (t.adminOf f).sq = ringWord v true ∧ (t.adminOf f).cq = (s.adminOf f).cq) ∧
    (∀ c g v, c < 384 → g < 16 → ∃ t, exec (.registerWrite 0 (0x10000 + 128 * c + 8 * g) v) s = .next t ∧
      (t.grp c g).flags = (s.grp c g).flags &&& ~~~(BitVec.ofNat 5 (bf v 4 0)) ∧ t.dbgCount = satN 40 (s.dbgCount + 1) ∧
      (∀ c' g', c' ≠ c ∨ g' ≠ g → t.grp c' g' = s.grp c' g')) ∧
    (∀ reg c g, reg < 3 → c < 384 → g < 16 → ∃ t, exec (.dbgCoreRegisterRead 0 reg c g) s = .next t ∧
      t.readOut.map (·.bytes) = some (leBytes 8 (if reg = 0 then (s.grp c g).flags.toNat else if reg = 1 then (s.grp c g).exc.toNat
        else (s.grp c g).excAddr.toNat)) ∧ t.dbgCount = satN 40 (s.dbgCount + 1) ∧ t.cores = s.cores)

/-- R452, R453, R607: BAR2. A read within one sector gives its bytes, with EP set when it is poisoned; a write of a sector or of
a part of a clean one stores its bytes; outside the aperture nothing answers, and in Quiet every access draws a Completer Abort.
Completes: bar2Read, bar2Write. Model's choices: log entries 54, 55 and 57. -/
def Obligations.Bar2Accesses : Prop :=
  ∀ (s : State) (off : Nat), s.on = true →
    let a := s.bar2Addr off
    let x := s.hbm.sector (a / 32)
    (∀ len, s.inBar2 off len = true → s.quiet = false → 1 ≤ len → a % 32 + len ≤ 32 → s.bar2Live (a / 32 * 32) = true →
      ∃ t r, exec (.bar2Read off len) s = .next t ∧ t.readOut = some r ∧ r.ep = x.poison ∧ r.abort = false ∧
        (x.poison = false → r.bytes = (x.data.drop (a % 32)).take len)) ∧
    (∀ len, s.inBar2 off len = true → s.quiet = false → 1 ≤ len → a % 32 + len ≤ 32 → s.bar2Live (a / 32 * 32) = false →
      ∃ t r, exec (.bar2Read off len) s = .next t ∧ t.readOut = some r ∧ r.ep = false ∧ r.bytes = List.replicate len 0 ∧ t.hbm = s.hbm) ∧
    (∀ len, s.inBar2 off len = true → s.quiet = true → ∃ t r, exec (.bar2Read off len) s = .next t ∧ t.readOut = some r ∧
      r.abort = true ∧ t.hbm = s.hbm) ∧
    (∀ len, s.inBar2 off len = false → exec (.bar2Read off len) s = .fault .noMemory) ∧
    (∀ b, s.inBar2 off b.length = true → s.quiet = false → b ≠ [] → a % 32 + b.length ≤ 32 → s.bar2Live a = true →
      (b.length = 32 ∨ (x.poison = false ∧ x.corrected = false)) →
      ∃ t, exec (.bar2Write off b) s = .next t ∧ (t.hbm.sector (a / 32)).poison = false ∧
        (t.hbm.sector (a / 32)).data = x.data.take (a % 32) ++ b ++ x.data.drop (a % 32 + b.length) ∧
        ∀ i, i ≠ a / 32 → t.hbm.sector i = s.hbm.sector i) ∧
    (∀ b, s.inBar2 off b.length = false → exec (.bar2Write off b) s = .fault .noMemory)

/-! ### Host commands -/

/-- R17, R450, R463 to R466, R557, R580, R607, R623, R648: what every command's checks answer, in the order of R466 and then the
module's own conditions. A command refused so completes with that status and changes nothing beside its queue, the trace, the
free values used and, for one of opcode group 0x06, the counts of debug accesses. Model's choices: log entry 1. -/
def Obligations.CommandChecks : Prop :=
  ∀ (s : State) (k : Cmd) (row : OpRow) (unit params : Bool) (body : State → Reply) (st : Nat), k.opcode.toNat = row.op →
    s.on = true → s.mustWait k = false → (s.queue k.queue).st = .running → (s.queue k.queue).orphans = [] →
    (firstFail
      [(decide (k.gen ≠ 0), Status.invalidParameter), (decide (row.gen ≤ k.gen), Status.invalidOpcode),
       (headerOk k row, Status.invalidParameter), (s.functionMay k row && unit, Status.notPermitted),
       (params, Status.invalidParameter)] = some st ∨
      (0 < k.gen ∧ row.gen ≤ k.gen ∧ headerOk k row = true ∧ s.functionMay k row = true ∧ unit = true ∧ params = true ∧
        s.moduleCheck k row = some st)) →
    Answers s k (s.runCmd k row unit params body) { status := st } fun t =>
      t = { s with queues := t.queues, parts := t.parts, fresh := t.fresh, dbgCount := t.dbgCount } ∧
      t.dbgCount = (if k.opcode.toNat / 256 = 6 then satN 40 (s.dbgCount + 1) else s.dbgCount)

/-- R17, R459, R460, R473, R484, R485: NOP, QUEUE_CONTROL and RESYNC. Completes: nop, queueControlCreate, queueControlDestroy,
queueControlStop, queueControlResume, resync. Model's choices: log entries 58 and 129. -/
def Obligations.QueueCommands : Prop :=
  ∀ (s : State) (k : Cmd),
    (s.accepts k { op := 0x0000, gen := 1, fw := false } = true → k.zeroFrom 0 = true →
      Answers s k (exec (.nop k) s) { status := Status.success } fun t =>
        t = { s with queues := t.queues, parts := t.parts, fresh := t.fresh }) ∧
    (s.accepts k { op := 0x0002, gen := 1, fw := false } = true →
      let q := qcQueue k
      (qcAction k = 0 ∨ 5 ≤ qcAction k →
        Answers s k (exec (.queueControlCreate k) s) { status := Status.invalidParameter } fun t =>
          q ≠ k.queue → t.queue q = s.queue q) ∧
      (qcAction k = 1 → (s.cmdFn k = 0 || bf (k.par 3) 3 0 + 1 = s.cmdFn k) = true → qcOk k = true → 17 ≤ q →
        ringOk (k.par 1) true = true → ringOk (k.par 2) false = true → (s.cmdFn k = 0 ∨ bf (k.par 3) 14 4 < 64) →
        ((s.queue q).st = .absent → Answers s k (exec (.queueControlCreate k) s) { status := Status.success } fun t =>
          (t.queue q).st = .running ∧ (t.queue q).fn = s.cmdFn k ∧ (t.queue q).part = bf (k.par 3) 3 0 ∧ (t.queue q).sq = k.par 1 ∧
            (t.queue q).cq = k.par 2 ∧ (t.queue q).head = 0 ∧ (t.queue q).tail = 0 ∧ (t.queue q).expect.toNat = bf (k.par 0) 31 0) ∧
        ((s.queue q).st ≠ .absent → Answers s k (exec (.queueControlCreate k) s) { status := Status.queueState } fun t =>
          q ≠ k.queue → t.queue q = s.queue q)) ∧
      (qcAction k = 2 → qcOk k = true → 17 ≤ q → q ≠ k.queue → s.ownQueue k q = true → (s.queue q).destroying = none →
        ((s.queue q).accepted = [] → (s.queue q).running = [] → (s.queue q).done = [] →
          Answers s k (exec (.queueControlDestroy k) s) { status := Status.success } fun t => (t.queue q).st = .absent) ∧
        ((s.queue q).accepted ≠ [] ∨ (s.queue q).done ≠ [] ∨ (∃ x ∈ (s.queue q).running, x ≠ k) →
          Waits s k (exec (.queueControlDestroy k) s) fun t => (t.queue q).st = .stopped ∧ (t.queue q).destroying = some k)) ∧
      (qcAction k = 3 → qcOk k = true → s.ownQueue k q = true →
        Answers s k (exec (.queueControlStop k) s) { status := Status.success } fun t =>
          (t.queue q).st = .stopped ∧ (t.queue q).cause = 1 ∧ (t.queue q).head = (s.queue q).head) ∧
      (qcAction k = 4 → qcOk k = true → s.ownQueue k q = true → (s.queue q).destroying.isSome = true →
        Answers s k (exec (.queueControlResume k) s) { status := Status.queueState } fun t => (t.queue q).st = (s.queue q).st) ∧
      (qcAction k = 4 → qcOk k = true → s.ownQueue k q = true → (s.queue q).destroying = none → (s.queue q).tail < ringSlots (s.queue q).sq →
        Answers s k (exec (.queueControlResume k) s) { status := Status.success } fun t =>
          (t.queue q).st = .running ∧ (t.queue q).cause = 0 ∧ (t.queue q).head = (s.queue q).head ∧ (t.queue q).tail = (s.queue q).tail)) ∧
    (s.accepts k { op := 0x0001, gen := 1 } = true → k.zeroFrom 0 = true → k.queue < 17 →
      ∃ t l e r, exec (.resync k) s = .next t ∧ (t.queue k.queue).done = (s.queue k.queue).done ++ l ∧ l.head? = some e ∧
        e.recType = 1 ∧ (∀ x ∈ l, x.opcode = k.opcode ∧ x.seq = k.seq ∧ x.status = 0) ∧ l.getLast? = some r ∧ r.more = false ∧
        (∀ x ∈ l.dropLast, x.more = true) ∧ (s.cmdFn k = 0 → t.heldOut = []))

/-- R39 to R53, R503 to R510, R613: PARTITION_CONFIG, PARTITION_RESET, GROUP_SET, GROUP_QUERY and GROUP_CLEAR. A reset waits for jobs
whose units work. Completes: partitionConfig, partitionReset, groupSet, groupQuery, groupClear. Model's choices: log entries 99, 101
and 102. -/
def Obligations.PartitionAndGroupCommands : Prop :=
  ∀ (s : State) (k : Cmd),
    let p := s.cmdPart k
    (s.accepts k { op := 0x0004, gen := 2, pf := true } = true → aligned32 (k.par 0) = true → k.zeroFrom 1 = true →
      let r := s.hostWords (k.par 0).toNat 10
      s.recFits p r = true →
      (recClusters r ≠ 0 → s.partIdle p r = true → Answers s k (exec (.partitionConfig k) s) { status := Status.success } fun t =>
        (t.part p).recWords = r ∧ ∀ q, q ≠ p → (t.part q).recWords = (s.part q).recWords) ∧
      (recClusters r = 0 → s.partIdle p Part.reset.recWords = true →
        Answers s k (exec (.partitionConfig k) s) { status := Status.success } fun t => recClusters (t.part p).recWords = 0) ∧
      (recClusters r ≠ 0 → s.partIdle p r = false → Answers s k (exec (.partitionConfig k) s) { status := Status.partitionBusy }
        fun t => (t.part p).recWords = (s.part p).recWords)) ∧
    (s.accepts k { op := 0x0005, gen := 2, pf := true } = true → k.zeroFrom 0 = true →
      ((∀ j b, partOf j = p → s.job j = some b → b.onUnits = false ∧ (b.active = false ∨ s.spans b = false) ∧ b.ending = none) → ∃ t, exec (.partitionReset k) s = .next t ∧
        (t.queue k.queue).done.getLast? = some (completionOf k { status := Status.success }) ∧
        (∀ j, partOf j = p → t.job j = none) ∧ (t.part p).joins = [] ∧ (t.part p).batchQ = [] ∧ (t.part p).resets = [] ∧
        ∀ c, c / 8 ∈ s.partClusters p → (t.core c).groups = [] ∧ (t.core c).busyUntil = s.tick + 125) ∧
      ((∀ j b, partOf j = p → s.job j = some b → (b.onUnits = true ∨ (b.active = true ∧ s.spans b = true)) ∧ b.ending = none) → (s.partJobs p) ≠ [] → (s.part p).joins = [] →
        (s.part p).batchQ = [] → Waits s k (exec (.partitionReset k) s) fun t => some k ∈ (t.part p).resets ∧
          ∀ j b, partOf j = p → s.job j = some b → ∃ b' e, t.job j = some b' ∧ b'.ending = some e ∧
            e.status = Status.jobAborted)) ∧
    (∀ n, n = bf (k.par 0) 15 0 → n ≠ 0xFFFF →
      (s.accepts k { op := 0x0006, gen := 3, pf := true } = true → bf (k.par 0) 63 42 = 0 → bf (k.par 0) 31 16 = 0 →
        aligned32 (k.par 1) = true → k.zeroFrom 2 = true →
        let ms := (List.range (bf (k.par 0) 41 32 + 1)).map fun i => BitVec.ofNat 32 (fromLe (s.hostRead ((k.par 1).toNat + 4 * i) 4))
        ∀ far,
          (∀ a, s.groupSetFail far n ms = some a → Answers s k (exec (.groupSet ⟨k, far⟩) s) a fun t => t.groups = s.groups) ∧
          (s.groupSetFail far n ms = none → s.lockedGroups.contains n = false →
            ((s.resolved far ms).all (fun x => x.1 = s.device) = true →
              Answers s k (exec (.groupSet ⟨k, far⟩) s) { status := Status.success, result := s.depthOf far ms } fun t =>
                (t.groupE n).st = .defined ∧ (t.groupE n).members = ms ∧ (t.groupE n).cores = s.resolved far ms ∧
                  (t.groupE n).home = s.device ∧ (t.groupE n).depth = s.depthOf far ms) ∧
            ((s.resolved far ms).all (fun x => x.1 = s.device) = false → s.failedDevs.contains s.ceil.root = false →
              (s.ceil.root = s.device → s.mcRoot.length < 65) →
              Waits s k (exec (.groupSet ⟨k, far⟩) s) fun t => (t.groupE n).st = .resolving ∧ t.mcCoord.length = s.mcCoord.length + 1))) ∧
      (s.accepts k { op := 0x0007, gen := 3 } = true → k.topZero 0 16 = true → aligned32 (k.par 1) = true → k.topZero 2 32 = true →
        k.zeroFrom 3 = true → s.lockedGroups.contains n = false → (s.groupE n).st = .defined →
        let b := (s.started k).groupBytes n ++ (if (s.groupE n).home = s.device then (s.groupE n).members.flatMap (fun m => leBytes 4 m.toNat) else [])
        (b.length ≤ (k.par 2).toNat → Answers s k (exec (.groupQuery k) s) { status := Status.success, paths := 1 } fun t =>
          t.hostRead (k.par 1).toNat b.length = b) ∧
        ((k.par 2).toNat < b.length →
          Answers s k (exec (.groupQuery k) s) { status := Status.invalidParameter, result := b.length } fun t => t.host = s.host)) ∧
      (s.accepts k { op := 0x0008, gen := 3, pf := true } = true → k.topZero 0 16 = true → k.zeroFrom 1 = true →
        s.lockedGroups.contains n = false → ∀ far,
        ((s.fabricGroup far n).st ≠ .free → (s.fabricGroup far n).home ≠ s.device →
          Answers s k (exec (.groupClear ⟨k, far⟩) s) { status := Status.notHome, unit := devRef (s.fabricGroup far n).home } fun t =>
            t.groups = s.groups) ∧
        ((s.groupE n).home = s.device → (s.groupE n).st = .defined →
          ((∃ x ∈ s.groups, x.2.st ≠ .free ∧ n ∈ x.2.inner) ∨ (∃ x ∈ far, n ∈ (s.fabricGroup far x.1).inner) →
            Answers s k (exec (.groupClear ⟨k, far⟩) s) { status := Status.groupInUse } fun t => t.groups = s.groups) ∧
          ((∀ x ∈ s.groups, x.2.st = .free ∨ n ∉ x.2.inner) → (∀ x ∈ far, n ∉ (s.fabricGroup far x.1).inner) →
            ((s.started k).outstanding n ≠ 0 →
              Answers s k (exec (.groupClear ⟨k, far⟩) s) { status := Status.groupBusy } fun t => t.groups = s.groups) ∧
            ((s.started k).outstanding n = 0 →
              ((s.groupE n).cores.all (fun x => x.1 = s.device) = true →
                Answers s k (exec (.groupClear ⟨k, far⟩) s) { status := Status.success } fun t => t.groupE n = GroupEntry.reset) ∧
              ((s.groupE n).cores.all (fun x => x.1 = s.device) = false → s.failedDevs.contains s.ceil.root = false →
                (s.ceil.root = s.device → s.mcRoot.length < 65) →
                Waits s k (exec (.groupClear ⟨k, far⟩) s) fun t => t.mcCoord.length = s.mcCoord.length + 1))))))
/-- R279, R287 to R289, R295, R298, R299, R350 to R358, R365, R368, R369, R473: MAP, UNMAP, INVALIDATE_RANGE, WINDOW_SET,
WINDOW_CLEAR, MEM_COPY, ZERO_LINES, DECK_CONFIG, DECK_QUERY and OVERLAY_CONFIG. A page mapped first has its entries in three tables
of the table area, or in two. A copy or a zeroing over whose ranges no notice of an invalidation is on its way is done. Completes: map, unmap, invalidateRange, windowSet, windowClear, memCopy, zeroLines, deckConfig,
deckQuery, overlayConfig. Model's choices: log entries 7, 41, 109 and 112. -/
def Obligations.MappingCommands : Prop :=
  (∀ (s : State) (k : Cmd),
    let p := s.cmdPart k
    let va := (k.par 0).toNat
    let dst := (k.par 1).toNat
    let len := (k.par 2).toNat
    (s.accepts k { op := 0x0100, gen := 1 } = true → k.topZero 0 52 = true → k.topZero 2 21 = true → k.zeroFrom 3 = true →
      let e := k.par 1
      let n := bf (k.par 2) 20 1
      let size := if bit (k.par 2) 0 then 2 ^ 28 else 2 ^ 16
      let a := bf e 51 16 * 65536
      1 ≤ n → va % size = 0 → bit e 63 = true → bit e 58 = true → bf e 53 52 = 0 → bf e 15 0 = 0 → va + n * size ≤ 2 ^ 52 →
      bf e 57 54 = p → a + (n - 1) * size < 2 ^ 52 → (bf e 60 59 = 3 → windowRun a n size = true) →
      (∀ i < n, s.targetOk p (bf e 60 59) (a + i * size) size = true) →
      ((∃ l ∈ s.leaves, l.part = p ∧ l.meets va (n * size) = true) →
        Answers s k (exec (.map k) s) { status := Status.mapExists } fun t => t.leaves = s.leaves) ∧
      ((∀ l ∈ s.leaves, l.part = p → l.meets va (n * size) = false) →
        (32768 < tablesUsed (s.leaves ++ mapLeaves p va n size e) →
          Answers s k (exec (.map k) s) { status := Status.mapTableFull } fun t => t.leaves = s.leaves) ∧
        (tablesUsed (s.leaves ++ mapLeaves p va n size e) ≤ 32768 →
          Answers s k (exec (.map k) s) { status := Status.success } fun t =>
            t.leaves = s.leaves ++ mapLeaves p va n size e ∧ t.tlbs = s.tlbs ∧
            (∀ x, (∀ y ∈ t.ptables, x < tableAt y.place ∨ tableAt (y.place + 1) ≤ x) →
              NMap.get t.hbm.cells x 0 = NMap.get s.hbm.cells x 0) ∧
            (s.ptables = [] → n = 1 →
              let entry := fun (i j : Nat) => fromLe ((List.range 8).map fun b => NMap.get t.hbm.cells (tableAt i + 8 * j + b) 0)
              entry 0 (va / 2 ^ 40) = (nextEntry p (tableAt 1)).toNat ∧
              (size = 2 ^ 28 → entry 1 (va / 2 ^ 28 % 4096) = e.toNat) ∧
              (size = 2 ^ 16 → entry 1 (va / 2 ^ 28 % 4096) = (nextEntry p (tableAt 2)).toNat ∧
                entry 2 (va / 2 ^ 16 % 4096) = e.toNat))))) ∧
    (s.accepts k { op := 0x0101, gen := 1 } = true → rangeOk k = true →
      let hit := fun (l : Leaf) => decide (l.part = p) && l.meets va dst
      ((∃ l ∈ s.leaves, hit l = true ∧ (l.va < va ∨ va + dst < l.va + l.size)) →
        Answers s k (exec (.unmap k) s) { status := Status.invalidParameter } fun t => t.leaves = s.leaves ∧ t.invals = s.invals) ∧
      ((∀ l ∈ s.leaves, hit l = true → va ≤ l.va ∧ l.va + l.size ≤ va + dst) →
        Waits s k (exec (.unmap k) s) fun t => t.leaves = s.leaves.filter (fun l => !hit l) ∧
          ∃ v, t.invals = s.invals ++ [v] ∧
          v.part = p ∧ v.va = va ∧ v.length = dst ∧ v.waiting = s.enginesOf p ∧ v.noticed = false ∧ v.start = s.tick ∧ v.cmd = some k)) ∧
    (s.accepts k { op := 0x0102, gen := 1 } = true → rangeOk k = true →
      Waits s k (exec (.invalidateRange k) s) fun t => t.leaves = s.leaves ∧
        ∃ v, t.invals = s.invals ++ [v] ∧
          v.part = p ∧ v.va = va ∧ v.length = dst ∧ v.waiting = s.enginesOf p ∧ v.noticed = false ∧ v.start = s.tick ∧ v.cmd = some k) ∧
    (s.accepts k { op := 0x0103, gen := 2 } = true → k.topZero 0 8 = true → k.zeroFrom 3 = true → bit (k.par 1) 63 = true →
      bf (k.par 1) 57 52 = 0 → bf (k.par 1) 15 0 = 0 → 1 ≤ len → len ≤ 262144 → bf (k.par 1) 61 58 = p →
      (bit (s.window va).w0 63 = false → (∃ ls, s.translateEngine p (bf (k.par 1) 51 0) (len * 65536) false = .ok ls) →
        Answers s k (exec (.windowSet k) s) { status := Status.success } fun t =>
          (t.window va).w0 = k.par 1 ∧ (t.window va).w1 = k.par 2 ∧ (t.window va).open_ = (s.window va).open_ ∧
            ∀ n, n ≠ va → t.window n = s.window n) ∧
      (bit (s.window va).w0 63 = true → Answers s k (exec (.windowSet k) s) { status := Status.invalidParameter } fun t =>
        t.window va = s.window va)) ∧
    (s.accepts k { op := 0x0104, gen := 2 } = true → k.topZero 0 8 = true → k.zeroFrom 1 = true → bit (s.window va).w0 63 = true →
      bf (s.window va).w0 61 58 = p →
      ((s.window va).open_ = 0 → Answers s k (exec (.windowClear k) s) { status := Status.success } fun t =>
        (t.window va).w0 = 0 ∧ (t.window va).w1 = 0) ∧
      ((s.window va).open_ ≠ 0 → Waits s k (exec (.windowClear k) s) fun t =>
        (t.window va).w0 = 0 ∧ (t.window va).open_ = (s.window va).open_ ∧ t.winClears = s.winClears ++ [(va, k)])) ∧
    (s.accepts k { op := 0x0105, gen := 1, mem := true } = true → k.topZero 0 52 = true → k.topZero 1 52 = true →
      k.topZero 2 40 = true → k.zeroFrom 3 = true → va % 32 = 0 → dst % 32 = 0 → len % 32 = 0 → 32 ≤ len → s.crossErr = [] →
      (∀ c, (s.partClusters p).head? = some c → (s.cluster c).lines = [] ∧ ∀ r < 4, regOn (s.cluster c).deckCfg r = false) →
      (∀ v ∈ s.invals, v.noticed = false → v.part = p → meets va len v.va v.length = false ∧ meets dst len v.va v.length = false) →
      ∀ (ls ld : List Leaf) (a b : Nat), s.translate p va len false = .ok ls → s.translate p dst len true = .ok ld →
      (∀ l ∈ ls ++ ld, l.kind = 0 ∧ l.prot = false) → a % 32 = 0 → b % 32 = 0 →
      (∀ j < len / 32, (∃ l, s.leafAt p (va + 32 * j) = some l ∧ l.target (va + 32 * j) = .hbm (a + 32 * j) ∧ l.kind = 0 ∧ l.prot = false) ∧
        (∃ l, s.leafAt p (dst + 32 * j) = some l ∧ l.target (dst + 32 * j) = .hbm (b + 32 * j) ∧ l.kind = 0 ∧ l.prot = false) ∧
        s.hbm.sector (a / 32 + j) = { data := s.hbm.bytesAt (a / 32 + j), tag := 0 } ∧
        (s.stack (stackOf (a + 32 * j))).lost = false ∧ (s.stack (stackOf (b + 32 * j))).lost = false) →
      Answers s k (exec (.memCopy k) s) { status := Status.success, paths := pathsOf ld } fun t =>
        (∀ j < len / 32, t.hbm.bytesAt (b / 32 + j) = s.hbm.bytesAt (a / 32 + j)) ∧
          ∀ i, i < b / 32 ∨ b / 32 + len / 32 ≤ i → t.hbm.bytesAt i = s.hbm.bytesAt i) ∧
    (s.accepts k { op := 0x0106, gen := 3, mem := true } = true → k.topZero 0 32 = true → k.topZero 1 52 = true → k.topZero 2 29 = true →
      k.zeroFrom 3 = true → (∀ d c, unitOf (k.unitAt 0) ≠ .core d c) → (∀ d, unitOf (k.unitAt 0) ≠ .device d) →
      unitOf (k.unitAt 0) ≠ .reserved → s.unitIn (k.unitAt 0) p (s.cmdFn k) = true → dst % 128 = 0 → len % 128 = 0 → 1 ≤ len →
      len ≤ 2 ^ 28 → ∀ (cores : List (Nat × Nat)) (ls : List Leaf), s.resolve (k.unitAt 0) true = .ok cores →
      s.translateEngine p dst len true = .ok ls → (∀ l ∈ ls, l.kind ≠ 3) →
      (∀ c ∈ cores, (s.cluster (c.2 / 8)).lines = [] ∧ ∀ r < 4, regOn (s.cluster (c.2 / 8)).deckCfg r = false) →
      (∀ v ∈ s.invals, v.noticed = false → v.part = p → meets dst len v.va v.length = false) →
      Answers s k (exec (.zeroLines k) s) { status := Status.success, paths := pathsOf ls } fun t =>
        (∃ c ∈ cores, c.2 < 384) → ∀ i < len / 128, ∀ (l : Leaf) (a : Nat), s.leafAt p (dst + 128 * i) = some l →
          l.target (dst + 128 * i) = .hbm a → (s.stack (stackOf (a / 128 * 128))).lost = false →
          ∀ j < 4, t.hbm.bytesAt (4 * (a / 128) + j) = List.replicate 32 0)) ∧
  (∀ (s : State) (k : Cmd),
    let p := s.cmdPart k
    let u := k.unitAt 0
    (s.accepts k { op := 0x0107, gen := 3, mem := true } = true → s.unitIn u p (s.cmdFn k) = true → k.topZero 0 32 = true →
      aligned32 (k.par 1) = true → k.zeroFrom 2 = true → (∀ d c, unitOf u ≠ .core d c) → (∀ d, unitOf u ≠ .device d) →
      unitOf u ≠ .reserved → ∀ cores, s.resolve u true = .ok cores →
      let cls := clustersHolding (cores.map (·.2))
      let cfg := deckRecord (s.hostWords (k.par 1).toNat 8)
      let fields := ∀ r < 4, bf (cfg.getD (2 * r) 0) 62 60 ≤ 5
      ((¬fields ∨ 32 < s.overlayMib + cacheMib cfg ∨ regionsOk cfg = false) →
        Answers s k (exec (.deckConfig k) s) { status := Status.invalidParameter } fun t => t.clusters = s.clusters) ∧
      (fields → s.overlayMib + cacheMib cfg ≤ 32 → regionsOk cfg = true →
        (∀ cl ∈ cls, s.deckMappedAbove cl (scratchUnder s.overlayMib cfg) = false) →
        (s.partRuns p = true → Answers s k (exec (.deckConfig k) s) { status := Status.partitionBusy } fun t => t.clusters = s.clusters) ∧
        (s.partRuns p = false → Answers s k (exec (.deckConfig k) s) { status := Status.success } fun t =>
          (∀ cl ∈ cls, (t.cluster cl).deckCfg = cfg ∧ (t.cluster cl).tree = []) ∧
            ∀ cl, cl ∉ cls → (t.cluster cl).deckCfg = (s.cluster cl).deckCfg))) ∧
    (s.accepts k { op := 0x0108, gen := 3 } = true → s.unitIn u p (s.cmdFn k) = true → k.topZero 0 32 = true →
      aligned32 (k.par 1) = true → k.zeroFrom 2 = true → ∀ d cl cores, unitOf u = .cluster d cl → s.resolve u true = .ok cores →
      clustersHolding (cores.map (·.2)) = [cl] → (s.cluster cl).deckCfg.length = 8 →
      Answers s k (exec (.deckQuery k) s) { status := Status.success, paths := 1 } fun t =>
        t.hostRead (k.par 1).toNat 64 = wordBytes (s.cluster cl).deckCfg) ∧
    (s.accepts k { op := 0x020C, gen := 3, pf := true, dev := true, mem := true } = true → k.topZero 0 3 = true → k.zeroFrom 1 = true →
      let mib := bf (k.par 0) 2 0
      mib ≠ 7 → (∀ cl < 48, mib + cacheMib (s.cluster cl).deckCfg ≤ 32 ∧ s.deckMappedAbove cl (scratchUnder mib (s.cluster cl).deckCfg) = false) →
      ((s.overlay ≠ [] ∨ ∃ j ∈ s.heldJobs, ∃ b, s.job j = some b ∧ b.active = true) →
        Answers s k (exec (.overlayConfig k) s) { status := Status.partitionBusy } fun t => t.overlayMib = s.overlayMib) ∧
      (s.overlay = [] → (∀ j ∈ s.heldJobs, ∀ b, s.job j = some b → b.active = false) →
        Answers s k (exec (.overlayConfig k) s) { status := Status.success } fun t =>
          t.overlayMib = mib ∧ ∀ cl < 48, (t.cluster cl).tree = [])))

/-- R15, R237, R238, R267, R268, R273, R278, R474, R475, R660, R661: TABLE_CREATE, TABLE_DESTROY, TABLE_QUERY,
TABLE_VERSION_OPEN, TABLE_VERSION_SEAL, TABLE_FLIP and TABLE_RETIRE on a table that is not locked. Completes: tableCreate,
tableDestroy, tableQuery, tableVersionOpen, tableVersionSeal, tableFlip, tableRetire. -/
def Obligations.TableVersions : Prop :=
  ∀ (s : State) (k : Cmd),
    let n := tableOf k
    let a := (k.par 1).toNat
    s.lockedTables.contains n = false →
    (s.accepts k { op := 0x0200, gen := 1, mem := true } = true → k.topZero 0 12 = true → aligned32 (k.par 1) = true → k.zeroFrom 2 = true →
      let w := createWords (s.hostWords a 6)
      let g := fun (i : Nat) => w.getD i 0
      let shards := if bit (g 1) 63 then (List.range (bf (g 1) 56 47 + 1)).map fun i => fromLe (s.hostRead (a + 64 + 2 * i) 2) else []
      ∀ t : Table, t.w0 = g 0 → t.w1 = g 1 → t.w2 = g 2 → t.shards = shards → t.ce = 0 → t.active = 0 → t.flipTick = 0 → t.lastVersion = 0 →
      t.dflt = List.replicate (4 * t.dim) 0 → t.slots = [(0, { VSlot.reset with st := .active, base := bf (g 3) 39 0 })] → t.patchBase = bf (g 4) 39 0 → t.patchRows = bf (g 5) 31 0 →
      descriptorOk (g 0) (g 1) (g 2) = true →
      t.patchRows ≤ 16777216 → (∀ d ∈ shards, d < 1024) → s.slotUsable t (bf (g 3) 39 0) = true → t.patchBase % 65536 = 0 →
      s.rangeUsable t.patchBase (t.patchRows * t.stride) = true →
      (s.table n = none → Answers s k (exec (.tableCreate k) s) { status := Status.success } fun u => u.table n = some t ∧
        ∀ cl ∈ s.ownedClusters, ∀ i < 4 * t.dim, NMap.get u.deck.cells (deckAddr cl t.defaultOff + i) 0 = 0) ∧
      (s.table n ≠ none → Answers s k (exec (.tableCreate k) s) { status := Status.invalidParameter } fun u => u.table n = s.table n)) ∧
    (s.accepts k { op := 0x0202, gen := 1 } = true → k.topZero 0 12 = true → aligned32 (k.par 1) = true → k.topZero 2 32 = true →
      k.zeroFrom 3 = true →
      let b := match s.table n with
        | none => List.replicate 128 0
        | some t => pad32 (wordBytes (s.descriptor n t) ++ t.shards.flatMap fun d => leBytes 2 d)
      (b.length ≤ (k.par 2).toNat → Answers s k (exec (.tableQuery k) s) { status := Status.success, paths := 1 } fun u =>
        u.hostRead a b.length = b) ∧
      ((k.par 2).toNat < b.length → Answers s k (exec (.tableQuery k) s) { status := Status.invalidParameter, result := b.length } fun u =>
        u.host = s.host)) ∧
    ∀ t : Table, s.table n = some t →
      (s.accepts k { op := 0x0201, gen := 1 } = true → k.topZero 0 12 = true → k.zeroFrom 1 = true →
        ((∃ i < 4, (t.slot i).pins ≠ 0 ∨ (t.slot i).st = .flipCommitted) →
          Answers s k (exec (.tableDestroy k) s) { status := Status.versionState } fun u => u.table n = some t) ∧
        ((∀ i < 4, (t.slot i).pins = 0 ∧ (t.slot i).st ≠ .flipCommitted) → (∀ r ∈ s.retires, r.table ≠ n) →
          Answers s k (exec (.tableDestroy k) s) { status := Status.success } fun u =>
            u.table n = none ∧ u.overlay = s.overlay.filter fun o => o.table ≠ n)) ∧
      (s.accepts k { op := 0x0203, gen := 2 } = true → openOk k = true → epochLt t.ce (k.unitAt 2) = false → s.slotUsable t a = true →
        (t.freeSlot = none → Answers s k (exec (.tableVersionOpen k) s) { status := Status.tableVersionsFull } fun u => u.table n = some t) ∧
        ∀ i, t.freeSlot = some i →
          Answers s k (exec (.tableVersionOpen k) s) { status := Status.success, result := i * 256 + (t.lastVersion + 1).toNat } fun u =>
            ∃ t', u.table n = some t' ∧ t'.lastVersion = t.lastVersion + 1 ∧ (t'.slot i).st = .loading ∧ (t'.slot i).base = a ∧
              (t'.slot i).version = t.lastVersion + 1 ∧ (t'.slot i).foldEpoch = k.unitAt 2 ∧ t'.active = t.active ∧
              ∀ x, x ≠ i → t'.slot x = t.slot x) ∧
      (s.accepts k { op := 0x0205, gen := 2 } = true → versionOk k = true → k.zeroFrom 1 = true →
        (t.slotIn (versionOf k) .loading = none →
          Answers s k (exec (.tableVersionSeal k) s) { status := Status.versionState } fun u => u.table n = some t) ∧
        ∀ i, t.slotIn (versionOf k) .loading = some i → (∀ f ∈ s.folds, f.table = n → f.slot ≠ i) →
          Answers s k (exec (.tableVersionSeal k) s) { status := Status.success } fun u =>
            u.table n = some (t.modSlot i fun v => { v with st := .ready })) ∧
      (s.accepts k { op := 0x0206, gen := 1 } = true → versionOk k = true → k.zeroFrom 1 = true →
        (s.notFirst t = true → Answers s k (exec (.tableFlip k) s) { status := Status.notHome, unit := devRef t.first } fun u =>
          u.table n = some t) ∧
        (s.notFirst t = false → t.slotIn (versionOf k) .ready = none →
          Answers s k (exec (.tableFlip k) s) { status := Status.versionState } fun u => u.table n = some t) ∧
        ∀ i, s.notFirst t = false → t.slotIn (versionOf k) .ready = some i →
          (s.spread t = false → t.slotOf (versionOf k) = some i → Answers s k (exec (.tableFlip k) s) { status := Status.success } fun u =>
            ∃ t', u.table n = some t' ∧ t'.active.toNat = versionOf k ∧ t'.flipTick = s.tick ∧ (t'.slot i).st = .active ∧
              t'.activeSlot ≠ none ∧ ∀ x, t.activeSlot = some x → (t'.slot x).st = .draining) ∧
          (s.spread t = true → s.failedDevs.contains s.ceil.root = false → (s.ceil.root = s.device → s.mcRoot.length < 65) →
            Waits s k (exec (.tableFlip k) s) fun u => u.table n = some t ∧ u.mcCoord.length = s.mcCoord.length + 1)) ∧
      (s.accepts k { op := 0x0207, gen := 2 } = true → versionOk k = true → k.zeroFrom 1 = true →
        (t.slotIn (versionOf k) .draining = none →
          Answers s k (exec (.tableRetire k) s) { status := Status.versionState } fun u => u.retires = s.retires) ∧
        ∀ i, t.slotIn (versionOf k) .draining = some i → (∀ r ∈ s.retires, r.table = n → r.slot ≠ i) →
          Waits s k (exec (.tableRetire k) s) fun u => u.table n = some t ∧
            ∃ r, u.retires = s.retires ++ [r] ∧ r.table = n ∧ r.slot = i ∧ r.cmd = k)

/-- R269, R270, R276, R280 to R286, R475: TABLE_WRITE_ROWS, TABLE_PATCH, TABLE_PATCH_COMMIT, TABLE_FOLD, TABLE_DEFAULT_SET from
host memory, and the events that end a retirement and a fold and remove a patch. Completes: tableWriteRows, tablePatch,
tablePatchCommit, tableFold, tableDefaultSet, tableRetireDone, tableFoldEnd, overlayEntryRemove. Model's choices: log entries 88,
89 and 109. -/
def Obligations.TableRows : Prop :=
  (∀ (s : State) (k : Cmd) (t : Table),
    let n := tableOf k
    let p := s.cmdPart k
    s.lockedTables.contains n = false → s.table n = some t →
    (s.accepts k { op := 0x0204, gen := 1, mem := true } = true → versionOk k = true → k.topZero 1 40 = true → k.topZero 2 40 = true →
      k.par 2 ≠ 0 → k.topZero 3 52 = true → k.zeroFrom 4 = true → aligned32 (k.par 3) = true →
      let first := (k.par 1).toNat
      let count := (k.par 2).toNat
      let va := (k.par 3).toNat
      (t.rows < first + count → Answers s k (exec (.tableWriteRows k) s) { status := Status.invalidParameter } fun u => u.hbm = s.hbm) ∧
      (first + count ≤ t.rows → t.slotIn (versionOf k) .loading = none →
        Answers s k (exec (.tableWriteRows k) s) { status := Status.versionState } fun u => u.hbm = s.hbm) ∧
      ∀ i, first + count ≤ t.rows → t.slotIn (versionOf k) .loading = some i →
        (∃ ls, s.translateEngine p va (count * t.stride) false = .ok ls) →
        (∀ v ∈ s.invals, v.noticed = false → v.part = p → meets va (count * t.stride) v.va v.length = false) →
        Answers s k (exec (.tableWriteRows k) s) { status := Status.success, paths := 2 } fun u =>
          u.tables = s.tables ∧ ∀ h, s.crossErr = [] → count = 1 → t.owns s.device first = true → t.rowBytes % 32 = 0 → (t.slot i).base % 32 = 0 →
            (∀ j < t.stride / 32, ∃ l, s.leafAt p (va + 32 * j) = some l ∧ l.target (va + 32 * j) = .host (h + 32 * j) ∧ (h + 32 * j) % 32 = 0) →
            let b := (t.slot i).base + t.localIndex s.device first * t.stride
            (∀ j < t.rowBytes, (s.stack (stackOf (b + j))).lost = false) →
            (∀ j < t.rowBytes, NMap.get u.hbm.cells (b + j) 0 = NMap.get s.host (h + j) 0) ∧
              ∀ x, x < b ∨ b + t.rowBytes ≤ x → NMap.get u.hbm.cells x 0 = NMap.get s.hbm.cells x 0) ∧
    (s.accepts k { op := 0x0208, gen := 3, mem := true } = true → k.topZero 0 12 = true → k.topZero 1 52 = true → aligned32 (k.par 1) = true →
      1 ≤ (k.par 2).toNat → (k.par 2).toNat ≤ 65536 → k.zeroFrom 3 = true → s.crossErr = [] →
      let va := (k.par 1).toNat
      let size := 32 + (t.stride + 31) / 32 * 32
      ∀ h ls, s.translateEngine p va ((k.par 2).toNat * size) false = .ok ls →
      (∀ j < (k.par 2).toNat * size / 32, ∃ l, s.leafAt p (va + 32 * j) = some l ∧ l.target (va + 32 * j) = .host (h + 32 * j) ∧ h % 32 = 0) →
      let ixs := (List.range (k.par 2).toNat).map fun i => fromLe (s.hostRead (h + i * size) 5)
      let mine := ixs.filter (t.owns s.device)
      let fresh := fun (l : List Nat) => (l.eraseDups.filter fun i => !(s.overlay.any fun o => o.table = n && o.index = i && o.tag.isNone)).length
      let new := fresh ixs
      let used := (s.overlay.filter fun o => o.table = n).length
      ((∃ i ∈ ixs, t.rows ≤ i) → Answers s k (exec (.tablePatch k) s) { status := Status.invalidParameter } fun u =>
        u.overlay = s.overlay ∧ u.hbm = s.hbm) ∧
      ((∀ i ∈ ixs, i < t.rows) →
        ((s.overlayRoom < s.overlay.length + new ∨ t.patchRows < used + new) →
          Answers s k (exec (.tablePatch k) s) { status := Status.overlayFull } fun u => u.overlay = s.overlay ∧ u.hbm = s.hbm) ∧
        (s.overlay.length + new ≤ s.overlayRoom → used + new ≤ t.patchRows →
          Answers s k (exec (.tablePatch k) s) { status := Status.success, paths := 2 } fun u =>
            u.overlay.length = s.overlay.length + fresh mine ∧ u.table n = some t ∧
              ∀ i ∈ mine, ∃ o ∈ u.overlay, o.table = n ∧ o.index = i ∧ o.tag = none))) ∧
    (s.accepts k { op := 0x0209, gen := 3 } = true → k.topZero 0 12 = true → k.zeroFrom 1 = true → s.notFirst t = false →
      (s.epochOk n t = false → Answers s k (exec (.tablePatchCommit k) s) { status := Status.epochRange } fun u => u.table n = some t) ∧
      (s.epochOk n t = true → s.spread t = false →
        Answers s k (exec (.tablePatchCommit k) s) { status := Status.success, result := (t.ce + 1).toNat } fun u =>
          (∃ t', u.table n = some t' ∧ t'.ce = t.ce + 1 ∧ t'.active = t.active) ∧
            u.overlay = s.overlay.map fun o => if o.table = n && o.tag.isNone then { o with tag := some (t.ce + 1) } else o) ∧
      (s.epochOk n t = true → s.spread t = true → s.failedDevs.contains s.ceil.root = false →
        (s.ceil.root = s.device → s.mcRoot.length < 65) →
        Waits s k (exec (.tablePatchCommit k) s) fun u => u.overlay = s.overlay ∧ u.mcCoord.length = s.mcCoord.length + 1)) ∧
    (s.accepts k { op := 0x020A, gen := 3, mem := true } = true → openOk k = true → epochLt t.ce (k.unitAt 2) = false →
      s.slotUsable t (k.par 1).toNat = true →
      (t.freeSlot = none → Answers s k (exec (.tableFold k) s) { status := Status.tableVersionsFull } fun u => u.folds = s.folds) ∧
      ∀ i, t.freeSlot = some i → Waits s k (exec (.tableFold k) s) fun u =>
        (∃ t', u.table n = some t' ∧ (t'.slot i).st = .loading ∧ (t'.slot i).version = t.lastVersion + 1 ∧
          (t'.slot i).foldEpoch = k.unitAt 2 ∧ (t'.slot i).base = (k.par 1).toNat) ∧
        ∃ f, u.folds = s.folds ++ [f] ∧ f.table = n ∧ f.slot = i ∧ f.epoch = k.unitAt 2 ∧ f.cmd = k ∧ f.pin.version = t.active ∧
          f.pin.ce = k.unitAt 2) ∧
    (s.accepts k { op := 0x020B, gen := 1, mem := true } = true → k.topZero 0 12 = true → k.topZero 1 52 = true → aligned32 (k.par 1) = true →
      k.zeroFrom 2 = true → (∀ j ∈ s.heldJobs, ∀ b, s.job j = some b → ∀ x ∈ b.pins, x.table ≠ n) →
      (∀ c ∈ s.clusters, ∀ l ∈ c.2.lookups, ∀ x ∈ s.lookupPins l, x.table ≠ n) →
      ∀ h ls, s.crossErr = [] → t.dim % 8 = 0 → s.translateEngine p (k.par 1).toNat (4 * t.dim) false = .ok ls →
      (∀ j < 4 * t.dim / 32, ∃ l, s.leafAt p ((k.par 1).toNat + 32 * j) = some l ∧
        l.target ((k.par 1).toNat + 32 * j) = .host (h + 32 * j) ∧ h % 32 = 0) →
      Answers s k (exec (.tableDefaultSet k) s) { status := Status.success, paths := 2 } fun u =>
        u.table n = some { t with dflt := (List.range (4 * t.dim)).map fun i => NMap.get s.host (h + i) 0 } ∧ (t.defaultOff % 32 = 0 →
        deckAddr 1 t.defaultOff + 4 * t.dim ≤ deckAddr 2 0 → ∀ cl ∈ s.ownedClusters, ∀ i < 4 * t.dim,
          NMap.get u.deck.cells (deckAddr cl t.defaultOff + i) 0 = NMap.get s.host (h + i) 0))) ∧
  (∀ (s : State) (n i : Nat) (r : Retire) (tb : Table), s.retires.find? (fun (y : Retire) => decide (y.table = n ∧ y.slot = i)) = some r →
    s.table n = some tb → (tb.slot i).pins = 0 → (s.queue r.cmd.queue).st = .running → (s.queue r.cmd.queue).orphans = [] →
    Answers s r.cmd (exec (.tableRetireDone n i) s) { status := Status.success } fun t =>
      ∃ tb', t.table n = some tb' ∧ tb'.slot i = VSlot.reset ∧ ∀ y ∈ t.retires, ¬(y.table = n ∧ y.slot = i)) ∧
  (∀ (s : State) (n : Nat) (f : Fold) (tb : Table), s.folds.find? (fun (y : Fold) => decide (y.table = n)) = some f → s.table n = some tb →
    (s.queue f.cmd.queue).st = .running → (s.queue f.cmd.queue).orphans = [] →
    Answers s f.cmd (exec (.tableFoldEnd n) s)
      { status := Status.success, result := f.slot * 256 + (tb.slot f.slot).version.toNat, paths := 2 } fun t =>
        t.folds = s.folds.erase f ∧ ∃ tb', t.table n = some tb' ∧ (tb'.slot f.slot).st = .ready) ∧
  (∀ (s : State) (n index : Nat) (tag : Word32) (o : Overlay) (tb : Table),
    s.overlay.find? (fun (y : Overlay) => decide (y.table = n ∧ y.index = index ∧ y.tag = some tag)) = some o → s.table n = some tb →
    (s.selectable tb o tag = false → ∃ t, exec (.overlayEntryRemove n index tag) s = .next t ∧ t.overlay = s.overlay.erase o ∧
      t.tables = s.tables) ∧
    (s.selectable tb o tag = true → exec (.overlayEntryRemove n index tag) s = .next s))

/-- R233, R434, R471, R472, R511 to R516, R322 to R324, R522, R525: JOB_LAUNCH, JOB_LAUNCH for the batcher, LOOKUP_SUBMIT,
JOB_ABORT, JOB_COUNTERS and BATCHER_CONFIG. The abort of a job whose units work completes when they stop. Completes: jobLaunch,
jobLaunchBatch, lookupSubmit, jobAbort, jobCounters, batcherConfig. Model's choices: log entries 90, 100, 102 and 121. -/
def Obligations.JobCommands : Prop :=
  ∀ (s : State) (k : Cmd),
    let p := s.cmdPart k
    let wcet := fun (img : Image) => img.wcets.getD (launchEntry k) 0
    (s.accepts k { op := 0x0300, gen := 1, fw := false, mem := true } = true → s.unitIn (launchUnit k) p (s.cmdFn k) = true →
      launchOk k = true → unitOf (launchUnit k) ≠ .reserved → (∃ l, s.resolve (launchUnit k) false = .ok l) →
      (launchBatch k = false →
        (s.launchImg p k = none →
          Answers s k (exec (.jobLaunch k) s) { status := Status.invalidParameter } fun t => t.jobs = s.jobs) ∧
        (s.numberTaken p (launchNumber k) = true ∨ s.launching p (launchNumber k) = true ∨ (∃ img, s.launchImg p k = some img ∧ s.inTarget (launchUnit k) img = false) →
          Answers s k (exec (.jobLaunch k) s) { status := Status.invalidParameter } fun t => t.jobs = s.jobs) ∧
        ∀ img, s.launchImg p k = some img → s.numberTaken p (launchNumber k) = false → s.launching p (launchNumber k) = false →
          s.inTarget (launchUnit k) img = true →
          (∀ a, s.launchFail p (launchEntry k) img = some a →
            Answers s k (exec (.jobLaunch k) s) { a with result := wcet img } fun t => t.jobs = s.jobs) ∧
          (s.launchFail p (launchEntry k) img = none → s.soleDevice img = true →
            Waits s k (exec (.jobLaunch k) s) fun t => ∃ j b, partOf j = p ∧ s.job j = none ∧ t.job j = some b ∧
              b.number = launchNumber k ∧ b.unit = launchUnit k ∧ b.image = launchImage k ∧ b.entry = launchEntry k ∧
              b.wcet = wcet img ∧ b.tags = Cmd.tags k (launchNumber k) ∧ s.tick ≤ b.launchTick ∧ b.origins = [k] ∧ b.batch = false ∧ (b.phase = .starting ∨ b.phase = .waiting) ∧
              ∀ i, i ≠ j → t.job i = s.job i) ∧
          (s.launchFail p (launchEntry k) img = none → s.soleDevice img = false → s.failedDevs.contains s.ceil.root = false →
            (s.ceil.root = s.device → s.mcRoot.length < 65) →
            Waits s k (exec (.jobLaunch k) s) fun t => t.jobs = s.jobs ∧ t.mcCoord.length = s.mcCoord.length + 1)) ∧
      (launchBatch k = true →
        ((s.part p).batchOn = false ∨ s.launchImg p k = none ∨ s.numberTaken p (launchNumber k) = true ∨ s.launching p (launchNumber k) = true →
          Answers s k (exec (.jobLaunchBatch k) s) { status := Status.invalidParameter } fun t => (t.part p).batchQ = (s.part p).batchQ) ∧
        ((s.part p).batchOn = true → s.launchImg p k ≠ none → s.numberTaken p (launchNumber k) = false → s.launching p (launchNumber k) = false →
          (16384 ≤ (s.part p).batchQ.length →
            Answers s k (exec (.jobLaunchBatch k) s) { status := Status.batchFull } fun t => (t.part p).batchQ = (s.part p).batchQ) ∧
          let queue := insertLast BatchReq.accepted { cmd := k, accepted := s.acceptTick k } (s.part p).batchQ
          ((s.part p).batchQ.length + 1 < (s.part p).fill → (s.part p).batchQ.length < 16384 →
            Waits s k (exec (.jobLaunchBatch k) s) fun t => t.jobs = s.jobs ∧ (t.part p).batchQ = queue) ∧
          (∀ k' img, (s.part p).fill = (s.part p).batchQ.length + 1 → (s.part p).batchQ.length < 16384 →
            (queue.map (·.cmd)).head? = some k' → s.launchImg p k' = some img → s.soleDevice img = true →
            s.inTarget (launchUnit k') img = true → s.launchFail p (launchEntry k') img = none →
            Waits s k (exec (.jobLaunchBatch k) s) fun t => (t.part p).batchQ = [] ∧ ∃ j b, s.job j = none ∧ t.job j = some b ∧
              b.batch = true ∧ b.number = launchNumber k' ∧ b.origins = queue.map (·.cmd))))) ∧
    (s.accepts k { op := 0x0301, gen := 1, fw := false, mem := true } = true → s.unitIn (k.unitAt 1) p (s.cmdFn k) = true →
      k.topZero 0 52 = true → k.topZero 1 32 = true → k.zeroFrom 2 = true → (∀ d, unitOf (k.unitAt 1) ≠ .device d) →
      unitOf (k.unitAt 1) ≠ .reserved → (k.par 0).toNat % 32 = 0 →
      ∀ cores vas u ws v group, s.resolve (k.unitAt 1) true = .ok cores → (group = true ↔ ∃ n, unitOf (k.unitAt 1) = .group n) →
      let cls := clustersHolding (cores.map (·.2))
      (s.started k).blockAddresses p (k.par 0).toNat group cls.length = .ok (vas, false, u) → (∀ a ∈ vas, a % 32 = 0) →
      u.readBlocks p vas = .ok (ws, false, v) →
      Waits s k (exec (.lookupSubmit k) s) fun t => t.jobs = s.jobs ∧
        t.lookCmds = s.lookCmds ++ [{ cmd := k, left := cls.length, code := 0, distinct := 0, unit := 0 }] ∧
        ∀ x ∈ cls.zip ws, { source := .host k, part := p, words := x.2, epoch := 0 } ∈ (t.cluster x.1).lookWait) ∧
    (s.accepts k { op := 0x0302, gen := 1 } = true → k.zeroFrom 0 = true →
      let j := 8 * p + k.job
      ((8 ≤ k.job ∨ s.job j = none) →
        Answers s k (exec (.jobAbort k) s) { status := Status.invalidParameter } fun t => t.jobs = s.jobs) ∧
      ∀ b, k.job < 8 → s.job j = some b →
        (b.onUnits = false → (b.active = false ∨ s.spans b = false) → b.ending = none → ∃ t, exec (.jobAbort k) s = .next t ∧ t.job j = none ∧
          (t.queue k.queue).done.getLast? = some (completionOf k { status := Status.success })) ∧
        (b.onUnits = true ∨ (b.active = true ∧ s.spans b = true) → b.ending = none → Waits s k (exec (.jobAbort k) s) fun t => ∃ b' e, t.job j = some b' ∧
          b'.ending = some e ∧ e.status = Status.jobAborted ∧ e.cmds = [k]) ∧
        (∀ e, b.ending = some e → Waits s k (exec (.jobAbort k) s) fun t =>
          t.job j = some { b with ending := some { e with cmds := e.cmds ++ [k] } })) ∧
    (s.accepts k { op := 0x0306, gen := 2 } = true → k.topZero 0 10 = true → aligned32 (k.par 1) = true → k.zeroFrom 2 = true →
      let q := (k.par 0).toNat
      let h := s.queue q
      h.st ≠ .absent →
      (h.fn ≠ s.cmdFn k → Answers s k (exec (.jobCounters k) s) { status := Status.notPermitted } fun t => t.host = s.host) ∧
      let now := [h.submitted, h.started, h.completed, h.aborted, h.preempted]
      let writes := fun (m : Nat) (l : List Nat) => Answers s k (exec (.jobCounters k) s) { status := Status.success, result := m, paths := 1 }
        fun t => t.hostRead (k.par 1).toNat 40 = l.flatMap fun n => leBytes 8 n
      (h.fn = s.cmdFn k → (∀ x, h.before = some x → x.1 ≠ s.tick) → writes 0 now) ∧
      (∀ old, h.fn = s.cmdFn k → h.before = some (s.tick, old) → old.length = 5 → writes 0 now ∨ writes 1 old)) ∧
    (s.accepts k { op := 0x030B, gen := 3 } = true → bf (k.par 0) 63 42 = 0 → bf (k.par 0) 15 1 = 0 → 1 ≤ bf (k.par 0) 41 29 →
      bf (k.par 0) 41 29 ≤ 4096 → 5 ≤ bf (k.par 0) 28 16 → bf (k.par 0) 28 16 ≤ 5000 → k.zeroFrom 1 = true →
      ((s.part p).batchQ ≠ [] →
        Answers s k (exec (.batcherConfig k) s) { status := Status.partitionBusy } fun t => (t.part p).batcher = (s.part p).batcher) ∧
      ((s.part p).batchQ = [] → (∀ j ∈ s.partJobs p, ∀ b, s.job j = some b → b.batch = false) →
        Answers s k (exec (.batcherConfig k) s) { status := Status.success } fun t => (t.part p).batcher = k.par 0))

/-- R15, R77, R181, R302 to R308, R473, R476, R514, R515, R568: IMAGE_LOAD, IMAGE_UNLOAD, SLICE_CONFIG, GEN_CONFIG, SEQ_JOIN,
SEQ_LEAVE and SEQ_QUERY. Completes: imageLoad, imageUnload, sliceConfig, genConfig, seqJoin, seqLeave, seqQuery. Model's choices: log
entries 10, 39 and 41. -/
def Obligations.ImageAndSequenceCommands : Prop :=
  ∀ (s : State) (k : Cmd),
    let p := s.cmdPart k
    (∀ img, s.accepts k { op := 0x0303, gen := 1 } = true → aligned32 (k.par 0) = true → k.topZero 1 40 = true → k.zeroFrom 2 = true →
      let bytes := s.hostRead (k.par 0).toNat (k.par 1).toNat
      let got := Image.withDigests img bytes
      (imageSigned bytes = false →
        Answers s k (exec (.imageLoad k img) s) { status := Status.signatureInvalid } fun t => t.images = s.images ∧ t.imem = s.imem) ∧
      (imageSigned bytes = true → s.imageOk p got = false →
        Answers s k (exec (.imageLoad k img) s) { status := Status.imageRefused } fun t => t.images = s.images ∧ t.imem = s.imem) ∧
      (imageSigned bytes = true → s.imageOk p got = true → (∃ h < 65536, s.image h = none) → ∃ h < 65536, s.image h = none ∧
        Answers s k (exec (.imageLoad k img) s) { status := Status.success, result := h } fun t =>
          t.image h = some { part := p, img := got } ∧ got.digest = digestWord (digestOf (imageCovered bytes)) ∧ (∀ i, i ≠ h → t.image i = s.image i) ∧
            ∀ x, s.streams img = [x] → (upFrom (x.core * 2 ^ 17 + 8 * x.base) (8 * x.code.length)).map (fun a => NMap.get t.imem a 0) =
              wordBytes x.code)) ∧
    (s.accepts k { op := 0x0304, gen := 1 } = true → k.topZero 0 16 = true → k.zeroFrom 1 = true →
      let h := (k.par 0).toNat
      (s.image h = none → Answers s k (exec (.imageUnload k) s) { status := Status.invalidParameter } fun t => t.images = s.images) ∧
      ∀ l, s.image h = some l → l.part = p →
        ((s.started k).imageUsed h = true →
          Answers s k (exec (.imageUnload k) s) { status := Status.partitionBusy } fun t => t.image h = some l) ∧
        ((s.started k).imageUsed h = false →
          Answers s k (exec (.imageUnload k) s) { status := Status.success } fun t => t.image h = none ∧ t.imem = s.imem)) ∧
    (s.accepts k { op := 0x0305, gen := 2, pf := true } = true → sliceOk (k.par 0) (k.par 1) (k.par 2) = true → k.zeroFrom 3 = true →
      (s.partJobs p ≠ [] →
        Answers s k (exec (.sliceConfig k) s) { status := Status.partitionBusy } fun t => (t.part p).slice = (s.part p).slice) ∧
      ∀ ls, s.partJobs p = [] →
        (bf (k.par 2) 43 32 = 0 ∨ s.translateEngine p (bf (k.par 1) 51 0) (8 * bf (k.par 2) 43 32 * 65536) true = .ok ls ∧ ∀ l ∈ ls, l.kind = 0) →
        Answers s k (exec (.sliceConfig k) s) { status := Status.success } fun t => (t.part p).slice = [k.par 0, k.par 1, k.par 2]) ∧
    (s.accepts k { op := 0x0307, gen := 3 } = true → aligned32 (k.par 0) = true → k.zeroFrom 1 = true →
      let w := genRecord (s.hostWords (k.par 0).toNat 4)
      let q := { s.part p with gen := w }
      (genOk q = false →
        Answers s k (exec (.genConfig k) s) { status := Status.invalidParameter } fun t => (t.part p).gen = (s.part p).gen) ∧
      (genOk q = true → s.generates p = true →
        Answers s k (exec (.genConfig k) s) { status := Status.partitionBusy } fun t => (t.part p).gen = (s.part p).gen) ∧
      (∀ e, genOk q = true → s.generates p = false → s.genMapped p q = .error e →
        Answers s k (exec (.genConfig k) s) { status := Status.invalidParameter } fun t => (t.part p).gen = (s.part p).gen) ∧
      (∀ ls, genOk q = true → s.generates p = false → s.genMapped p q = .ok ls →
        Answers s k (exec (.genConfig k) s) { status := Status.success } fun t => (t.part p).gen = w)) ∧
    (s.accepts k { op := 0x0308, gen := 3 } = true → k.topZero 0 52 = true → (k.par 0).toNat % 32 = 0 → k.topZero 2 37 = true →
      bf (k.par 2) 31 17 = 0 → 1 ≤ bf (k.par 2) 16 0 → bf (k.par 2) 16 0 ≤ 65536 → 1 ≤ bf (k.par 3) 63 32 → k.unitAt 3 ≠ 0xFFFFFFFF →
      k.zeroFrom 4 = true →
      ((s.part p).hasHandle (k.unitAt 3) = true →
        Answers s k (exec (.seqJoin k) s) { status := Status.handleInUse } fun t => (t.part p).joins = (s.part p).joins) ∧
      ∀ ls, (s.part p).hasHandle (k.unitAt 3) = false → bf (k.par 2) 16 0 + bf (k.par 3) 63 32 ≤ 64 * (s.part p).maxBlocks →
        (16384 ≤ (s.part p).joins.length →
          Answers s k (exec (.seqJoin k) s) { status := Status.joinQueueFull } fun t => (t.part p).joins = (s.part p).joins) ∧
        ((s.part p).joins.length < 16384 → s.translateEngine p (k.par 0).toNat (4 * bf (k.par 2) 16 0) false = .ok ls →
          Waits s k (exec (.seqJoin k) s) fun t => ∃ j, (t.part p).joins = insertLast Join.at_ j (s.part p).joins ∧ j.cmd = k ∧ j.at_ = s.acceptTick k ∧
            j.handle = k.unitAt 3 ∧ j.beams = bf (k.par 2) 36 32 + 1 ∧ j.promptLen = bf (k.par 2) 16 0 ∧ j.maxNew = bf (k.par 3) 63 32 ∧
            j.seed = k.par 1)) ∧
    (s.accepts k { op := 0x0309, gen := 3 } = true → k.topZero 0 32 = true → k.zeroFrom 1 = true →
      let h := k.unitAt 0
      (∀ j, (s.part p).joins.find? (fun (x : Join) => decide (x.handle = h)) = some j → ∃ t, exec (.seqLeave k) s = .next t ∧
        (∀ x ∈ (t.part p).joins, x.handle ≠ h) ∧ (t.queue k.queue).done.getLast? = some (completionOf k { status := Status.success })) ∧
      ((∀ j ∈ (s.part p).joins, j.handle ≠ h) →
        ((∃ q ∈ (s.part p).seqs, q.2.handle = h) →
          Waits s k (exec (.seqLeave k) s) fun t => (t.part p).leaves =
            insertLast (fun (x : Word32 × Cmd × Nat) => x.2.2) (h, k, s.acceptTick k) (s.part p).leaves) ∧
        ((∀ q ∈ (s.part p).seqs, q.2.handle ≠ h) →
          Answers s k (exec (.seqLeave k) s) { status := Status.seqUnknown } fun t => (t.part p).leaves = (s.part p).leaves))) ∧
    (s.accepts k { op := 0x030A, gen := 3 } = true → k.topZero 0 32 = true → aligned32 (k.par 1) = true → k.zeroFrom 2 = true →
      let h := k.unitAt 0
      ((∃ j ∈ (s.part p).joins, j.handle = h) →
        Answers s k (exec (.seqQuery k) s) { status := Status.success, result := 1, paths := 1 } fun t =>
          t.hostRead (k.par 1).toNat 32 = leBytes 32 (h.toNat * 2 ^ 160)) ∧
      ((∀ j ∈ (s.part p).joins, j.handle ≠ h) →
        ((∀ q ∈ (s.part p).seqs, q.2.handle ≠ h) →
          Answers s k (exec (.seqQuery k) s) { status := Status.seqUnknown } fun t => t.host = s.host) ∧
        ∀ i q, (s.part p).seqs.find? (fun (x : Nat × SeqSlot) => decide (x.2.handle = h)) = some (i, q) →
          Answers s k (exec (.seqQuery k) s) { status := Status.success, paths := 1 } fun t =>
            let w := ((s.started k).readSlot p i).1
            ((s.part p).slotBytes i).length = 32 → t.hostRead ((k.par 1).toNat + 8) 24 = ((s.part p).slotBytes i).drop 8 ∧
              t.hostRead (k.par 1).toNat 8 = leBytes 8 (fromLe (((s.part p).slotBytes i).take 8) + w.advance * 8 + b2n w.done)))

/-- R389, R390, R402, R434, R469, R477, R478, R555, R556, R558 to R564, R568 to R572, R576 to R579: FABRIC_JOIN, FABRIC_LEAVE,
FABRIC_QUERY, JOB_REMAP, CERT_READ, ATTEST_REPORT, SESSION_OPEN, SESSION_CLOSE, JOBKEY_SET, JOBKEY_CLEAR and PACKAGE_LOAD.
Digests, signatures and keys are those of Config, whatever they are. Completes: fabricJoin, fabricLeave, fabricQuery, jobRemap,
certRead, attestReport, sessionOpen, sessionClose, jobkeySet, jobkeyClear, packageLoad. Model's choices: log entries 47, 71, 72, 73, 114
and 130. -/
def Obligations.FabricAndSecurityCommands : Prop :=
  ∀ (s : State) (k : Cmd),
    let p := s.cmdPart k
    let ok : Answer := { status := Status.success }
    (s.accepts k { op := 0x0400, gen := 1, pf := true, dev := true } = true → aligned32 (k.par 0) = true → k.topZero 1 32 = true →
      k.zeroFrom 2 = true →
      let b := s.hostRead (k.par 0).toNat (k.par 1).toNat
      let f := parseFabric b
      (descriptionOk b = false →
        Answers s k (exec (.fabricJoin k) s) { status := Status.invalidParameter } fun t => t.fabric = s.fabric ∧ t.ports = s.ports) ∧
      (descriptionOk b = true → (∀ d ∈ f.devices, d.id ≠ s.deviceId) →
        Answers s k (exec (.fabricJoin k) s) { status := Status.fabricMismatch } fun t => t.fabric = s.fabric ∧ t.ports = s.ports) ∧
      ∀ d, descriptionOk b = true → f.devices.find? (fun (y : FabDevice) => decide (y.id = s.deviceId)) = some d →
        BitVec.ofNat 512 (fromLe (Config.shake256 (b.drop 128) 64)) = f.digest → f.portsOk = true → f.topologyOk = true →
        s.joining = none → s.assigned = false → (∃ q ∈ f.portsHere d.number, (s.port q).enabled = true) →
        Waits s k (exec (.fabricJoin k) s) fun t => t.fabric = f ∧ t.device = d.number ∧ t.assigned = true ∧ t.ceil = f.tree d.number ∧
          t.joining = some (k, f.portsHere d.number) ∧ t.lockedGroups = [] ∧ t.lockedTables = [] ∧
          (∀ q ∈ f.portsHere d.number, (s.port q).enabled = true → (t.port q).st = .training) ∧
          ∀ q < 16, q ∉ f.portsHere d.number → (t.port q).st = .down) ∧
    (s.accepts k { op := 0x0401, gen := 2, pf := true, dev := true } = true → k.zeroFrom 0 = true →
      ((s.heldJobs ≠ [] ∨ s.farGroup = true) →
        Answers s k (exec (.fabricLeave k) s) { status := Status.partitionBusy } fun t => t.assigned = s.assigned ∧ t.ports = s.ports) ∧
      (s.heldJobs = [] → s.farGroup = false → (∀ x ∈ s.images, x.2 = none) → Answers s k (exec (.fabricLeave k) s) ok fun t =>
        t.assigned = false ∧ t.device = 0 ∧ t.fabricOn = false ∧ (∀ q, (t.port q).st = .down) ∧ ∀ n, bit (t.window n).w0 63 = false)) ∧
    (s.accepts k { op := 0x0402, gen := 1 } = true → aligned32 (k.par 0) = true → k.topZero 1 32 = true → k.zeroFrom 2 = true →
      (256 ≤ (k.par 1).toNat → Answers s k (exec (.fabricQuery k) s) { status := Status.success, paths := 1 } fun t =>
        t.hostRead (k.par 0).toNat 256 = s.fabricBytes) ∧
      ((k.par 1).toNat < 256 → Answers s k (exec (.fabricQuery k) s) { status := Status.invalidParameter, result := 256 } fun t =>
        t.host = s.host)) ∧
    (∀ t, s.accepts k { op := 0x0403, gen := 3, pf := true } = true → bf (k.par 0) 63 42 = 0 → bf (k.par 0) 21 12 = 0 → k.topZero 1 2 = true →
      k.zeroFrom 2 = true →
      let n := bf (k.par 0) 11 0
      let failed := bf (k.par 0) 31 22
      let spare := bf (k.par 0) 41 32
      let home := (t.shards.filter (· ≠ failed)).headD spare
      s.lockedTables.contains n = false → s.table n = some t → failed ∈ t.shards →
      (s.inFabric spare = false →
        Answers s k (exec (.jobRemap k) s) { status := Status.unitUnavailable } fun u => u.table n = some t) ∧
      (s.inFabric spare = true → home ≠ s.device →
        Answers s k (exec (.jobRemap k) s) { status := Status.notHome, unit := devRef home } fun u => u.table n = some t) ∧
      (s.inFabric spare = true → home = s.device → s.checkChange false (.remap n failed spare (bf (k.par 1) 1 0) t.active t.ce) = none →
        s.failedDevs.contains s.ceil.root = false → (s.ceil.root = s.device → s.mcRoot.length < 65) →
        Waits s k (exec (.jobRemap k) s) fun u => u.table n = some t ∧ u.mcCoord.length = s.mcCoord.length + 1)) ∧
    (s.accepts k { op := 0x0501, gen := 2 } = true → aligned32 (k.par 0) = true → k.topZero 1 32 = true → k.zeroFrom 2 = true →
      let b := padTo 3264 authorityCert ++ padTo 3264 (identityCert s.secret) ++ padTo 3264 (attestationCert s.secret s.fwImage) ++
        padTo 3008 (kemCert s.secret)
      (12800 ≤ (k.par 1).toNat →
        Answers s k (exec (.certRead k) s) { status := Status.success, count := 12800, paths := 1 } fun t =>
          t.hostRead (k.par 0).toNat 12800 = b) ∧
      ((k.par 1).toNat < 12800 →
        Answers s k (exec (.certRead k) s) { status := Status.invalidParameter, result := 12800 } fun t => t.host = s.host)) ∧
    (s.accepts k { op := 0x0500, gen := 2 } = true → aligned32 (k.par 0) = true → k.topZero 1 32 = true → k.zeroFrom 2 = true →
      let ps := s.syncParts (s.cmdFn k)
      let nonce := s.hostRead (k.par 0).toNat 64
      let r := (s.started k).attestation ps nonce
      let b := r ++ padTo 1280 (Config.falconSign (attestSeed s.secret s.fwImage) (ascii "TVF-REPORT" ++ r))
      (b.length ≤ (k.par 1).toNat →
        Answers s k (exec (.attestReport k) s) { status := Status.success, count := b.length, paths := 1 } fun t =>
          t.hostRead (k.par 0).toNat b.length = b ∧ ∀ q ∈ ps, (t.part q).nonce = some (digestWord nonce)) ∧
      ((k.par 1).toNat < b.length →
        Answers s k (exec (.attestReport k) s) { status := Status.invalidParameter, result := b.length } fun t =>
          t.host = s.host ∧ ∀ q, (t.part q).nonce = (s.part q).nonce)) ∧
    (s.accepts k { op := 0x0502, gen := 3 } = true → k.zeroFrom 1 = true →
      let b := s.hostRead (k.par 0).toNat 1664
      let ct := b.take 1568
      let nonce := (b.drop 1568).take 64
      let good := confirms (Config.decapsulate (kemSeed s.secret) ct) ct (b.drop 1632)
      (((s.part p).session ≠ none ∨ (s.part p).nonce ≠ some (digestWord nonce)) →
        Answers s k (exec (.sessionOpen k) s) { status := Status.invalidParameter } fun t => (t.part p).session = (s.part p).session) ∧
      ((s.part p).session = none → (s.part p).nonce = some (digestWord nonce) →
        (good = false → Answers s k (exec (.sessionOpen k) s) { status := Status.signatureInvalid } fun t => (t.part p).session = none) ∧
        (good = true → Answers s k (exec (.sessionOpen k) s) ok fun t => ∃ x, (t.part p).session = some x ∧ x.fn = s.cmdFn k ∧
          x.inbound.next = 0 ∧ x.outbound.next = 0 ∧ x.digest = digestWord (digestOf ct)))) ∧
    (s.accepts k { op := 0x0503, gen := 3 } = true → k.zeroFrom 0 = true →
      ((s.part p).session = none →
        Answers s k (exec (.sessionClose k) s) { status := Status.invalidParameter } fun t => (t.part p).scrub = (s.part p).scrub) ∧
      ((s.part p).session ≠ none → s.transfers p .session = true →
        Waits s k (exec (.sessionClose k) s) fun t => (t.part p).session = (s.part p).session ∧ k ∈ (t.part p).closing) ∧
      ((s.part p).session ≠ none → s.transfers p .session = false → ∃ t, exec (.sessionClose k) s = .next t ∧
        completionOf k ok ∈ (t.queue k.queue).done ∧ (t.part p).session = none ∧ (t.part p).scrub = true ∧
        ((∀ j b, partOf j = p → s.job j = some b → b.onUnits = false ∧ (b.active = false ∨ s.spans b = false) ∧ b.ending = none) →
          (∀ n, n < 64 → ∀ y, NMap.get t.jobKeys n none = some y → y.part ≠ p) ∧ ∀ j, partOf j = p → t.job j = none) ∧
        ∀ j b, partOf j = p → s.job j = some b → b.onUnits = true ∨ (b.active = true ∧ s.spans b = true) → b.ending = none → ∃ b' e, t.job j = some b' ∧ b'.ending = some e ∧
          e.status = Status.jobAborted)) ∧
    (s.accepts k { op := 0x0504, gen := 3 } = true → keyParams k = true →
      let inVa := (k.par 1).toNat
      let inLen := (k.par 2).toNat
      let outVa := (k.par 3).toNat
      let outLen := (k.par 4).toNat
      let b := s.hostRead (k.par 0).toNat 1600
      let ct := b.take 1568
      let free := (List.range 64).find? fun n => (NMap.get s.jobKeys n none).isNone
      let good := confirms (Config.decapsulate (kemSeed s.secret) ct) ct (b.drop 1568)
      ∀ ls, s.keyLeaves p inVa inLen outVa outLen = .ok ls → (∀ l ∈ ls, l.kind = 0 ∧ l.prot = true) → s.keyOverlap p inVa inLen = false →
      s.keyOverlap p outVa outLen = false → boundMeet inVa inLen outVa outLen = false →
      (free = none → Answers s k (exec (.jobkeySet k) s) { status := Status.keySlotFull } fun t => t.jobKeys = s.jobKeys) ∧
      ∀ n, free = some n →
        (good = false → Answers s k (exec (.jobkeySet k) s) { status := Status.signatureInvalid } fun t => t.jobKeys = s.jobKeys) ∧
        (good = true → Answers s k (exec (.jobkeySet k) s) { status := Status.success, result := n } fun t =>
          ∃ y, NMap.get t.jobKeys n none = some y ∧ y.part = p ∧ y.fn = s.cmdFn k ∧ y.inVa = inVa ∧ y.inLen = inLen ∧ y.outVa = outVa ∧
            y.outLen = outLen ∧ y.inbound.next = 0 ∧ y.outbound.next = 0 ∧ ∀ m, m ≠ n → NMap.get t.jobKeys m none = NMap.get s.jobKeys m none)) ∧
    (∀ y, s.accepts k { op := 0x0505, gen := 3 } = true → k.topZero 0 6 = true → k.zeroFrom 1 = true →
      let n := (k.par 0).toNat
      NMap.get s.jobKeys n none = some y → y.part = p →
      (s.transfers p (.jobKey n) = true → Waits s k (exec (.jobkeyClear k) s) fun t =>
        NMap.get t.jobKeys n none = some { y with clearing := y.clearing ++ [k] }) ∧
      (s.transfers p (.jobKey n) = false → ∃ t, exec (.jobkeyClear k) s = .next t ∧ NMap.get t.jobKeys n none = none ∧
        completionOf k ok ∈ (t.queue k.queue).done)) ∧
    (s.accepts k { op := 0x0506, gen := 3, mem := true } = true → (k.par 1).toNat % 32 = 0 → k.topZero 1 52 = true → k.zeroFrom 2 = true →
      let va := (k.par 1).toNat
      (s.packageAt (k.par 0).toNat = none →
        Answers s k (exec (.packageLoad k) s) { status := Status.signatureInvalid } fun t => t.hbm = s.hbm ∧ t.packages = s.packages) ∧
      ∀ x, s.packageAt (k.par 0).toNat = some x →
        (x.signed = false →
          Answers s k (exec (.packageLoad k) s) { status := Status.signatureInvalid } fun t => t.hbm = s.hbm ∧ t.packages = s.packages) ∧
        (x.signed = true → x.ok = false →
          Answers s k (exec (.packageLoad k) s) { status := Status.invalidParameter } fun t => t.hbm = s.hbm ∧ t.packages = s.packages) ∧
        (x.signed = true → x.ok = true → x.entry s.deviceId = none →
          Answers s k (exec (.packageLoad k) s) { status := Status.notInSet } fun t => t.hbm = s.hbm ∧ t.packages = s.packages) ∧
        ∀ a h ls, x.signed = true → x.ok = true → x.entry s.deviceId = some a → s.translate p va x.length true = .ok ls →
          (∀ l ∈ ls, l.kind = 0 ∧ l.prot = true) → s.crossErr = [] → h % 32 = 0 →
          (∀ j < x.length / 32, (∃ l, s.leafAt p (va + 32 * j) = some l ∧ l.target (va + 32 * j) = .hbm (h + 32 * j)) ∧
            (s.stack (stackOf (h + 32 * j))).lost = false) →
          (x.plain s.secret a = none → Answers s k (exec (.packageLoad k) s) { status := Status.signatureInvalid, paths := 2 } fun t =>
            t.packages = s.packages ∧ ∀ j < x.length / 32, t.hbm.bytesAt (h / 32 + j) = List.replicate 32 0) ∧
          ∀ b, x.plain s.secret a = some b → b.length = x.length →
            Answers s k (exec (.packageLoad k) s) { status := Status.success, paths := 2 } fun t =>
              (∃ e, t.packages = s.packages ++ [e] ∧ e.part = p ∧ e.va = va ∧ e.length = x.length ∧ e.digest = digestWord (x.bytes 16 64)) ∧
                ∀ j < x.length / 32, t.hbm.bytesAt (h / 32 + j) = (b.drop (32 * j)).take 32)

/-- R550 to R553, R565, R566, R582 to R590, R593 to R595: COUNTER_CONFIG, COUNTER_SAMPLE, TRACE_CONFIG with each action,
TRACE_TRIGGER, DEBUG_ACCESS and FIELD_TEST with each action, each counted as a debug access; a reserved action is refused.
Completes: counterConfig, counterSample, traceConfigConfigure, traceConfigStart, traceConfigStop, traceConfigStatus,
traceConfigRearm, traceTrigger, debugAccess, fieldTestRead, fieldTestRun, fieldTestReturn. Model's choices: log entries 59, 60,
61, 64 and 121. -/
def Obligations.ObserveCommands : Prop :=
  ∀ (s : State) (k : Cmd),
    let p := s.cmdPart k
    let u := k.unitAt 0
    let ok : Answer := { status := Status.success }
    let tr := fun (t : State) => (t.part p).trace
    let now := s.started k
    (∀ cores per whole, s.counterUnit k = true → s.resolve u true = .ok cores → observed (unitOf u) (s.here cores) = some (per, whole) →
      (s.accepts k { op := 0x0602, gen := 1 } = true → k.topZero 0 34 = true → bf (k.par 0) 33 32 ≤ 1 → (∀ c ∈ counterCodes k, c ≤ 15) →
        k.zeroFrom 3 = true → Answers s k (exec (.counterConfig k) s) ok fun t => t.dbgCount = satN 40 (s.dbgCount + 1) ∧
          (∀ x ∈ per, ∀ c ∈ x.2, (t.core c).cnt.vals = [] ∧ (t.core c).cnt.closing = none ∧
            (t.core c).cnt.scope = bit (k.par 0) 32 ∧ (t.core c).cnt.tags = (s.core c).cnt.tags ∧
            ∀ n < 16, (NMap.get (t.core c).cnt.sel n 0).toNat = bf (k.par (1 + n / 8)) (8 * (n % 8) + 7) (8 * (n % 8))) ∧
          (whole = true → ∀ x ∈ per, (t.cluster x.1).engCnt.vals = [] ∧ (t.cluster x.1).deckCnt.vals = [])) ∧
      (s.accepts k { op := 0x0603, gen := 1 } = true → k.topZero 0 33 = true → aligned32 (k.par 1) = true → k.topZero 2 32 = true →
        k.zeroFrom 3 = true →
        let cl := bit (k.par 0) 32
        let meets := decide (now.freeAt 1 1 = 1)
        let b := per.flatMap fun x =>
          (if whole then now.clusterBlock x.1 cl meets else []) ++ x.2.flatMap fun c => now.coreBlock c cl meets
        (b.length ≤ (k.par 2).toNat → Answers s k (exec (.counterSample k) s) { status := Status.success, paths := 1 } fun t =>
          t.hostRead (k.par 1).toNat b.length = b ∧ t.cores = s.cores ∧ t.dbgCount = satN 40 (s.dbgCount + 1)) ∧
        ((k.par 2).toNat < b.length → Answers s k (exec (.counterSample k) s) { status := Status.invalidParameter, result := b.length } fun t =>
          t.host = s.host ∧ t.cores = s.cores))) ∧
    (s.accepts k { op := 0x0600, gen := 2 } = true →
      (traceAction k = 0 ∨ 6 ≤ traceAction k →
        Answers s k (exec (.traceConfigConfigure k) s) { status := Status.invalidParameter } fun t =>
          (tr t).p1 = (tr s).p1 ∧ (tr t).p2 = (tr s).p2 ∧ (tr t).configured = (tr s).configured ∧ t.dbgCount = satN 40 (s.dbgCount + 1)) ∧
      (traceAction k = 1 → traceFieldsOk k = true → (tr s).running = false → ∀ ls,
        s.translateEngine p (bf (k.par 0) 51 0) ((bf (k.par 1) 19 0 + 1) * 65536) true = .ok ls → (∀ l ∈ ls, l.kind = 0) →
        bf (k.par 1) 47 32 &&& recPorts (s.part p).recWords = bf (k.par 1) 47 32 →
        Answers s k (exec (.traceConfigConfigure k) s) ok fun t => t.dbgCount = satN 40 (s.dbgCount + 1) ∧
          tr t = { Trace.reset with baseVa := bf (k.par 0) 51 0, p1 := k.par 1, p2 := k.par 2, configured := true }) ∧
      (traceAction k = 1 → traceFieldsOk k = true → (tr s).running = true →
        Answers s k (exec (.traceConfigConfigure k) s) { status := Status.partitionBusy } fun t => (tr t).p1 = (tr s).p1) ∧
      (traceAction k = 2 → actionAlone k = true → (tr s).configured = true → Answers s k (exec (.traceConfigStart k) s) ok fun t =>
        (tr t).running = true ∧ (tr t).next = 0 ∧ (tr t).count = 0 ∧ (tr t).wrapped = false ∧ (tr t).frozen = false ∧
          (tr t).p1 = (tr s).p1 ∧ (tr t).p2 = (tr s).p2 ∧ (tr t).baseVa = (tr s).baseVa) ∧
      (traceAction k = 3 → actionAlone k = true → Answers s k (exec (.traceConfigStop k) s) ok fun t =>
        (tr t).running = false ∧ (tr t).p1 = (tr s).p1 ∧ (tr t).configured = (tr s).configured ∧
          ((tr s).running = false → tr t = tr s)) ∧
      (traceAction k = 4 → actionAlone k = true → Answers s k (exec (.traceConfigStatus k) s)
        { status := Status.success, count := (tr s).count,
          result := b2n (tr s).running * 2 ^ 63 + b2n (tr s).frozen * 2 ^ 62 + b2n (tr s).wrapped * 2 ^ 61 + (tr s).next % 2 ^ 31 }
        fun t => (tr t).running = (tr s).running) ∧
      (traceAction k = 5 → actionAlone k = true → (tr s).configured = true → Answers s k (exec (.traceConfigRearm k) s) ok fun t =>
        (tr t).running = true ∧ (tr t).frozen = false ∧ (tr t).next = (tr s).next)) ∧
    (s.accepts k { op := 0x0601, gen := 2 } = true → k.zeroFrom 0 = true → Answers s k (exec (.traceTrigger k) s) ok fun t =>
      t.dbgCount = satN 40 (s.dbgCount + 1) ∧ ((tr now).running = true → (tr now).frozen = false → (tr now).post = none →
        (tr t).post.isSome = true ∧ ∃ st, traceRec st (devRef s.device) 0x0B 3 0xFFFF 0xFFFF 0 0 1 ∈ NMap.get (tr t).staged 4 [])) ∧
    (s.accepts k { op := 0x0605, gen := 2, pf := true, mem := debugSpace k = 1 || debugSpace k = 2 } = true →
      s.unitIn u p (s.cmdFn k) = true → k.topZero 0 37 = true → debugSpace k ≤ 3 → k.topZero 1 52 = true → (k.par 1).toNat % 8 = 0 →
      (k.par 2).toNat % 8 = 0 → 8 ≤ (k.par 2).toNat → (k.par 2).toNat ≤ 2 ^ 20 → aligned32 (k.par 3) = true → k.zeroFrom 4 = true →
      (∃ l, s.resolve u true = .ok l) →
      let n := (k.par 2).toNat
      let h := (k.par 3).toNat
      (∀ e, s.debugSpan k = .error e → Answers s k (exec (.debugAccess k) s) { status := Status.invalidParameter } fun t =>
        t.dbgCount = satN 40 (s.dbgCount + 1) ∧ (e = none → t.host = s.host) ∧ t.store = s.store ∧ t.deck = s.deck ∧ t.hbm = s.hbm ∧
          t.imem = s.imem) ∧
      (∀ a q, s.debugSpan k = .ok (.va q a) → ∃ x, (debugWrite k = false → x = 1) ∧ Answers s k (exec (.debugAccess k) s)
        { status := Status.success, paths := x } fun t => t.dbgCount = satN 40 (s.dbgCount + 1) ∧ t.imem = s.imem) ∧
      (∀ a, s.debugSpan k = .ok (.code a) →
        (debugWrite k = true → Answers s k (exec (.debugAccess k) s) ok fun t => t.store = s.store ∧ t.dbgCount = satN 40 (s.dbgCount + 1) ∧
          (∀ i < n, NMap.get t.imem (a + i) 0 = NMap.get s.host (h + i) 0) ∧
          ∀ i, i < a ∨ a + n ≤ i → NMap.get t.imem i 0 = NMap.get s.imem i 0) ∧
        (debugWrite k = false → Answers s k (exec (.debugAccess k) s) { status := Status.success, paths := 1 } fun t =>
          t.imem = s.imem ∧ ∀ i < n, NMap.get t.host (h + i) 0 = NMap.get s.imem (a + i) 0)) ∧
      (∀ sp a, s.debugSpan k = .ok (.flat sp a) →
        (debugWrite k = true → Answers s k (exec (.debugAccess k) s) { status := Status.success, paths := if sp = .deck then 2 else 0 }
          fun t => t.imem = s.imem ∧ t.dbgCount = satN 40 (s.dbgCount + 1) ∧
            ∀ i < n, NMap.get (t.mem sp).cells (a + i) 0 = NMap.get s.host (h + i) 0) ∧
        (debugWrite k = false → Answers s k (exec (.debugAccess k) s) { status := Status.success, paths := 1 } fun t => t.imem = s.imem ∧
          ((∀ i < n, (s.mem sp).sector ((a + i) / 32) = { data := (s.mem sp).bytesAt ((a + i) / 32), tag := 0 }) →
            ∀ i < n, NMap.get t.host (h + i) 0 = NMap.get (s.mem sp).cells (a + i) 0)))) ∧
    (s.accepts k { op := 0x0604, gen := 3, pf := true } = true → testAction k = 3 →
      Answers s k (exec (.fieldTestRead k) s) { status := Status.invalidParameter } fun t => t.cores = s.cores) ∧
    (s.accepts k { op := 0x0604, gen := 3, pf := true } = true → bf (k.par 0) 61 9 = 0 → testCore k < 384 → k.zeroFrom 1 = true →
      let c := testCore k
      (testAction k = 0 → Answers s k (exec (.fieldTestRead k) s) { status := Status.success, result := s.healthWord c } fun t =>
        t.cores = s.cores ∧ t.dbgCount = satN 40 (s.dbgCount + 1)) ∧
      (∀ i, (testAction k = 1 ∧ i = Instr.fieldTestRun k ∨ testAction k = 2 ∧ i = Instr.fieldTestReturn k ∧ (s.core c).removed = true) →
        (s.coreHeld c = true → Answers s k (exec i s) { status := Status.partitionBusy } fun t => t.cores = s.cores) ∧
        (s.coreHeld c = false → Waits s k (exec i s) fun t => t.dbgCount = satN 40 (s.dbgCount + 1) ∧
          ∃ x, (t.core c).test = some x ∧ k ∈ x.cmds)) ∧
      (testAction k = 2 → (s.core c).removed = false →
        Answers s k (exec (.fieldTestReturn k) s) { status := Status.invalidParameter } fun t => t.cores = s.cores))

/-- R490 to R494, R599 to R608, R617 to R621, R624: POWER_STATE with each STATE, SETTINGS_STAGE with the stages of Ethernet
ports and regions, SETTINGS_READ, STORE_SETTINGS and FIRMWARE_UPDATE. A POWER_STATE whose clusters need their wake time completes
when the last has woken. Completes: powerState, powerStateEnterQuiet, powerStateLeaveQuiet, settingsStage, ethPortStage,
ethRegionStage, ethRegionClear, settingsRead, storeSettings, firmwareUpdate. Model's choices: log entries 63, 75 and 122. -/
def Obligations.PowerAndSettingsCommands : Prop :=
  ∀ (s : State) (k : Cmd),
    let ok : Answer := { status := Status.success }
    let v := k.par 1
    let n := settingOf k
    (s.accepts k powerRow = true → powerParams k = true →
      (∀ l, powerTo k ≤ 2 → powerForm (k.unitAt 0) = true → s.resolve (k.unitAt 0) true = .ok l → wholeClusters (l.map (·.2)) = true →
        let cls := clustersHolding (l.map (·.2))
        let slice := fun cl => sliceFor (powerTo k) (powerDeck k) (s.cluster cl).deckPwr (s.clusterPart cl).isSome
        (∀ cl ∈ cls, slice cl ≠ none) →
        ((∃ c ∈ l, s.coreHeld c.2 = true) → Answers s k (exec (.powerState k) s) { status := Status.partitionBusy } fun t =>
          t.clusters = s.clusters ∧ t.cores = s.cores) ∧
        ((∀ c ∈ l, s.coreHeld c.2 = false) → (powerTo k ≠ 0 → ∀ cl ∈ cls, s.enginesIdle cl = true) →
          ∃ t, exec (.powerState k) s = .next t ∧
            (∀ cl ∈ cls, (t.cluster cl).pwr = powerName (powerTo k) ∧ some (t.cluster cl).deckPwr = slice cl) ∧
            (∀ cl, cl ∉ cls → (t.cluster cl).pwr = (s.cluster cl).pwr) ∧
            ((∀ cl ∈ cls, (t.cluster cl).wakeAt ≤ s.tick) → t.powerCmds = s.powerCmds ∧
              Completed s t k { status := Status.success, result := t.runMask }) ∧
            ((∃ cl ∈ cls, s.tick < (t.cluster cl).wakeAt) → (t.queue k.queue).done = (s.queue k.queue).done ∧
              ∃ due, t.powerCmds = s.powerCmds ++ [(due, k)] ∧ s.tick < due ∧ ∀ cl ∈ cls, (t.cluster cl).wakeAt ≤ due))) ∧
      (3 ≤ powerTo k ∧ powerTo k ≤ 7 ∨ 11 ≤ powerTo k →
        Answers s k (exec (.powerState k) s) { status := Status.invalidParameter } fun t => t.clusters = s.clusters) ∧
      (∀ d l, powerTo k = 8 ∨ powerTo k = 9 → powerDeck k = 0 → unitOf (k.unitAt 0) = .device d → s.resolve (k.unitAt 0) true = .ok l →
        (s.heldJobs ≠ [] → Answers s k (exec (.powerStateEnterQuiet k) s) { status := Status.partitionBusy } fun t => t.quiet = s.quiet) ∧
        (s.heldJobs = [] → s.streaming = false → (∀ cl < 48, s.enginesIdle cl = true) →
          Answers s k (exec (.powerStateEnterQuiet k) s) ok fun t => t.quiet = true ∧ (∀ i < 12, (t.stack i).selfRefresh = true) ∧
            (∀ cl < 48, (t.cluster cl).pwr = (if powerTo k = 8 then .retain else .off) ∧ (t.cluster cl).deckPwr = .retain) ∧
            (s.quiet = false → ∀ cl < 48, NMap.get t.quietBefore cl .run = (s.cluster cl).pwr))) ∧
      (∀ l, powerTo k = 10 → powerForm (k.unitAt 0) = true → s.resolve (k.unitAt 0) true = .ok l →
        ∃ t, exec (.powerStateLeaveQuiet k) s = .next t ∧ t.quiet = false ∧ (s.quiet = false → t.clusters = s.clusters) ∧
          (s.quiet = true → s.waitSegs = [] → ∀ cl < 48, (t.cluster cl).pwr = NMap.get s.quietBefore cl .run ∧
            (t.cluster cl).deckPwr = .on) ∧
          (s.waitSegs = [] → (∀ cl < 48, (t.cluster cl).wakeAt ≤ s.tick) → Completed s t k ok) ∧
          (s.waitSegs = [] → (∃ cl < 48, s.tick < (t.cluster cl).wakeAt) → (t.queue k.queue).done = (s.queue k.queue).done ∧
            ∃ due, t.powerCmds = s.powerCmds ++ [(due, k)] ∧ s.tick < due))) ∧
    (s.accepts k stageRow = true → k.topZero 0 16 = true → k.zeroFrom 2 = true →
      (n = 0x0001 → v.toNat ≤ 1 → Answers s k (exec (.settingsStage k) s) ok fun t => t.warmSetting = v) ∧
      (n = 0x0010 → v = errRouteWord v → Answers s k (exec (.settingsStage k) s) ok fun t => t.errRoute = v) ∧
      (n = 0x0020 → v = hbmCtlWord v → hbmCtlOk v = true → Answers s k (exec (.settingsStage k) s) ok fun t => t.hbmCtl = v) ∧
      (n = 0x0030 → v.toNat ≤ 6 → s.overlay = [] → s.heldJobs = [] →
        (∀ cl < 48, v.toNat + cacheMib (s.cluster cl).deckCfg ≤ 32 ∧
          s.deckMappedAbove cl (scratchUnder v.toNat (s.cluster cl).deckCfg) = false) →
        Answers s k (exec (.settingsStage k) s) ok fun t => t.overlayMib = v.toNat) ∧
      (∀ p < 16, n = 0x0100 + p → v &&& portCfgMask = v → portCfgOk v = true → s.joining = none →
        (s.portUsed p = true → Answers s k (exec (.settingsStage k) s) ok fun t => t.ports = s.ports) ∧
        (s.portUsed p = false → (s.port p).st ≠ .up → Answers s k (exec (.settingsStage k) s) ok fun t => (t.port p).cfg = v) ∧
        (s.portUsed p = false → (s.port p).st = .up → Answers s k (exec (.settingsStage k) s) ok fun t =>
          (bit v 0 = true → t.port p = s.port p) ∧ (bit v 0 = false → (t.port p).st = .down ∧ (t.port p).cfg = v))) ∧
      (n = 0x3E00 → v &&& 0xFF01 = v → Answers s k (exec (.settingsStage k) s) ok fun t => t.ftCtl = v) ∧
      (∀ i < 4, n = 0x3F10 + i → v.toNat < 2 ^ 32 → Answers s k (exec (.settingsStage k) s) ok fun t => NMap.get t.ethAddr i 0 = v) ∧
      (∀ i w, i < 4096 → 1 ≤ w → w < 4 → n = 0x4000 + 4 * i + w → regionWordOk w v = true →
        Answers s k (exec (.settingsStage k) s) ok fun t => t.regionWord i w = v ∧ t.regions = s.regions) ∧
      (ownStage n = false → n < 0x4000 → s.liveSetting n = none →
        Answers s k (exec (.settingsStage k) s) { status := Status.invalidParameter } fun t => t.ports = s.ports) ∧
      (∀ p < 2, n = 0x3F00 + p → v &&& 0xE3 = v → Answers s k (exec (.ethPortStage k) s) ok fun t =>
        (s.ethPortBusy p = false → t.ethPortWord p = v) ∧ (s.ethPortBusy p = true → t.ethPort = s.ethPort)) ∧
      (∀ i, regionStage k = some i → word0Ok k = true → bit v 63 = true →
        let r : Region := { w0 := v, w1 := s.regionWord i 1, w2 := s.regionWord i 2, w3 := s.regionWord i 3, clearing := [] }
        (s.region i = none → s.regionFits r = true → (∃ ls, s.translateEngine r.part r.base r.length (!r.egress) = .ok ls) →
          Answers s k (exec (.ethRegionStage k) s) ok fun t => t.region i = some r) ∧
        (s.regionFits r = false ∨ (∃ x, s.region i = some x ∧ (x.valid = true ∨ x.clearing ≠ [])) ∨
            (∃ e, s.translateEngine r.part r.base r.length (!r.egress) = .error e) →
          Answers s k (exec (.ethRegionStage k) s) { status := Status.invalidParameter } fun t => t.regions = s.regions)) ∧
      (∀ i r, regionStage k = some i → word0Ok k = true → bit v 63 = false → s.region i = some r → r.clearing = [] →
        (s.regionBusy i = true → Waits s k (exec (.ethRegionClear k) s) fun t => ∃ r', t.region i = some r' ∧ r'.valid = false ∧
          r'.clearing = [k]) ∧
        (s.regionBusy i = false → Answers s k (exec (.ethRegionClear k) s) ok fun t => ∃ r', t.region i = some r' ∧ r'.w0 = v ∧
          r'.clearing = []))) ∧
    (s.accepts k { op := 0x0702, gen := 1 } = true → k.topZero 0 17 = true → k.zeroFrom 1 = true →
      (s.liveSetting n = none →
        Answers s k (exec (.settingsRead k) s) { status := Status.invalidParameter } fun t => t.nvm = s.nvm) ∧
      ∀ x, s.liveSetting n = some x →
        (bit (k.par 0) 16 = false → Answers s k (exec (.settingsRead k) s) { status := Status.success, result := x.toNat } fun t => t.nvm = s.nvm) ∧
        (bit (k.par 0) 16 = true → Answers s k (exec (.settingsRead k) s)
          { status := Status.success, result := if n ∈ persistentSettings then (s.storedSetting n).toNat else 0 } fun t => t.nvm = s.nvm)) ∧
    (s.accepts k { op := 0x0703, gen := 1, pf := true, dev := true } = true → k.zeroFrom 0 = true →
      let same := s.nvm.valid && s.liveValues.all fun x => s.storedSetting x.1 = x.2
      let page := s.nvm.seq % 64
      (same = true → Answers s k (exec (.storeSettings k) s) { status := Status.success, count := s.nvm.most } fun t => t.nvm = s.nvm) ∧
      (same = false → 100000 ≤ NMap.get s.nvm.pageWrites page 0 →
        Answers s k (exec (.storeSettings k) s) { status := Status.notPermitted } fun t => t.nvm = s.nvm) ∧
      (same = false → NMap.get s.nvm.pageWrites page 0 < 100000 → ∃ m,
        Answers s k (exec (.storeSettings k) s) { status := Status.success, count := m } fun t => m = t.nvm.most ∧ t.nvm.valid = true ∧
          t.nvm.seq = s.nvm.seq + 1 ∧ NMap.get t.nvm.pageWrites page 0 = NMap.get s.nvm.pageWrites page 0 + 1 ∧
          ∀ x ∈ s.liveValues, t.storedSetting x.1 = x.2)) ∧
    (s.accepts k { op := 0x0704, gen := 2, pf := true, dev := true } = true → k.topZero 1 32 = true → k.topZero 2 1 = true → k.zeroFrom 3 = true →
      let scan := bit (k.par 2) 0
      let image := s.hostRead (k.par 0).toNat v.toNat
      let most := (if scan then 40 else 16) * 2 ^ 20
      (most < v.toNat → Answers s k (exec (.firmwareUpdate k) s) { status := Status.invalidParameter } fun t => t.flash = s.flash) ∧
      (v.toNat ≤ most → firmwareSigned image = false →
        Answers s k (exec (.firmwareUpdate k) s) { status := Status.signatureInvalid } fun t => t.flash = s.flash) ∧
      (v.toNat ≤ most → firmwareSigned image = true → s.recovery = false →
        Answers s k (exec (.firmwareUpdate k) s) ok fun t =>
          t.flash = (if scan then { s.flash with scan := image, scanOk := true } else { s.flash with firmware := image, firmwareOk := true }) ∧
            t.fwImage = s.fwImage) ∧
      (v.toNat ≤ most → firmwareSigned image = true → s.recovery = true → scan = false →
        ∃ t, exec (.firmwareUpdate k) s = .next t ∧ t.recovery = false ∧ t.fwImage = image ∧ t.jobs = []))

/-- R487 to R491, R495 to R497, R548, R638, R639, R449, R622: what arrives over Ethernet, PCI Express configuration and the
management bus. What the module sends on a link leaves at once unless its peer has paused the priority; a packet marked by ECN is
answered with a congestion notification first. Completes: connectionRequest, pfcPause, rdmaWriteReceive, mctpMessage,
configurationRequest, dynamicAddressAssignment. Model's choices: log entries 68, 69 and 79. -/
def Obligations.EthernetAndManagement : Prop :=
  ∀ (s : State), s.on = true →
    (∀ link peer, link < 4 → s.linkUsed link = true → NMap.get s.pfc link false = false →
      (∀ q, (List.range 256).find? (fun q => (s.qp link q).isNone) = some q →
        ∃ t x, exec (.connectionRequest link peer) s = .next t ∧ t.ethOut = s.ethOut ++ [.accept link (0x100 * (link + 1) + q)] ∧ t.qp link q = some x ∧ x.peer = peer) ∧
      ((∀ q < 256, s.qp link q ≠ none) →
        ∃ t, exec (.connectionRequest link peer) s = .next t ∧ t.ethOut = s.ethOut ++ [.reject link] ∧ t.qps = s.qps)) ∧
    (∀ link, link < 4 → s.linkUsed link = true →
      let own := s.ethWait.filter fun m => m.link = link
      (∃ t, exec (.pfcPause link (bf (s.ethPortWord (link / 2)) 7 5) true) s = .next t ∧ NMap.get t.pfc link false = true ∧
        t.ethOut = s.ethOut ∧ t.ethWait = s.ethWait) ∧
      ∃ t, exec (.pfcPause link (bf (s.ethPortWord (link / 2)) 7 5) false) s = .next t ∧ NMap.get t.pfc link false = false ∧
        t.ethOut = s.ethOut ++ own ∧ t.ethWait = s.ethWait.filter fun m => m.link ≠ link) ∧
    (∀ link peer, link < 4 → s.linkUsed link = true → NMap.get s.pfc link false = true →
      ∃ t m, exec (.connectionRequest link peer) s = .next t ∧ t.ethOut = s.ethOut ∧ t.ethWait = s.ethWait ++ [m] ∧ m.link = link) ∧
    (∀ link qp (q : QPair) (p : RocePacket), link < 4 → qp < 256 → s.qp link qp = some q → NMap.get s.pfc link false = false →
      let first : List EthMessage := if p.marked then [.congestion link qp] else []
      (p.psn ≠ q.expectPsn → exec (.rdmaWriteReceive link qp p) s = .next { s with ethOut := s.ethOut ++ first }) ∧
      (p.psn = q.expectPsn → p.other = true → ∃ t, exec (.rdmaWriteReceive link qp p) s = .next t ∧
        t.ethOut = s.ethOut ++ first ++ [.nakInvalid link qp p.psn] ∧ t.hbm = s.hbm) ∧
      (p.psn = q.expectPsn → p.other = false → p.first = true → p.last = true → p.payload.length = p.length → p.length ≤ 4096 →
        s.quiet = false → bf p.rkey 31 22 = s.device →
        let msg : QPair := { q with rkey := p.rkey, offset := p.offset, length := p.length }
        let r := s.region (bf p.rkey 11 0)
        (∀ c, s.nakCause link msg r = some c → ∃ t, exec (.rdmaWriteReceive link qp p) s = .next t ∧
          t.ethOut = s.ethOut ++ first ++ [.nakAccess link qp p.psn] ∧ t.hbm = s.hbm) ∧
        ∀ g, r = some g → s.nakCause link msg r = none → ∃ t, exec (.rdmaWriteReceive link qp p) s = .next t ∧
          t.ethOut = s.ethOut ++ first ++ [.ack link qp p.psn] ∧ (∃ x, t.qp link qp = some x ∧ x.expectPsn = (p.psn + 1) % 2 ^ 24) ∧
          ∀ ls h, (s.under (s.cached (.place (link / 2)))).translateEngine g.part (g.base + p.offset) p.length true = .ok ls →
            (∀ j < p.length / 32, (∃ l, ls.find? (fun l => decide (l.part = g.part) && l.covers (g.base + p.offset + 32 * j)) = some l ∧
              l.target (g.base + p.offset + 32 * j) = .hbm (h + 32 * j)) ∧ (s.stack (stackOf (h + 32 * j))).lost = false) →
            h % 32 = 0 → p.offset % 32 = 0 → p.length % 32 = 0 →
            ∀ j < p.length / 32, t.hbm.bytesAt (h / 32 + j) = (p.payload.drop (32 * j)).take 32)) ∧
    (∃ t, exec (.mctpMessage .control) s = .next t ∧ t.mctpOut = s.mctpOut ++ [.controlReply]) ∧
    (∃ t, exec (.mctpMessage .inventory) s = .next t ∧ t.mctpOut = s.mctpOut ++ [.inventory s.straps s.deviceId]) ∧
    (∃ t, exec (.mctpMessage .records) s = .next t ∧
      t.mctpOut = s.mctpOut ++ (if s.recovery then [] else s.errLog.map fun r => MctpOut.record Config.enterprise r)) ∧
    (∀ r, s.perst = false → s.ready = false → ∃ t x, exec (.configurationRequest r) s = .next t ∧ t.readOut = some x ∧ x.retry = true ∧
      t.sriov = s.sriov ∧ t.bar2Log2 = s.bar2Log2) ∧
    (s.perst = false → s.ready = true →
      (∃ t, exec (.configurationRequest .read) s = .next t ∧ t.readOut.isSome = true) ∧
      (∀ e n, n ≤ 16 → ∃ t, exec (.configurationRequest (.sriov e n)) s = .next t ∧ t.sriov = e ∧ t.vfs = if e then n else 0) ∧
      (∀ n ≤ 10, ∃ t, exec (.configurationRequest (.resizeBar2 n)) s = .next t ∧ t.bar2Log2 = n) ∧
      (∀ f en mask, s.hasFunction f = true → ∃ t, exec (.configurationRequest (.msix f en mask)) s = .next t ∧
        (t.msixOf f).enable = en ∧ (t.msixOf f).functionMask = mask ∧ (t.msixOf f).unmasked = (s.msixOf f).unmasked ∧
        (en = true → mask = true → t.msixOut = s.msixOut ∧ (t.msixOf f).waiting = (s.msixOf f).waiting) ∧
        (en = true → mask = false → t.msixOut = s.msixOut ++
          ((s.msixOf f).waiting.filter (s.msixOf f).unmasked.contains).map fun v => (f, v))) ∧
      ∀ f v mask, s.hasFunction f = true → v < msixVectors f → ∃ t, exec (.configurationRequest (.msixVector f v mask)) s = .next t ∧
        (mask = false → v ∈ (t.msixOf f).unmasked) ∧
        (∀ x, x ≠ v → (x ∈ (t.msixOf f).unmasked ↔ x ∈ (s.msixOf f).unmasked)) ∧
        (mask = false → (s.msixOf f).enable = true → (s.msixOf f).functionMask = false → v ∈ (s.msixOf f).waiting →
          (f, v) ∈ t.msixOut)) ∧
    (∀ a b, ∃ t, exec (.dynamicAddressAssignment (.setdasa a b)) s = .next t ∧
      t.i3cAddr = if a = 0x50 + s.straps.zeroExtend 7 then some b else s.i3cAddr) ∧
    (∀ b, ∃ t, exec (.dynamicAddressAssignment (.entdaa b)) s = .next t ∧ t.i3cAddr = some (s.i3cAddr.getD b))

/-- R486, R556, R579, R580, R597, R609 to R616, R621 to R623, R630, R645, R646: the resets and what they leave. A job whose units
work ends at a schedule tick of its own, and what waits for its end (the unmapping of host memory, a reset of the partition's cores)
follows. Completes: softReset, coldPowerOn, perst, perstDeassertion, functionLevelReset, scrubEnd, inputUndervoltage, bootReady.
Model's choices: log entries 65, 77, 78, 80, 92 and 106. -/
def Obligations.Resets : Prop :=
  ∀ (s : State),
    (∀ k : Cmd, s.accepts k { op := 0x0003, gen := 1, pf := true, dev := true } = true → k.zeroFrom 0 = true →
      ∃ t, exec (.softReset k) s = .next t ∧ t.tick = s.tick ∧ t.jobs = [] ∧ t.queues = [] ∧ t.leaves = [] ∧ t.groups = [] ∧
        t.tables = [] ∧ t.images = [] ∧ t.store = Mem.empty ∧ t.deck = Mem.empty ∧ t.hbm = Mem.empty ∧ t.imem = [] ∧
        (∀ c < 384, (t.core c).busyUntil = s.tick + 125) ∧
        t.assigned = false ∧ t.quiet = false ∧ t.dbgCount = s.dbgCount ∧ t.nvm = s.nvm ∧ t.flash = s.flash ∧ t.slipCount = s.slipCount) ∧
    (∀ b : BootInput, b.refValid = true → ∃ t, exec (.coldPowerOn b) s = .next t ∧ t.on = true ∧ t.tick = 0 ∧ t.jobs = [] ∧
      t.hbm = Mem.empty ∧ t.nvm.boots = min ringWrites (s.nvm.boots + 1) ∧ t.straps = b.straps ∧ t.idOk = b.pufOk ∧ t.dbgCount = 0 ∧ t.linkUp = !s.perst ∧
      t.recovery = !s.flash.firmwareOk ∧ (∀ c ∈ s.nvm.removed, (t.core c).removed = true) ∧
      (s.flash.firmwareOk = true → t.trainWait = none ∧ ∀ n < 12, bit b.trained n = false → (t.stack n).lost = true) ∧
      (s.flash.firmwareOk = false → t.trainWait = some b.trained)) ∧
    (∀ b : BootInput, b.refValid = false → ∃ t, exec (.coldPowerOn b) s = .next t ∧ t.on = false ∧ t.nvm = s.nvm) ∧
    (∀ kind, s.on = true → bit s.warmSetting 0 = true → ∃ t, exec (.perst kind) s = .next t ∧ t.warmFlag = true ∧
      (kind ≠ .hotReset → t.linkUp = false) ∧ (kind = .hotReset → s.perst = false → t.linkUp = true) ∧ (kind = .perst → t.perst = true) ∧
      ((∀ j b, s.job j = some b → s.hostBound (partOf j) = false) → ∀ l ∈ t.leaves, l.isHost = false) ∧
      ((∃ l ∈ t.leaves, l.isHost = true) → t.hostUnmap = true ∧ ∃ j b, t.job j = some b ∧ s.hostBound (partOf j) = true) ∧
      t.sriov = false ∧ t.tick = s.tick ∧ (∀ q, (t.queue q).st = .absent) ∧
      ∀ j b, s.job j = some b → s.hostBound (partOf j) = false → s.protected_ (partOf j) = false → ∃ b', t.job j = some b') ∧
    (∀ kind, s.on = true → bit s.warmSetting 0 = false → ∃ t, exec (.perst kind) s = .next t ∧ t.jobs = [] ∧ t.queues = [] ∧
      t.leaves = [] ∧ t.hbm = Mem.empty ∧ t.sriov = false ∧ t.tick = s.tick ∧ t.warmFlag = false) ∧
    (s.perst = true → ∃ t, exec .perstDeassertion s = .next t ∧ t.perst = false ∧ t.jobs = s.jobs ∧
      (s.on = true → t.linkUp = true ∧ t.linkGen ∈ [5, 6, 7] ∧ t.linkWidth ∈ [1, 2, 4])) ∧
    (∀ f, f < 17 → f ≠ 0 → s.on = true → s.sriov = true → f ≤ s.vfs → ∃ t, exec (.functionLevelReset f) s = .next t ∧
      (∀ q, (s.queue q).fn = f → (s.queue q).st ≠ .absent → (t.queue q).st = .absent) ∧
      (s.partJobs (f - 1) = [] → (t.part (f - 1)).resets = []) ∧
      ((t.part (f - 1)).resets = [] → ∀ j, partOf j = f - 1 → t.job j = none) ∧
      t.msixOf f = Msix.reset ∧ (t.part (f - 1)).joins = [] ∧ (t.part (f - 1)).batchQ = [] ∧ t.tick = s.tick) ∧
    (∀ p, p < 16 → (s.part p).scrub = true → s.partJobs p = [] → ∃ t, exec (.scrubEnd p) s = .next t ∧ (t.part p).scrub = false ∧
      (∀ x ∈ t.packages, x.part ≠ p) ∧
      (∀ cl ∈ s.partClusters p, (∀ i < 2 ^ 25, NMap.get t.deck.cells (deckAddr cl i) 0 = 0) ∧
        ∀ i < 2 ^ 22, NMap.get t.store.cells (storeAddr (8 * cl) i) 0 = 0) ∧
      ∀ i, (∃ x ∈ recRanges (s.part p).recWords, x.1 * 2 ^ 23 ≤ i ∧ i < x.2 * 2 ^ 23) → bit (NMap.get t.hbm.tags i 0) 6 = false) ∧
    (∀ n, 10000 ≤ n → ∃ t, exec (.inputUndervoltage n) s = .next t ∧ t.on = false ∧ t.jobs = [] ∧ t.nvm = s.nvm) ∧
    (∀ n, n < 10000 → exec (.inputUndervoltage n) s = .next s) ∧
    (s.on = true → s.perst = false → s.recovery = false → exec .bootReady s = .next { s with ready := true })

/-! ### The queue, reset and every step -/

/-- The block's own step: with a command at the front of the queue, a step is that command's meaning on the state with the queue's
rest. With no command waiting it is one tick boundary (log entry 3, a DESIGN CHOICE of the model), which leaves the queue empty
and, while the module is powered with a valid reference, advances TICK by one; with the reference lost (R62, log entry 106) nothing
moves. -/
def Obligations.StepRunsFront : Prop :=
  (∀ (s : State) (c : Instr) (rest : List Instr), step { s with pending := c :: rest } = exec c { s with pending := rest }) ∧
    ∀ s : State, s.pending = [] → ∃ t, step s = .next t ∧ t.pending = [] ∧
      (s.on = true → s.refLost = false → t.tick = s.tick + 1) ∧ (s.on = false ∨ s.refLost = true → t = s)

/-- R59, R64, R70, R78, R342, R408, R613, R616: the state after reset keeps the invariant, and holds the reset values that the
spec gives: nothing running, nothing mapped, no queue, no port up, the settings at their reset values. Model's choices: log
entry 2. -/
def Obligations.ResetState : Prop :=
  let s := State.reset
  s.Inv ∧ s.pending = [] ∧ s.tick = 0 ∧ s.jobs = [] ∧ s.queues = [] ∧ s.leaves = [] ∧ s.tables = [] ∧ s.overlay = [] ∧ s.images = [] ∧
    s.assigned = false ∧ s.errRoute = errRouteReset ∧ s.hbmCtl = hbmCtlReset ∧ s.ftCtl = ftCtlReset ∧ s.warmSetting = 0 ∧
    s.overlayMib = 0 ∧ s.errNumber = 0 ∧ s.dbgCount = 0 ∧ s.quiet = false ∧ s.sriov = false ∧ s.idOk = true ∧ s.msix = [] ∧ s.postsDue = [] ∧ s.linkUp = false ∧
    (∀ p, (s.port p).st = .down ∧ (s.port p).cfg = portCfgReset) ∧ (∀ c, (s.core c).removed = false ∧ (s.core c).groups = []) ∧
    (∀ n, (s.groupE n).st = .free) ∧ (∀ w, bit (s.window w).w0 63 = false) ∧
    ∀ c g, (s.grp c g).stack = [] ∧ (s.grp c g).flags = 0 ∧ (s.grp c g).pc = 0

/-- Every step, whatever the command: the memories stay in their canonical form and no page of the NVM ring is written more than
100,000 times (R621); and the step takes exactly the command at the front of the queue. -/
def Obligations.EveryStep : Prop :=
  ∀ s t : State, s.Inv → step s = .next t → t.Inv ∧ t.pending = s.pending.drop 1
end

