-- ==== Sys2Proof/Laws/Maps.lean ====
section
/-!
SUPPORT. The laws of finite maps: a read after a write, and the canonical form that every operation keeps. Each proof follows the
map's own recursion, entry by entry.
-/

namespace Sys2Proof

variable {α : Type}

/-! ### Reading after an update -/

@[simp] theorem NMap.get_nil (k : Nat) (d : α) : NMap.get ([] : NMap α) k d = d := rfl

/-- What a map answers beside its first entry's key. -/
theorem NMap.get_cons (k' : Nat) (v : α) (t : NMap α) (k : Nat) (d : α) :
    NMap.get ((k', v) :: t) k d = if k' = k then v else NMap.get t k d := rfl

/-- A key taken out answers the default; every other key answers as before. -/
theorem NMap.get_erase (k j : Nat) (d : α) : ∀ m : NMap α, NMap.get (NMap.erase m k) j d = if j = k then d else NMap.get m j d
  | [] => by simp [NMap.erase]
  | (a, v) :: t => by
    have rest := NMap.get_erase k j d t
    rcases eq_or_ne a k with rfl | ha
    · simp only [NMap.erase, if_true, rest, NMap.get_cons]
      by_cases h : j = a
      · rw [if_pos h, if_pos h]
      · rw [if_neg h, if_neg h, if_neg (Ne.symm h)]
    · simp only [NMap.erase, if_neg ha, NMap.get_cons, rest]
      split <;> split <;> simp_all

@[simp] theorem NMap.get_erase_same (m : NMap α) (k : Nat) (d : α) : NMap.get (NMap.erase m k) k d = d := by simp [NMap.get_erase]

theorem NMap.get_erase_other (m : NMap α) {k j : Nat} (d : α) (h : j ≠ k) : NMap.get (NMap.erase m k) j d = NMap.get m j d := by
  simp [NMap.get_erase, h]

/-- A key put in answers its value where the map had no entry of it; every other key answers as before. -/
theorem NMap.get_insert (k j : Nat) (v d : α) : ∀ m : NMap α, (∀ e ∈ m, e.1 ≠ k) →
    NMap.get (NMap.insert m k v) j d = if j = k then v else NMap.get m j d
  | [], _ => if_congr eq_comm rfl rfl
  | (a, w) :: t, fresh => by
    have ha : a ≠ k := fresh _ (List.mem_cons_self ..)
    have rest := NMap.get_insert k j v d t fun e he => fresh e (List.mem_cons_of_mem _ he)
    unfold NMap.insert
    by_cases hj : j = k
    · subst hj
      split <;> simp only [NMap.get_cons, rest, if_true, if_neg ha]
    · split <;> simp only [NMap.get_cons, rest, if_neg hj, if_neg (Ne.symm hj)]

theorem NMap.erase_keys (m : NMap α) (k : Nat) : ∀ e ∈ NMap.erase m k, e.1 ≠ k :=
  match m with
  | [] => nofun
  | (a, v) :: t => fun e he => by
    unfold NMap.erase at he
    split at he
    · exact NMap.erase_keys t k e he
    · rcases List.mem_cons.mp he with rfl | he
      · assumption
      · exact NMap.erase_keys t k e he

variable [DecidableEq α]

theorem NMap.get_set (m : NMap α) (k j : Nat) (v d : α) :
    NMap.get (NMap.set m k v d) j d = if j = k then v else NMap.get m j d := by
  unfold NMap.set
  split
  · subst v; exact NMap.get_erase k j d m
  · rw [NMap.get_insert _ _ _ _ _ (NMap.erase_keys m k), NMap.get_erase]
    split <;> rfl

@[simp] theorem NMap.get_set_same (m : NMap α) (k : Nat) (v d : α) : NMap.get (NMap.set m k v d) k d = v := by simp [NMap.get_set]

theorem NMap.get_set_other (m : NMap α) {k j : Nat} (v d : α) (h : j ≠ k) :
    NMap.get (NMap.set m k v d) j d = NMap.get m j d := by simp [NMap.get_set, h]

/-! ### The canonical form -/

/-- A map in canonical form behind a bound: the first key lies above the bound, its value is no default, the rest follows it. -/
theorem NMap.wfFrom_cons {d : α} {lo : Option Nat} {k : Nat} {v : α} {t : NMap α} :
    NMap.wfFrom d lo ((k, v) :: t) = true ↔ (∀ a, lo = some a → a < k) ∧ v ≠ d ∧ NMap.wfFrom d (some k) t = true := by
  cases lo <;> simp [NMap.wfFrom, and_assoc]

/-- A weaker bound serves as well. -/
theorem NMap.wfFrom_mono {d : α} {lo hi : Option Nat} (bound : ∀ a, lo = some a → ∃ b, hi = some b ∧ a ≤ b) :
    ∀ m : NMap α, NMap.wfFrom d hi m = true → NMap.wfFrom d lo m = true
  | [], _ => rfl
  | (k, v) :: t, h => by
    obtain ⟨first, value, rest⟩ := NMap.wfFrom_cons.mp h
    refine NMap.wfFrom_cons.mpr ⟨fun a ha => ?_, value, rest⟩
    obtain ⟨b, hb, hab⟩ := bound a ha
    exact Nat.lt_of_le_of_lt hab (first b hb)

/-- The rest of a map in canonical form has it behind the same bound. -/
theorem NMap.wfFrom_tail {d : α} {lo : Option Nat} {k : Nat} {v : α} {t : NMap α} (h : NMap.wfFrom d lo ((k, v) :: t) = true)
    {u : NMap α} (hu : NMap.wfFrom d (some k) u = true) : NMap.wfFrom d lo u = true :=
  NMap.wfFrom_mono (fun a ha => ⟨k, rfl, Nat.le_of_lt ((NMap.wfFrom_cons.mp h).1 a ha)⟩) u hu

theorem NMap.wfFrom_erase {d : α} (k : Nat) : ∀ {m : NMap α} {lo : Option Nat}, NMap.wfFrom d lo m = true →
    NMap.wfFrom d lo (NMap.erase m k) = true
  | [], _, _ => rfl
  | (a, v) :: t, lo, h => by
    obtain ⟨first, value, rest⟩ := NMap.wfFrom_cons.mp h
    unfold NMap.erase
    split
    · exact NMap.wfFrom_tail h (NMap.wfFrom_erase k rest)
    · exact NMap.wfFrom_cons.mpr ⟨first, value, NMap.wfFrom_erase k rest⟩

theorem NMap.wfFrom_insert {d : α} {k : Nat} {v : α} (hv : v ≠ d) : ∀ {m : NMap α} {lo : Option Nat}, (∀ a, lo = some a → a < k) →
    (∀ e ∈ m, e.1 ≠ k) → NMap.wfFrom d lo m = true → NMap.wfFrom d lo (NMap.insert m k v) = true
  | [], _, above, _, _ => NMap.wfFrom_cons.mpr ⟨above, hv, rfl⟩
  | (a, w) :: t, lo, above, fresh, h => by
    obtain ⟨first, value, rest⟩ := NMap.wfFrom_cons.mp h
    have ha : a ≠ k := fresh _ (List.mem_cons_self ..)
    unfold NMap.insert
    split
    · exact NMap.wfFrom_cons.mpr ⟨above, hv, NMap.wfFrom_cons.mpr ⟨fun b hb => by cases hb; assumption, value, rest⟩⟩
    · refine NMap.wfFrom_cons.mpr ⟨first, value, NMap.wfFrom_insert hv (fun b hb => ?_) (fun e he => fresh e (List.mem_cons_of_mem _ he)) rest⟩
      cases hb; omega

/-- Every update keeps the canonical form. -/
theorem NMap.wf_set {d : α} {m : NMap α} (k : Nat) (v : α) (h : NMap.wf d m = true) : NMap.wf d (NMap.set m k v d) = true := by
  unfold NMap.wf NMap.set at *
  split
  · exact NMap.wfFrom_erase k h
  · exact NMap.wfFrom_insert ‹_› (fun _ => nofun) (NMap.erase_keys m k) (NMap.wfFrom_erase k h)

/-- Entries taken out of a map keep the canonical form. -/
theorem NMap.wfFrom_filter {d : α} (p : Nat × α → Bool) : ∀ {m : NMap α} {lo : Option Nat}, NMap.wfFrom d lo m = true →
    NMap.wfFrom d lo (List.filter p m) = true
  | [], _, _ => rfl
  | (a, v) :: t, lo, h => by
    obtain ⟨first, value, rest⟩ := NMap.wfFrom_cons.mp h
    rw [List.filter_cons]
    split
    · exact NMap.wfFrom_cons.mpr ⟨first, value, NMap.wfFrom_filter p rest⟩
    · exact NMap.wfFrom_tail h (NMap.wfFrom_filter p rest)

theorem NMap.wf_filter {d : α} {m : NMap α} (p : Nat × α → Bool) (h : NMap.wf d m = true) :
    NMap.wf d (List.filter p m) = true := NMap.wfFrom_filter p h

end Sys2Proof
end

