-- ==== Sys2Proof/Laws/State.lean ====
section
/-!
SUPPORT. What each update of one unit of the state leaves: one lemma for each update and field, true by rfl, and the updates
that modify a unit written as the update that sets it. Tagged for simp, so that no proof unfolds a record update.
-/

namespace Sys2Proof.Machine

open Sys2Proof

/-! ### Updates by a function, as updates by a value -/

@[simp] theorem State.modCore_eq (s : State) (c : Nat) (f : Core → Core) : s.modCore c f = s.setCore c (f (s.core c)) := rfl
@[simp] theorem State.setGrp_eq (s : State) (c g : Nat) (v : Grp) : s.setGrp c g v = s.setCore c ((s.core c).setGrp g v) := rfl
@[simp] theorem State.modGrp_eq (s : State) (c g : Nat) (f : Grp → Grp) :
    s.modGrp c g f = s.setCore c ((s.core c).setGrp g (f ((s.core c).grp g))) := rfl
@[simp] theorem State.modArr_eq (s : State) (c : Nat) (f : Arr → Arr) :
    s.modArr c f = s.setCore c { s.core c with arr := f (s.core c).arr } := rfl
@[simp] theorem State.modCluster_eq (s : State) (c : Nat) (f : Cluster → Cluster) :
    s.modCluster c f = s.setCluster c (f (s.cluster c)) := rfl

/-! ### The parts of a core -/

section
variable (k : Core) (g : Nat) (v : Grp)

@[simp] theorem Core.setGrp_arr : (k.setGrp g v).arr = k.arr := rfl
@[simp] theorem Core.setGrp_fixed : (k.setGrp g v).fixed = k.fixed := rfl
@[simp] theorem Core.setGrp_ring : (k.setGrp g v).ring = k.ring := rfl
@[simp] theorem Core.setGrp_bulk : (k.setGrp g v).bulk = k.bulk := rfl
@[simp] theorem Core.setGrp_nextId : (k.setGrp g v).nextId = k.nextId := rfl
@[simp] theorem Core.setGrp_busyUntil : (k.setGrp g v).busyUntil = k.busyUntil := rfl
@[simp] theorem Core.setGrp_removed : (k.setGrp g v).removed = k.removed := rfl
@[simp] theorem Core.setGrp_suspect : (k.setGrp g v).suspect = k.suspect := rfl
@[simp] theorem Core.setGrp_passed : (k.setGrp g v).passed = k.passed := rfl
@[simp] theorem Core.setGrp_suspects : (k.setGrp g v).suspects = k.suspects := rfl
@[simp] theorem Core.setGrp_segment : (k.setGrp g v).segment = k.segment := rfl
@[simp] theorem Core.setGrp_test : (k.setGrp g v).test = k.test := rfl
@[simp] theorem Core.setGrp_lastTest : (k.setGrp g v).lastTest = k.lastTest := rfl
@[simp] theorem Core.setGrp_cnt : (k.setGrp g v).cnt = k.cnt := rfl

end

/-! ### setCore -/

section
variable (s : State) (c : Nat) (v : Core)

@[simp] theorem State.setCore_pending : (s.setCore c v).pending = s.pending := rfl
@[simp] theorem State.setCore_fresh : (s.setCore c v).fresh = s.fresh := rfl
@[simp] theorem State.setCore_tick : (s.setCore c v).tick = s.tick := rfl
@[simp] theorem State.setCore_tsLatch : (s.setCore c v).tsLatch = s.tsLatch := rfl
@[simp] theorem State.setCore_slipCount : (s.setCore c v).slipCount = s.slipCount := rfl
@[simp] theorem State.setCore_slipTicks : (s.setCore c v).slipTicks = s.slipTicks := rfl
@[simp] theorem State.setCore_assigned : (s.setCore c v).assigned = s.assigned := rfl
@[simp] theorem State.setCore_device : (s.setCore c v).device = s.device := rfl
@[simp] theorem State.setCore_failedAll : (s.setCore c v).failedAll = s.failedAll := rfl
@[simp] theorem State.setCore_framesStopped : (s.setCore c v).framesStopped = s.framesStopped := rfl
@[simp] theorem State.setCore_clocksStopped : (s.setCore c v).clocksStopped = s.clocksStopped := rfl
@[simp] theorem State.setCore_refLost : (s.setCore c v).refLost = s.refLost := rfl
@[simp] theorem State.setCore_groups : (s.setCore c v).groups = s.groups := rfl
@[simp] theorem State.setCore_clusters : (s.setCore c v).clusters = s.clusters := rfl
@[simp] theorem State.setCore_store : (s.setCore c v).store = s.store := rfl
@[simp] theorem State.setCore_deck : (s.setCore c v).deck = s.deck := rfl
@[simp] theorem State.setCore_hbm : (s.setCore c v).hbm = s.hbm := rfl
@[simp] theorem State.setCore_imem : (s.setCore c v).imem = s.imem := rfl
@[simp] theorem State.setCore_host : (s.setCore c v).host = s.host := rfl
@[simp] theorem State.setCore_tlbs : (s.setCore c v).tlbs = s.tlbs := rfl
@[simp] theorem State.setCore_leaves : (s.setCore c v).leaves = s.leaves := rfl
@[simp] theorem State.setCore_ptables : (s.setCore c v).ptables = s.ptables := rfl
@[simp] theorem State.setCore_windows : (s.setCore c v).windows = s.windows := rfl
@[simp] theorem State.setCore_invals : (s.setCore c v).invals = s.invals := rfl
@[simp] theorem State.setCore_winClears : (s.setCore c v).winClears = s.winClears := rfl
@[simp] theorem State.setCore_tables : (s.setCore c v).tables = s.tables := rfl
@[simp] theorem State.setCore_overlay : (s.setCore c v).overlay = s.overlay := rfl
@[simp] theorem State.setCore_overlayMib : (s.setCore c v).overlayMib = s.overlayMib := rfl
@[simp] theorem State.setCore_folds : (s.setCore c v).folds = s.folds := rfl
@[simp] theorem State.setCore_retires : (s.setCore c v).retires = s.retires := rfl
@[simp] theorem State.setCore_lockedTables : (s.setCore c v).lockedTables = s.lockedTables := rfl
@[simp] theorem State.setCore_lockedGroups : (s.setCore c v).lockedGroups = s.lockedGroups := rfl
@[simp] theorem State.setCore_hbmStacks : (s.setCore c v).hbmStacks = s.hbmStacks := rfl
@[simp] theorem State.setCore_hbmCtl : (s.setCore c v).hbmCtl = s.hbmCtl := rfl
@[simp] theorem State.setCore_ports : (s.setCore c v).ports = s.ports := rfl
@[simp] theorem State.setCore_fabricOn : (s.setCore c v).fabricOn = s.fabricOn := rfl
@[simp] theorem State.setCore_fabric : (s.setCore c v).fabric = s.fabric := rfl
@[simp] theorem State.setCore_joining : (s.setCore c v).joining = s.joining := rfl
@[simp] theorem State.setCore_ceil : (s.setCore c v).ceil = s.ceil := rfl
@[simp] theorem State.setCore_rxStreams : (s.setCore c v).rxStreams = s.rxStreams := rfl
@[simp] theorem State.setCore_relayQ : (s.setCore c v).relayQ = s.relayQ := rfl
@[simp] theorem State.setCore_waitSegs : (s.setCore c v).waitSegs = s.waitSegs := rfl
@[simp] theorem State.setCore_mcPrep : (s.setCore c v).mcPrep = s.mcPrep := rfl
@[simp] theorem State.setCore_mcRoot : (s.setCore c v).mcRoot = s.mcRoot := rfl
@[simp] theorem State.setCore_mcCoord : (s.setCore c v).mcCoord = s.mcCoord := rfl
@[simp] theorem State.setCore_mcNext : (s.setCore c v).mcNext = s.mcNext := rfl
@[simp] theorem State.setCore_mcOut : (s.setCore c v).mcOut = s.mcOut := rfl
@[simp] theorem State.setCore_failedDevs : (s.setCore c v).failedDevs = s.failedDevs := rfl
@[simp] theorem State.setCore_failedSeen : (s.setCore c v).failedSeen = s.failedSeen := rfl
@[simp] theorem State.setCore_sensors : (s.setCore c v).sensors = s.sensors := rfl
@[simp] theorem State.setCore_powerWindows : (s.setCore c v).powerWindows = s.powerWindows := rfl
@[simp] theorem State.setCore_notices : (s.setCore c v).notices = s.notices := rfl
@[simp] theorem State.setCore_ready : (s.setCore c v).ready = s.ready := rfl
@[simp] theorem State.setCore_warmFlag : (s.setCore c v).warmFlag = s.warmFlag := rfl
@[simp] theorem State.setCore_bar2Base : (s.setCore c v).bar2Base = s.bar2Base := rfl
@[simp] theorem State.setCore_bar2Log2 : (s.setCore c v).bar2Log2 = s.bar2Log2 := rfl
@[simp] theorem State.setCore_errRoute : (s.setCore c v).errRoute = s.errRoute := rfl
@[simp] theorem State.setCore_errRing : (s.setCore c v).errRing = s.errRing := rfl
@[simp] theorem State.setCore_errDropped : (s.setCore c v).errDropped = s.errDropped := rfl
@[simp] theorem State.setCore_errTail : (s.setCore c v).errTail = s.errTail := rfl
@[simp] theorem State.setCore_errHead : (s.setCore c v).errHead = s.errHead := rfl
@[simp] theorem State.setCore_queues : (s.setCore c v).queues = s.queues := rfl
@[simp] theorem State.setCore_admin : (s.setCore c v).admin = s.admin := rfl
@[simp] theorem State.setCore_msixOut : (s.setCore c v).msixOut = s.msixOut := rfl
@[simp] theorem State.setCore_sriov : (s.setCore c v).sriov = s.sriov := rfl
@[simp] theorem State.setCore_vfs : (s.setCore c v).vfs = s.vfs := rfl
@[simp] theorem State.setCore_linkUp : (s.setCore c v).linkUp = s.linkUp := rfl
@[simp] theorem State.setCore_linkGen : (s.setCore c v).linkGen = s.linkGen := rfl
@[simp] theorem State.setCore_linkWidth : (s.setCore c v).linkWidth = s.linkWidth := rfl
@[simp] theorem State.setCore_msix : (s.setCore c v).msix = s.msix := rfl
@[simp] theorem State.setCore_hostWork : (s.setCore c v).hostWork = s.hostWork := rfl
@[simp] theorem State.setCore_postsDue : (s.setCore c v).postsDue = s.postsDue := rfl
@[simp] theorem State.setCore_storeLog : (s.setCore c v).storeLog = s.storeLog := rfl
@[simp] theorem State.setCore_crossFixed : (s.setCore c v).crossFixed = s.crossFixed := rfl
@[simp] theorem State.setCore_perst : (s.setCore c v).perst = s.perst := rfl
@[simp] theorem State.setCore_heldOut : (s.setCore c v).heldOut = s.heldOut := rfl
@[simp] theorem State.setCore_readOut : (s.setCore c v).readOut = s.readOut := rfl
@[simp] theorem State.setCore_ethPort : (s.setCore c v).ethPort = s.ethPort := rfl
@[simp] theorem State.setCore_ethAddr : (s.setCore c v).ethAddr = s.ethAddr := rfl
@[simp] theorem State.setCore_ethWords : (s.setCore c v).ethWords = s.ethWords := rfl
@[simp] theorem State.setCore_regions : (s.setCore c v).regions = s.regions := rfl
@[simp] theorem State.setCore_qps : (s.setCore c v).qps = s.qps := rfl
@[simp] theorem State.setCore_pfc : (s.setCore c v).pfc = s.pfc := rfl
@[simp] theorem State.setCore_ethOut : (s.setCore c v).ethOut = s.ethOut := rfl
@[simp] theorem State.setCore_ethWait : (s.setCore c v).ethWait = s.ethWait := rfl
@[simp] theorem State.setCore_parts : (s.setCore c v).parts = s.parts := rfl
@[simp] theorem State.setCore_jobs : (s.setCore c v).jobs = s.jobs := rfl
@[simp] theorem State.setCore_images : (s.setCore c v).images = s.images := rfl
@[simp] theorem State.setCore_errNumber : (s.setCore c v).errNumber = s.errNumber := rfl
@[simp] theorem State.setCore_errLog : (s.setCore c v).errLog = s.errLog := rfl
@[simp] theorem State.setCore_errHold : (s.setCore c v).errHold = s.errHold := rfl
@[simp] theorem State.setCore_mctpOut : (s.setCore c v).mctpOut = s.mctpOut := rfl
@[simp] theorem State.setCore_lookCmds : (s.setCore c v).lookCmds = s.lookCmds := rfl
@[simp] theorem State.setCore_stopsOut : (s.setCore c v).stopsOut = s.stopsOut := rfl
@[simp] theorem State.setCore_shardOut : (s.setCore c v).shardOut = s.shardOut := rfl
@[simp] theorem State.setCore_ftCtl : (s.setCore c v).ftCtl = s.ftCtl := rfl
@[simp] theorem State.setCore_idOk : (s.setCore c v).idOk = s.idOk := rfl
@[simp] theorem State.setCore_jobKeys : (s.setCore c v).jobKeys = s.jobKeys := rfl
@[simp] theorem State.setCore_packages : (s.setCore c v).packages = s.packages := rfl
@[simp] theorem State.setCore_dbgCount : (s.setCore c v).dbgCount = s.dbgCount := rfl
@[simp] theorem State.setCore_quiet : (s.setCore c v).quiet = s.quiet := rfl
@[simp] theorem State.setCore_quietBefore : (s.setCore c v).quietBefore = s.quietBefore := rfl
@[simp] theorem State.setCore_quietTicks : (s.setCore c v).quietTicks = s.quietTicks := rfl
@[simp] theorem State.setCore_pllOff : (s.setCore c v).pllOff = s.pllOff := rfl
@[simp] theorem State.setCore_powerCmds : (s.setCore c v).powerCmds = s.powerCmds := rfl
@[simp] theorem State.setCore_hostUnmap : (s.setCore c v).hostUnmap = s.hostUnmap := rfl
@[simp] theorem State.setCore_trainWait : (s.setCore c v).trainWait = s.trainWait := rfl
@[simp] theorem State.setCore_warmSetting : (s.setCore c v).warmSetting = s.warmSetting := rfl
@[simp] theorem State.setCore_nvm : (s.setCore c v).nvm = s.nvm := rfl
@[simp] theorem State.setCore_flash : (s.setCore c v).flash = s.flash := rfl
@[simp] theorem State.setCore_fwImage : (s.setCore c v).fwImage = s.fwImage := rfl
@[simp] theorem State.setCore_recovery : (s.setCore c v).recovery = s.recovery := rfl
@[simp] theorem State.setCore_powered : (s.setCore c v).powered = s.powered := rfl
@[simp] theorem State.setCore_crossErr : (s.setCore c v).crossErr = s.crossErr := rfl
@[simp] theorem State.setCore_refOk : (s.setCore c v).refOk = s.refOk := rfl
@[simp] theorem State.setCore_straps : (s.setCore c v).straps = s.straps := rfl
@[simp] theorem State.setCore_i3cAddr : (s.setCore c v).i3cAddr = s.i3cAddr := rfl

end

/-! ### setCluster -/

section
variable (s : State) (c : Nat) (v : Cluster)

@[simp] theorem State.setCluster_pending : (s.setCluster c v).pending = s.pending := rfl
@[simp] theorem State.setCluster_fresh : (s.setCluster c v).fresh = s.fresh := rfl
@[simp] theorem State.setCluster_tick : (s.setCluster c v).tick = s.tick := rfl
@[simp] theorem State.setCluster_tsLatch : (s.setCluster c v).tsLatch = s.tsLatch := rfl
@[simp] theorem State.setCluster_slipCount : (s.setCluster c v).slipCount = s.slipCount := rfl
@[simp] theorem State.setCluster_slipTicks : (s.setCluster c v).slipTicks = s.slipTicks := rfl
@[simp] theorem State.setCluster_assigned : (s.setCluster c v).assigned = s.assigned := rfl
@[simp] theorem State.setCluster_device : (s.setCluster c v).device = s.device := rfl
@[simp] theorem State.setCluster_failedAll : (s.setCluster c v).failedAll = s.failedAll := rfl
@[simp] theorem State.setCluster_framesStopped : (s.setCluster c v).framesStopped = s.framesStopped := rfl
@[simp] theorem State.setCluster_clocksStopped : (s.setCluster c v).clocksStopped = s.clocksStopped := rfl
@[simp] theorem State.setCluster_refLost : (s.setCluster c v).refLost = s.refLost := rfl
@[simp] theorem State.setCluster_groups : (s.setCluster c v).groups = s.groups := rfl
@[simp] theorem State.setCluster_cores : (s.setCluster c v).cores = s.cores := rfl
@[simp] theorem State.setCluster_store : (s.setCluster c v).store = s.store := rfl
@[simp] theorem State.setCluster_deck : (s.setCluster c v).deck = s.deck := rfl
@[simp] theorem State.setCluster_hbm : (s.setCluster c v).hbm = s.hbm := rfl
@[simp] theorem State.setCluster_imem : (s.setCluster c v).imem = s.imem := rfl
@[simp] theorem State.setCluster_host : (s.setCluster c v).host = s.host := rfl
@[simp] theorem State.setCluster_tlbs : (s.setCluster c v).tlbs = s.tlbs := rfl
@[simp] theorem State.setCluster_leaves : (s.setCluster c v).leaves = s.leaves := rfl
@[simp] theorem State.setCluster_ptables : (s.setCluster c v).ptables = s.ptables := rfl
@[simp] theorem State.setCluster_windows : (s.setCluster c v).windows = s.windows := rfl
@[simp] theorem State.setCluster_invals : (s.setCluster c v).invals = s.invals := rfl
@[simp] theorem State.setCluster_winClears : (s.setCluster c v).winClears = s.winClears := rfl
@[simp] theorem State.setCluster_tables : (s.setCluster c v).tables = s.tables := rfl
@[simp] theorem State.setCluster_overlay : (s.setCluster c v).overlay = s.overlay := rfl
@[simp] theorem State.setCluster_overlayMib : (s.setCluster c v).overlayMib = s.overlayMib := rfl
@[simp] theorem State.setCluster_folds : (s.setCluster c v).folds = s.folds := rfl
@[simp] theorem State.setCluster_retires : (s.setCluster c v).retires = s.retires := rfl
@[simp] theorem State.setCluster_lockedTables : (s.setCluster c v).lockedTables = s.lockedTables := rfl
@[simp] theorem State.setCluster_lockedGroups : (s.setCluster c v).lockedGroups = s.lockedGroups := rfl
@[simp] theorem State.setCluster_hbmStacks : (s.setCluster c v).hbmStacks = s.hbmStacks := rfl
@[simp] theorem State.setCluster_hbmCtl : (s.setCluster c v).hbmCtl = s.hbmCtl := rfl
@[simp] theorem State.setCluster_ports : (s.setCluster c v).ports = s.ports := rfl
@[simp] theorem State.setCluster_fabricOn : (s.setCluster c v).fabricOn = s.fabricOn := rfl
@[simp] theorem State.setCluster_fabric : (s.setCluster c v).fabric = s.fabric := rfl
@[simp] theorem State.setCluster_joining : (s.setCluster c v).joining = s.joining := rfl
@[simp] theorem State.setCluster_ceil : (s.setCluster c v).ceil = s.ceil := rfl
@[simp] theorem State.setCluster_rxStreams : (s.setCluster c v).rxStreams = s.rxStreams := rfl
@[simp] theorem State.setCluster_relayQ : (s.setCluster c v).relayQ = s.relayQ := rfl
@[simp] theorem State.setCluster_waitSegs : (s.setCluster c v).waitSegs = s.waitSegs := rfl
@[simp] theorem State.setCluster_mcPrep : (s.setCluster c v).mcPrep = s.mcPrep := rfl
@[simp] theorem State.setCluster_mcRoot : (s.setCluster c v).mcRoot = s.mcRoot := rfl
@[simp] theorem State.setCluster_mcCoord : (s.setCluster c v).mcCoord = s.mcCoord := rfl
@[simp] theorem State.setCluster_mcNext : (s.setCluster c v).mcNext = s.mcNext := rfl
@[simp] theorem State.setCluster_mcOut : (s.setCluster c v).mcOut = s.mcOut := rfl
@[simp] theorem State.setCluster_failedDevs : (s.setCluster c v).failedDevs = s.failedDevs := rfl
@[simp] theorem State.setCluster_failedSeen : (s.setCluster c v).failedSeen = s.failedSeen := rfl
@[simp] theorem State.setCluster_sensors : (s.setCluster c v).sensors = s.sensors := rfl
@[simp] theorem State.setCluster_powerWindows : (s.setCluster c v).powerWindows = s.powerWindows := rfl
@[simp] theorem State.setCluster_notices : (s.setCluster c v).notices = s.notices := rfl
@[simp] theorem State.setCluster_ready : (s.setCluster c v).ready = s.ready := rfl
@[simp] theorem State.setCluster_warmFlag : (s.setCluster c v).warmFlag = s.warmFlag := rfl
@[simp] theorem State.setCluster_bar2Base : (s.setCluster c v).bar2Base = s.bar2Base := rfl
@[simp] theorem State.setCluster_bar2Log2 : (s.setCluster c v).bar2Log2 = s.bar2Log2 := rfl
@[simp] theorem State.setCluster_errRoute : (s.setCluster c v).errRoute = s.errRoute := rfl
@[simp] theorem State.setCluster_errRing : (s.setCluster c v).errRing = s.errRing := rfl
@[simp] theorem State.setCluster_errDropped : (s.setCluster c v).errDropped = s.errDropped := rfl
@[simp] theorem State.setCluster_errTail : (s.setCluster c v).errTail = s.errTail := rfl
@[simp] theorem State.setCluster_errHead : (s.setCluster c v).errHead = s.errHead := rfl
@[simp] theorem State.setCluster_queues : (s.setCluster c v).queues = s.queues := rfl
@[simp] theorem State.setCluster_admin : (s.setCluster c v).admin = s.admin := rfl
@[simp] theorem State.setCluster_msixOut : (s.setCluster c v).msixOut = s.msixOut := rfl
@[simp] theorem State.setCluster_sriov : (s.setCluster c v).sriov = s.sriov := rfl
@[simp] theorem State.setCluster_vfs : (s.setCluster c v).vfs = s.vfs := rfl
@[simp] theorem State.setCluster_linkUp : (s.setCluster c v).linkUp = s.linkUp := rfl
@[simp] theorem State.setCluster_linkGen : (s.setCluster c v).linkGen = s.linkGen := rfl
@[simp] theorem State.setCluster_linkWidth : (s.setCluster c v).linkWidth = s.linkWidth := rfl
@[simp] theorem State.setCluster_msix : (s.setCluster c v).msix = s.msix := rfl
@[simp] theorem State.setCluster_hostWork : (s.setCluster c v).hostWork = s.hostWork := rfl
@[simp] theorem State.setCluster_postsDue : (s.setCluster c v).postsDue = s.postsDue := rfl
@[simp] theorem State.setCluster_storeLog : (s.setCluster c v).storeLog = s.storeLog := rfl
@[simp] theorem State.setCluster_crossFixed : (s.setCluster c v).crossFixed = s.crossFixed := rfl
@[simp] theorem State.setCluster_perst : (s.setCluster c v).perst = s.perst := rfl
@[simp] theorem State.setCluster_heldOut : (s.setCluster c v).heldOut = s.heldOut := rfl
@[simp] theorem State.setCluster_readOut : (s.setCluster c v).readOut = s.readOut := rfl
@[simp] theorem State.setCluster_ethPort : (s.setCluster c v).ethPort = s.ethPort := rfl
@[simp] theorem State.setCluster_ethAddr : (s.setCluster c v).ethAddr = s.ethAddr := rfl
@[simp] theorem State.setCluster_ethWords : (s.setCluster c v).ethWords = s.ethWords := rfl
@[simp] theorem State.setCluster_regions : (s.setCluster c v).regions = s.regions := rfl
@[simp] theorem State.setCluster_qps : (s.setCluster c v).qps = s.qps := rfl
@[simp] theorem State.setCluster_pfc : (s.setCluster c v).pfc = s.pfc := rfl
@[simp] theorem State.setCluster_ethOut : (s.setCluster c v).ethOut = s.ethOut := rfl
@[simp] theorem State.setCluster_ethWait : (s.setCluster c v).ethWait = s.ethWait := rfl
@[simp] theorem State.setCluster_parts : (s.setCluster c v).parts = s.parts := rfl
@[simp] theorem State.setCluster_jobs : (s.setCluster c v).jobs = s.jobs := rfl
@[simp] theorem State.setCluster_images : (s.setCluster c v).images = s.images := rfl
@[simp] theorem State.setCluster_errNumber : (s.setCluster c v).errNumber = s.errNumber := rfl
@[simp] theorem State.setCluster_errLog : (s.setCluster c v).errLog = s.errLog := rfl
@[simp] theorem State.setCluster_errHold : (s.setCluster c v).errHold = s.errHold := rfl
@[simp] theorem State.setCluster_mctpOut : (s.setCluster c v).mctpOut = s.mctpOut := rfl
@[simp] theorem State.setCluster_lookCmds : (s.setCluster c v).lookCmds = s.lookCmds := rfl
@[simp] theorem State.setCluster_stopsOut : (s.setCluster c v).stopsOut = s.stopsOut := rfl
@[simp] theorem State.setCluster_shardOut : (s.setCluster c v).shardOut = s.shardOut := rfl
@[simp] theorem State.setCluster_ftCtl : (s.setCluster c v).ftCtl = s.ftCtl := rfl
@[simp] theorem State.setCluster_idOk : (s.setCluster c v).idOk = s.idOk := rfl
@[simp] theorem State.setCluster_jobKeys : (s.setCluster c v).jobKeys = s.jobKeys := rfl
@[simp] theorem State.setCluster_packages : (s.setCluster c v).packages = s.packages := rfl
@[simp] theorem State.setCluster_dbgCount : (s.setCluster c v).dbgCount = s.dbgCount := rfl
@[simp] theorem State.setCluster_quiet : (s.setCluster c v).quiet = s.quiet := rfl
@[simp] theorem State.setCluster_quietBefore : (s.setCluster c v).quietBefore = s.quietBefore := rfl
@[simp] theorem State.setCluster_quietTicks : (s.setCluster c v).quietTicks = s.quietTicks := rfl
@[simp] theorem State.setCluster_pllOff : (s.setCluster c v).pllOff = s.pllOff := rfl
@[simp] theorem State.setCluster_powerCmds : (s.setCluster c v).powerCmds = s.powerCmds := rfl
@[simp] theorem State.setCluster_hostUnmap : (s.setCluster c v).hostUnmap = s.hostUnmap := rfl
@[simp] theorem State.setCluster_trainWait : (s.setCluster c v).trainWait = s.trainWait := rfl
@[simp] theorem State.setCluster_warmSetting : (s.setCluster c v).warmSetting = s.warmSetting := rfl
@[simp] theorem State.setCluster_nvm : (s.setCluster c v).nvm = s.nvm := rfl
@[simp] theorem State.setCluster_flash : (s.setCluster c v).flash = s.flash := rfl
@[simp] theorem State.setCluster_fwImage : (s.setCluster c v).fwImage = s.fwImage := rfl
@[simp] theorem State.setCluster_recovery : (s.setCluster c v).recovery = s.recovery := rfl
@[simp] theorem State.setCluster_powered : (s.setCluster c v).powered = s.powered := rfl
@[simp] theorem State.setCluster_crossErr : (s.setCluster c v).crossErr = s.crossErr := rfl
@[simp] theorem State.setCluster_refOk : (s.setCluster c v).refOk = s.refOk := rfl
@[simp] theorem State.setCluster_straps : (s.setCluster c v).straps = s.straps := rfl
@[simp] theorem State.setCluster_i3cAddr : (s.setCluster c v).i3cAddr = s.i3cAddr := rfl

end

/-! ### modStack -/

section
variable (s : State) (n : Nat) (f : Stack → Stack)

@[simp] theorem State.modStack_pending : (s.modStack n f).pending = s.pending := rfl
@[simp] theorem State.modStack_fresh : (s.modStack n f).fresh = s.fresh := rfl
@[simp] theorem State.modStack_tick : (s.modStack n f).tick = s.tick := rfl
@[simp] theorem State.modStack_tsLatch : (s.modStack n f).tsLatch = s.tsLatch := rfl
@[simp] theorem State.modStack_slipCount : (s.modStack n f).slipCount = s.slipCount := rfl
@[simp] theorem State.modStack_slipTicks : (s.modStack n f).slipTicks = s.slipTicks := rfl
@[simp] theorem State.modStack_assigned : (s.modStack n f).assigned = s.assigned := rfl
@[simp] theorem State.modStack_device : (s.modStack n f).device = s.device := rfl
@[simp] theorem State.modStack_failedAll : (s.modStack n f).failedAll = s.failedAll := rfl
@[simp] theorem State.modStack_framesStopped : (s.modStack n f).framesStopped = s.framesStopped := rfl
@[simp] theorem State.modStack_clocksStopped : (s.modStack n f).clocksStopped = s.clocksStopped := rfl
@[simp] theorem State.modStack_refLost : (s.modStack n f).refLost = s.refLost := rfl
@[simp] theorem State.modStack_groups : (s.modStack n f).groups = s.groups := rfl
@[simp] theorem State.modStack_cores : (s.modStack n f).cores = s.cores := rfl
@[simp] theorem State.modStack_clusters : (s.modStack n f).clusters = s.clusters := rfl
@[simp] theorem State.modStack_store : (s.modStack n f).store = s.store := rfl
@[simp] theorem State.modStack_deck : (s.modStack n f).deck = s.deck := rfl
@[simp] theorem State.modStack_hbm : (s.modStack n f).hbm = s.hbm := rfl
@[simp] theorem State.modStack_imem : (s.modStack n f).imem = s.imem := rfl
@[simp] theorem State.modStack_host : (s.modStack n f).host = s.host := rfl
@[simp] theorem State.modStack_tlbs : (s.modStack n f).tlbs = s.tlbs := rfl
@[simp] theorem State.modStack_leaves : (s.modStack n f).leaves = s.leaves := rfl
@[simp] theorem State.modStack_ptables : (s.modStack n f).ptables = s.ptables := rfl
@[simp] theorem State.modStack_windows : (s.modStack n f).windows = s.windows := rfl
@[simp] theorem State.modStack_invals : (s.modStack n f).invals = s.invals := rfl
@[simp] theorem State.modStack_winClears : (s.modStack n f).winClears = s.winClears := rfl
@[simp] theorem State.modStack_tables : (s.modStack n f).tables = s.tables := rfl
@[simp] theorem State.modStack_overlay : (s.modStack n f).overlay = s.overlay := rfl
@[simp] theorem State.modStack_overlayMib : (s.modStack n f).overlayMib = s.overlayMib := rfl
@[simp] theorem State.modStack_folds : (s.modStack n f).folds = s.folds := rfl
@[simp] theorem State.modStack_retires : (s.modStack n f).retires = s.retires := rfl
@[simp] theorem State.modStack_lockedTables : (s.modStack n f).lockedTables = s.lockedTables := rfl
@[simp] theorem State.modStack_lockedGroups : (s.modStack n f).lockedGroups = s.lockedGroups := rfl
@[simp] theorem State.modStack_hbmCtl : (s.modStack n f).hbmCtl = s.hbmCtl := rfl
@[simp] theorem State.modStack_ports : (s.modStack n f).ports = s.ports := rfl
@[simp] theorem State.modStack_fabricOn : (s.modStack n f).fabricOn = s.fabricOn := rfl
@[simp] theorem State.modStack_fabric : (s.modStack n f).fabric = s.fabric := rfl
@[simp] theorem State.modStack_joining : (s.modStack n f).joining = s.joining := rfl
@[simp] theorem State.modStack_ceil : (s.modStack n f).ceil = s.ceil := rfl
@[simp] theorem State.modStack_rxStreams : (s.modStack n f).rxStreams = s.rxStreams := rfl
@[simp] theorem State.modStack_relayQ : (s.modStack n f).relayQ = s.relayQ := rfl
@[simp] theorem State.modStack_waitSegs : (s.modStack n f).waitSegs = s.waitSegs := rfl
@[simp] theorem State.modStack_mcPrep : (s.modStack n f).mcPrep = s.mcPrep := rfl
@[simp] theorem State.modStack_mcRoot : (s.modStack n f).mcRoot = s.mcRoot := rfl
@[simp] theorem State.modStack_mcCoord : (s.modStack n f).mcCoord = s.mcCoord := rfl
@[simp] theorem State.modStack_mcNext : (s.modStack n f).mcNext = s.mcNext := rfl
@[simp] theorem State.modStack_mcOut : (s.modStack n f).mcOut = s.mcOut := rfl
@[simp] theorem State.modStack_failedDevs : (s.modStack n f).failedDevs = s.failedDevs := rfl
@[simp] theorem State.modStack_failedSeen : (s.modStack n f).failedSeen = s.failedSeen := rfl
@[simp] theorem State.modStack_sensors : (s.modStack n f).sensors = s.sensors := rfl
@[simp] theorem State.modStack_powerWindows : (s.modStack n f).powerWindows = s.powerWindows := rfl
@[simp] theorem State.modStack_notices : (s.modStack n f).notices = s.notices := rfl
@[simp] theorem State.modStack_ready : (s.modStack n f).ready = s.ready := rfl
@[simp] theorem State.modStack_warmFlag : (s.modStack n f).warmFlag = s.warmFlag := rfl
@[simp] theorem State.modStack_bar2Base : (s.modStack n f).bar2Base = s.bar2Base := rfl
@[simp] theorem State.modStack_bar2Log2 : (s.modStack n f).bar2Log2 = s.bar2Log2 := rfl
@[simp] theorem State.modStack_errRoute : (s.modStack n f).errRoute = s.errRoute := rfl
@[simp] theorem State.modStack_errRing : (s.modStack n f).errRing = s.errRing := rfl
@[simp] theorem State.modStack_errDropped : (s.modStack n f).errDropped = s.errDropped := rfl
@[simp] theorem State.modStack_errTail : (s.modStack n f).errTail = s.errTail := rfl
@[simp] theorem State.modStack_errHead : (s.modStack n f).errHead = s.errHead := rfl
@[simp] theorem State.modStack_queues : (s.modStack n f).queues = s.queues := rfl
@[simp] theorem State.modStack_admin : (s.modStack n f).admin = s.admin := rfl
@[simp] theorem State.modStack_msixOut : (s.modStack n f).msixOut = s.msixOut := rfl
@[simp] theorem State.modStack_sriov : (s.modStack n f).sriov = s.sriov := rfl
@[simp] theorem State.modStack_vfs : (s.modStack n f).vfs = s.vfs := rfl
@[simp] theorem State.modStack_linkUp : (s.modStack n f).linkUp = s.linkUp := rfl
@[simp] theorem State.modStack_linkGen : (s.modStack n f).linkGen = s.linkGen := rfl
@[simp] theorem State.modStack_linkWidth : (s.modStack n f).linkWidth = s.linkWidth := rfl
@[simp] theorem State.modStack_msix : (s.modStack n f).msix = s.msix := rfl
@[simp] theorem State.modStack_hostWork : (s.modStack n f).hostWork = s.hostWork := rfl
@[simp] theorem State.modStack_postsDue : (s.modStack n f).postsDue = s.postsDue := rfl
@[simp] theorem State.modStack_storeLog : (s.modStack n f).storeLog = s.storeLog := rfl
@[simp] theorem State.modStack_crossFixed : (s.modStack n f).crossFixed = s.crossFixed := rfl
@[simp] theorem State.modStack_perst : (s.modStack n f).perst = s.perst := rfl
@[simp] theorem State.modStack_heldOut : (s.modStack n f).heldOut = s.heldOut := rfl
@[simp] theorem State.modStack_readOut : (s.modStack n f).readOut = s.readOut := rfl
@[simp] theorem State.modStack_ethPort : (s.modStack n f).ethPort = s.ethPort := rfl
@[simp] theorem State.modStack_ethAddr : (s.modStack n f).ethAddr = s.ethAddr := rfl
@[simp] theorem State.modStack_ethWords : (s.modStack n f).ethWords = s.ethWords := rfl
@[simp] theorem State.modStack_regions : (s.modStack n f).regions = s.regions := rfl
@[simp] theorem State.modStack_qps : (s.modStack n f).qps = s.qps := rfl
@[simp] theorem State.modStack_pfc : (s.modStack n f).pfc = s.pfc := rfl
@[simp] theorem State.modStack_ethOut : (s.modStack n f).ethOut = s.ethOut := rfl
@[simp] theorem State.modStack_ethWait : (s.modStack n f).ethWait = s.ethWait := rfl
@[simp] theorem State.modStack_parts : (s.modStack n f).parts = s.parts := rfl
@[simp] theorem State.modStack_jobs : (s.modStack n f).jobs = s.jobs := rfl
@[simp] theorem State.modStack_images : (s.modStack n f).images = s.images := rfl
@[simp] theorem State.modStack_errNumber : (s.modStack n f).errNumber = s.errNumber := rfl
@[simp] theorem State.modStack_errLog : (s.modStack n f).errLog = s.errLog := rfl
@[simp] theorem State.modStack_errHold : (s.modStack n f).errHold = s.errHold := rfl
@[simp] theorem State.modStack_mctpOut : (s.modStack n f).mctpOut = s.mctpOut := rfl
@[simp] theorem State.modStack_lookCmds : (s.modStack n f).lookCmds = s.lookCmds := rfl
@[simp] theorem State.modStack_stopsOut : (s.modStack n f).stopsOut = s.stopsOut := rfl
@[simp] theorem State.modStack_shardOut : (s.modStack n f).shardOut = s.shardOut := rfl
@[simp] theorem State.modStack_ftCtl : (s.modStack n f).ftCtl = s.ftCtl := rfl
@[simp] theorem State.modStack_idOk : (s.modStack n f).idOk = s.idOk := rfl
@[simp] theorem State.modStack_jobKeys : (s.modStack n f).jobKeys = s.jobKeys := rfl
@[simp] theorem State.modStack_packages : (s.modStack n f).packages = s.packages := rfl
@[simp] theorem State.modStack_dbgCount : (s.modStack n f).dbgCount = s.dbgCount := rfl
@[simp] theorem State.modStack_quiet : (s.modStack n f).quiet = s.quiet := rfl
@[simp] theorem State.modStack_quietBefore : (s.modStack n f).quietBefore = s.quietBefore := rfl
@[simp] theorem State.modStack_quietTicks : (s.modStack n f).quietTicks = s.quietTicks := rfl
@[simp] theorem State.modStack_pllOff : (s.modStack n f).pllOff = s.pllOff := rfl
@[simp] theorem State.modStack_powerCmds : (s.modStack n f).powerCmds = s.powerCmds := rfl
@[simp] theorem State.modStack_hostUnmap : (s.modStack n f).hostUnmap = s.hostUnmap := rfl
@[simp] theorem State.modStack_trainWait : (s.modStack n f).trainWait = s.trainWait := rfl
@[simp] theorem State.modStack_warmSetting : (s.modStack n f).warmSetting = s.warmSetting := rfl
@[simp] theorem State.modStack_nvm : (s.modStack n f).nvm = s.nvm := rfl
@[simp] theorem State.modStack_flash : (s.modStack n f).flash = s.flash := rfl
@[simp] theorem State.modStack_fwImage : (s.modStack n f).fwImage = s.fwImage := rfl
@[simp] theorem State.modStack_recovery : (s.modStack n f).recovery = s.recovery := rfl
@[simp] theorem State.modStack_powered : (s.modStack n f).powered = s.powered := rfl
@[simp] theorem State.modStack_crossErr : (s.modStack n f).crossErr = s.crossErr := rfl
@[simp] theorem State.modStack_refOk : (s.modStack n f).refOk = s.refOk := rfl
@[simp] theorem State.modStack_straps : (s.modStack n f).straps = s.straps := rfl
@[simp] theorem State.modStack_i3cAddr : (s.modStack n f).i3cAddr = s.i3cAddr := rfl

end

/-! ### modPort -/

section
variable (s : State) (p : Nat) (f : Port → Port)

@[simp] theorem State.modPort_pending : (s.modPort p f).pending = s.pending := rfl
@[simp] theorem State.modPort_fresh : (s.modPort p f).fresh = s.fresh := rfl
@[simp] theorem State.modPort_tick : (s.modPort p f).tick = s.tick := rfl
@[simp] theorem State.modPort_tsLatch : (s.modPort p f).tsLatch = s.tsLatch := rfl
@[simp] theorem State.modPort_slipCount : (s.modPort p f).slipCount = s.slipCount := rfl
@[simp] theorem State.modPort_slipTicks : (s.modPort p f).slipTicks = s.slipTicks := rfl
@[simp] theorem State.modPort_assigned : (s.modPort p f).assigned = s.assigned := rfl
@[simp] theorem State.modPort_device : (s.modPort p f).device = s.device := rfl
@[simp] theorem State.modPort_failedAll : (s.modPort p f).failedAll = s.failedAll := rfl
@[simp] theorem State.modPort_framesStopped : (s.modPort p f).framesStopped = s.framesStopped := rfl
@[simp] theorem State.modPort_clocksStopped : (s.modPort p f).clocksStopped = s.clocksStopped := rfl
@[simp] theorem State.modPort_refLost : (s.modPort p f).refLost = s.refLost := rfl
@[simp] theorem State.modPort_groups : (s.modPort p f).groups = s.groups := rfl
@[simp] theorem State.modPort_cores : (s.modPort p f).cores = s.cores := rfl
@[simp] theorem State.modPort_clusters : (s.modPort p f).clusters = s.clusters := rfl
@[simp] theorem State.modPort_store : (s.modPort p f).store = s.store := rfl
@[simp] theorem State.modPort_deck : (s.modPort p f).deck = s.deck := rfl
@[simp] theorem State.modPort_hbm : (s.modPort p f).hbm = s.hbm := rfl
@[simp] theorem State.modPort_imem : (s.modPort p f).imem = s.imem := rfl
@[simp] theorem State.modPort_host : (s.modPort p f).host = s.host := rfl
@[simp] theorem State.modPort_tlbs : (s.modPort p f).tlbs = s.tlbs := rfl
@[simp] theorem State.modPort_leaves : (s.modPort p f).leaves = s.leaves := rfl
@[simp] theorem State.modPort_ptables : (s.modPort p f).ptables = s.ptables := rfl
@[simp] theorem State.modPort_windows : (s.modPort p f).windows = s.windows := rfl
@[simp] theorem State.modPort_invals : (s.modPort p f).invals = s.invals := rfl
@[simp] theorem State.modPort_winClears : (s.modPort p f).winClears = s.winClears := rfl
@[simp] theorem State.modPort_tables : (s.modPort p f).tables = s.tables := rfl
@[simp] theorem State.modPort_overlay : (s.modPort p f).overlay = s.overlay := rfl
@[simp] theorem State.modPort_overlayMib : (s.modPort p f).overlayMib = s.overlayMib := rfl
@[simp] theorem State.modPort_folds : (s.modPort p f).folds = s.folds := rfl
@[simp] theorem State.modPort_retires : (s.modPort p f).retires = s.retires := rfl
@[simp] theorem State.modPort_lockedTables : (s.modPort p f).lockedTables = s.lockedTables := rfl
@[simp] theorem State.modPort_lockedGroups : (s.modPort p f).lockedGroups = s.lockedGroups := rfl
@[simp] theorem State.modPort_hbmStacks : (s.modPort p f).hbmStacks = s.hbmStacks := rfl
@[simp] theorem State.modPort_hbmCtl : (s.modPort p f).hbmCtl = s.hbmCtl := rfl
@[simp] theorem State.modPort_fabricOn : (s.modPort p f).fabricOn = s.fabricOn := rfl
@[simp] theorem State.modPort_fabric : (s.modPort p f).fabric = s.fabric := rfl
@[simp] theorem State.modPort_joining : (s.modPort p f).joining = s.joining := rfl
@[simp] theorem State.modPort_ceil : (s.modPort p f).ceil = s.ceil := rfl
@[simp] theorem State.modPort_rxStreams : (s.modPort p f).rxStreams = s.rxStreams := rfl
@[simp] theorem State.modPort_relayQ : (s.modPort p f).relayQ = s.relayQ := rfl
@[simp] theorem State.modPort_waitSegs : (s.modPort p f).waitSegs = s.waitSegs := rfl
@[simp] theorem State.modPort_mcPrep : (s.modPort p f).mcPrep = s.mcPrep := rfl
@[simp] theorem State.modPort_mcRoot : (s.modPort p f).mcRoot = s.mcRoot := rfl
@[simp] theorem State.modPort_mcCoord : (s.modPort p f).mcCoord = s.mcCoord := rfl
@[simp] theorem State.modPort_mcNext : (s.modPort p f).mcNext = s.mcNext := rfl
@[simp] theorem State.modPort_mcOut : (s.modPort p f).mcOut = s.mcOut := rfl
@[simp] theorem State.modPort_failedDevs : (s.modPort p f).failedDevs = s.failedDevs := rfl
@[simp] theorem State.modPort_failedSeen : (s.modPort p f).failedSeen = s.failedSeen := rfl
@[simp] theorem State.modPort_sensors : (s.modPort p f).sensors = s.sensors := rfl
@[simp] theorem State.modPort_powerWindows : (s.modPort p f).powerWindows = s.powerWindows := rfl
@[simp] theorem State.modPort_notices : (s.modPort p f).notices = s.notices := rfl
@[simp] theorem State.modPort_ready : (s.modPort p f).ready = s.ready := rfl
@[simp] theorem State.modPort_warmFlag : (s.modPort p f).warmFlag = s.warmFlag := rfl
@[simp] theorem State.modPort_bar2Base : (s.modPort p f).bar2Base = s.bar2Base := rfl
@[simp] theorem State.modPort_bar2Log2 : (s.modPort p f).bar2Log2 = s.bar2Log2 := rfl
@[simp] theorem State.modPort_errRoute : (s.modPort p f).errRoute = s.errRoute := rfl
@[simp] theorem State.modPort_errRing : (s.modPort p f).errRing = s.errRing := rfl
@[simp] theorem State.modPort_errDropped : (s.modPort p f).errDropped = s.errDropped := rfl
@[simp] theorem State.modPort_errTail : (s.modPort p f).errTail = s.errTail := rfl
@[simp] theorem State.modPort_errHead : (s.modPort p f).errHead = s.errHead := rfl
@[simp] theorem State.modPort_queues : (s.modPort p f).queues = s.queues := rfl
@[simp] theorem State.modPort_admin : (s.modPort p f).admin = s.admin := rfl
@[simp] theorem State.modPort_msixOut : (s.modPort p f).msixOut = s.msixOut := rfl
@[simp] theorem State.modPort_sriov : (s.modPort p f).sriov = s.sriov := rfl
@[simp] theorem State.modPort_vfs : (s.modPort p f).vfs = s.vfs := rfl
@[simp] theorem State.modPort_linkUp : (s.modPort p f).linkUp = s.linkUp := rfl
@[simp] theorem State.modPort_linkGen : (s.modPort p f).linkGen = s.linkGen := rfl
@[simp] theorem State.modPort_linkWidth : (s.modPort p f).linkWidth = s.linkWidth := rfl
@[simp] theorem State.modPort_msix : (s.modPort p f).msix = s.msix := rfl
@[simp] theorem State.modPort_hostWork : (s.modPort p f).hostWork = s.hostWork := rfl
@[simp] theorem State.modPort_postsDue : (s.modPort p f).postsDue = s.postsDue := rfl
@[simp] theorem State.modPort_storeLog : (s.modPort p f).storeLog = s.storeLog := rfl
@[simp] theorem State.modPort_crossFixed : (s.modPort p f).crossFixed = s.crossFixed := rfl
@[simp] theorem State.modPort_perst : (s.modPort p f).perst = s.perst := rfl
@[simp] theorem State.modPort_heldOut : (s.modPort p f).heldOut = s.heldOut := rfl
@[simp] theorem State.modPort_readOut : (s.modPort p f).readOut = s.readOut := rfl
@[simp] theorem State.modPort_ethPort : (s.modPort p f).ethPort = s.ethPort := rfl
@[simp] theorem State.modPort_ethAddr : (s.modPort p f).ethAddr = s.ethAddr := rfl
@[simp] theorem State.modPort_ethWords : (s.modPort p f).ethWords = s.ethWords := rfl
@[simp] theorem State.modPort_regions : (s.modPort p f).regions = s.regions := rfl
@[simp] theorem State.modPort_qps : (s.modPort p f).qps = s.qps := rfl
@[simp] theorem State.modPort_pfc : (s.modPort p f).pfc = s.pfc := rfl
@[simp] theorem State.modPort_ethOut : (s.modPort p f).ethOut = s.ethOut := rfl
@[simp] theorem State.modPort_ethWait : (s.modPort p f).ethWait = s.ethWait := rfl
@[simp] theorem State.modPort_parts : (s.modPort p f).parts = s.parts := rfl
@[simp] theorem State.modPort_jobs : (s.modPort p f).jobs = s.jobs := rfl
@[simp] theorem State.modPort_images : (s.modPort p f).images = s.images := rfl
@[simp] theorem State.modPort_errNumber : (s.modPort p f).errNumber = s.errNumber := rfl
@[simp] theorem State.modPort_errLog : (s.modPort p f).errLog = s.errLog := rfl
@[simp] theorem State.modPort_errHold : (s.modPort p f).errHold = s.errHold := rfl
@[simp] theorem State.modPort_mctpOut : (s.modPort p f).mctpOut = s.mctpOut := rfl
@[simp] theorem State.modPort_lookCmds : (s.modPort p f).lookCmds = s.lookCmds := rfl
@[simp] theorem State.modPort_stopsOut : (s.modPort p f).stopsOut = s.stopsOut := rfl
@[simp] theorem State.modPort_shardOut : (s.modPort p f).shardOut = s.shardOut := rfl
@[simp] theorem State.modPort_ftCtl : (s.modPort p f).ftCtl = s.ftCtl := rfl
@[simp] theorem State.modPort_idOk : (s.modPort p f).idOk = s.idOk := rfl
@[simp] theorem State.modPort_jobKeys : (s.modPort p f).jobKeys = s.jobKeys := rfl
@[simp] theorem State.modPort_packages : (s.modPort p f).packages = s.packages := rfl
@[simp] theorem State.modPort_dbgCount : (s.modPort p f).dbgCount = s.dbgCount := rfl
@[simp] theorem State.modPort_quiet : (s.modPort p f).quiet = s.quiet := rfl
@[simp] theorem State.modPort_quietBefore : (s.modPort p f).quietBefore = s.quietBefore := rfl
@[simp] theorem State.modPort_quietTicks : (s.modPort p f).quietTicks = s.quietTicks := rfl
@[simp] theorem State.modPort_pllOff : (s.modPort p f).pllOff = s.pllOff := rfl
@[simp] theorem State.modPort_powerCmds : (s.modPort p f).powerCmds = s.powerCmds := rfl
@[simp] theorem State.modPort_hostUnmap : (s.modPort p f).hostUnmap = s.hostUnmap := rfl
@[simp] theorem State.modPort_trainWait : (s.modPort p f).trainWait = s.trainWait := rfl
@[simp] theorem State.modPort_warmSetting : (s.modPort p f).warmSetting = s.warmSetting := rfl
@[simp] theorem State.modPort_nvm : (s.modPort p f).nvm = s.nvm := rfl
@[simp] theorem State.modPort_flash : (s.modPort p f).flash = s.flash := rfl
@[simp] theorem State.modPort_fwImage : (s.modPort p f).fwImage = s.fwImage := rfl
@[simp] theorem State.modPort_recovery : (s.modPort p f).recovery = s.recovery := rfl
@[simp] theorem State.modPort_powered : (s.modPort p f).powered = s.powered := rfl
@[simp] theorem State.modPort_crossErr : (s.modPort p f).crossErr = s.crossErr := rfl
@[simp] theorem State.modPort_refOk : (s.modPort p f).refOk = s.refOk := rfl
@[simp] theorem State.modPort_straps : (s.modPort p f).straps = s.straps := rfl
@[simp] theorem State.modPort_i3cAddr : (s.modPort p f).i3cAddr = s.i3cAddr := rfl

end

/-! ### modQueue -/

section
variable (s : State) (q : Nat) (f : HQueue → HQueue)

@[simp] theorem State.modQueue_pending : (s.modQueue q f).pending = s.pending := rfl
@[simp] theorem State.modQueue_fresh : (s.modQueue q f).fresh = s.fresh := rfl
@[simp] theorem State.modQueue_tick : (s.modQueue q f).tick = s.tick := rfl
@[simp] theorem State.modQueue_tsLatch : (s.modQueue q f).tsLatch = s.tsLatch := rfl
@[simp] theorem State.modQueue_slipCount : (s.modQueue q f).slipCount = s.slipCount := rfl
@[simp] theorem State.modQueue_slipTicks : (s.modQueue q f).slipTicks = s.slipTicks := rfl
@[simp] theorem State.modQueue_assigned : (s.modQueue q f).assigned = s.assigned := rfl
@[simp] theorem State.modQueue_device : (s.modQueue q f).device = s.device := rfl
@[simp] theorem State.modQueue_failedAll : (s.modQueue q f).failedAll = s.failedAll := rfl
@[simp] theorem State.modQueue_framesStopped : (s.modQueue q f).framesStopped = s.framesStopped := rfl
@[simp] theorem State.modQueue_clocksStopped : (s.modQueue q f).clocksStopped = s.clocksStopped := rfl
@[simp] theorem State.modQueue_refLost : (s.modQueue q f).refLost = s.refLost := rfl
@[simp] theorem State.modQueue_groups : (s.modQueue q f).groups = s.groups := rfl
@[simp] theorem State.modQueue_cores : (s.modQueue q f).cores = s.cores := rfl
@[simp] theorem State.modQueue_clusters : (s.modQueue q f).clusters = s.clusters := rfl
@[simp] theorem State.modQueue_store : (s.modQueue q f).store = s.store := rfl
@[simp] theorem State.modQueue_deck : (s.modQueue q f).deck = s.deck := rfl
@[simp] theorem State.modQueue_hbm : (s.modQueue q f).hbm = s.hbm := rfl
@[simp] theorem State.modQueue_imem : (s.modQueue q f).imem = s.imem := rfl
@[simp] theorem State.modQueue_host : (s.modQueue q f).host = s.host := rfl
@[simp] theorem State.modQueue_tlbs : (s.modQueue q f).tlbs = s.tlbs := rfl
@[simp] theorem State.modQueue_leaves : (s.modQueue q f).leaves = s.leaves := rfl
@[simp] theorem State.modQueue_ptables : (s.modQueue q f).ptables = s.ptables := rfl
@[simp] theorem State.modQueue_windows : (s.modQueue q f).windows = s.windows := rfl
@[simp] theorem State.modQueue_invals : (s.modQueue q f).invals = s.invals := rfl
@[simp] theorem State.modQueue_winClears : (s.modQueue q f).winClears = s.winClears := rfl
@[simp] theorem State.modQueue_tables : (s.modQueue q f).tables = s.tables := rfl
@[simp] theorem State.modQueue_overlay : (s.modQueue q f).overlay = s.overlay := rfl
@[simp] theorem State.modQueue_overlayMib : (s.modQueue q f).overlayMib = s.overlayMib := rfl
@[simp] theorem State.modQueue_folds : (s.modQueue q f).folds = s.folds := rfl
@[simp] theorem State.modQueue_retires : (s.modQueue q f).retires = s.retires := rfl
@[simp] theorem State.modQueue_lockedTables : (s.modQueue q f).lockedTables = s.lockedTables := rfl
@[simp] theorem State.modQueue_lockedGroups : (s.modQueue q f).lockedGroups = s.lockedGroups := rfl
@[simp] theorem State.modQueue_hbmStacks : (s.modQueue q f).hbmStacks = s.hbmStacks := rfl
@[simp] theorem State.modQueue_hbmCtl : (s.modQueue q f).hbmCtl = s.hbmCtl := rfl
@[simp] theorem State.modQueue_ports : (s.modQueue q f).ports = s.ports := rfl
@[simp] theorem State.modQueue_fabricOn : (s.modQueue q f).fabricOn = s.fabricOn := rfl
@[simp] theorem State.modQueue_fabric : (s.modQueue q f).fabric = s.fabric := rfl
@[simp] theorem State.modQueue_joining : (s.modQueue q f).joining = s.joining := rfl
@[simp] theorem State.modQueue_ceil : (s.modQueue q f).ceil = s.ceil := rfl
@[simp] theorem State.modQueue_rxStreams : (s.modQueue q f).rxStreams = s.rxStreams := rfl
@[simp] theorem State.modQueue_relayQ : (s.modQueue q f).relayQ = s.relayQ := rfl
@[simp] theorem State.modQueue_waitSegs : (s.modQueue q f).waitSegs = s.waitSegs := rfl
@[simp] theorem State.modQueue_mcPrep : (s.modQueue q f).mcPrep = s.mcPrep := rfl
@[simp] theorem State.modQueue_mcRoot : (s.modQueue q f).mcRoot = s.mcRoot := rfl
@[simp] theorem State.modQueue_mcCoord : (s.modQueue q f).mcCoord = s.mcCoord := rfl
@[simp] theorem State.modQueue_mcNext : (s.modQueue q f).mcNext = s.mcNext := rfl
@[simp] theorem State.modQueue_mcOut : (s.modQueue q f).mcOut = s.mcOut := rfl
@[simp] theorem State.modQueue_failedDevs : (s.modQueue q f).failedDevs = s.failedDevs := rfl
@[simp] theorem State.modQueue_failedSeen : (s.modQueue q f).failedSeen = s.failedSeen := rfl
@[simp] theorem State.modQueue_sensors : (s.modQueue q f).sensors = s.sensors := rfl
@[simp] theorem State.modQueue_powerWindows : (s.modQueue q f).powerWindows = s.powerWindows := rfl
@[simp] theorem State.modQueue_notices : (s.modQueue q f).notices = s.notices := rfl
@[simp] theorem State.modQueue_ready : (s.modQueue q f).ready = s.ready := rfl
@[simp] theorem State.modQueue_warmFlag : (s.modQueue q f).warmFlag = s.warmFlag := rfl
@[simp] theorem State.modQueue_bar2Base : (s.modQueue q f).bar2Base = s.bar2Base := rfl
@[simp] theorem State.modQueue_bar2Log2 : (s.modQueue q f).bar2Log2 = s.bar2Log2 := rfl
@[simp] theorem State.modQueue_errRoute : (s.modQueue q f).errRoute = s.errRoute := rfl
@[simp] theorem State.modQueue_errRing : (s.modQueue q f).errRing = s.errRing := rfl
@[simp] theorem State.modQueue_errDropped : (s.modQueue q f).errDropped = s.errDropped := rfl
@[simp] theorem State.modQueue_errTail : (s.modQueue q f).errTail = s.errTail := rfl
@[simp] theorem State.modQueue_errHead : (s.modQueue q f).errHead = s.errHead := rfl
@[simp] theorem State.modQueue_admin : (s.modQueue q f).admin = s.admin := rfl
@[simp] theorem State.modQueue_msixOut : (s.modQueue q f).msixOut = s.msixOut := rfl
@[simp] theorem State.modQueue_sriov : (s.modQueue q f).sriov = s.sriov := rfl
@[simp] theorem State.modQueue_vfs : (s.modQueue q f).vfs = s.vfs := rfl
@[simp] theorem State.modQueue_linkUp : (s.modQueue q f).linkUp = s.linkUp := rfl
@[simp] theorem State.modQueue_linkGen : (s.modQueue q f).linkGen = s.linkGen := rfl
@[simp] theorem State.modQueue_linkWidth : (s.modQueue q f).linkWidth = s.linkWidth := rfl
@[simp] theorem State.modQueue_msix : (s.modQueue q f).msix = s.msix := rfl
@[simp] theorem State.modQueue_hostWork : (s.modQueue q f).hostWork = s.hostWork := rfl
@[simp] theorem State.modQueue_postsDue : (s.modQueue q f).postsDue = s.postsDue := rfl
@[simp] theorem State.modQueue_storeLog : (s.modQueue q f).storeLog = s.storeLog := rfl
@[simp] theorem State.modQueue_crossFixed : (s.modQueue q f).crossFixed = s.crossFixed := rfl
@[simp] theorem State.modQueue_perst : (s.modQueue q f).perst = s.perst := rfl
@[simp] theorem State.modQueue_heldOut : (s.modQueue q f).heldOut = s.heldOut := rfl
@[simp] theorem State.modQueue_readOut : (s.modQueue q f).readOut = s.readOut := rfl
@[simp] theorem State.modQueue_ethPort : (s.modQueue q f).ethPort = s.ethPort := rfl
@[simp] theorem State.modQueue_ethAddr : (s.modQueue q f).ethAddr = s.ethAddr := rfl
@[simp] theorem State.modQueue_ethWords : (s.modQueue q f).ethWords = s.ethWords := rfl
@[simp] theorem State.modQueue_regions : (s.modQueue q f).regions = s.regions := rfl
@[simp] theorem State.modQueue_qps : (s.modQueue q f).qps = s.qps := rfl
@[simp] theorem State.modQueue_pfc : (s.modQueue q f).pfc = s.pfc := rfl
@[simp] theorem State.modQueue_ethOut : (s.modQueue q f).ethOut = s.ethOut := rfl
@[simp] theorem State.modQueue_ethWait : (s.modQueue q f).ethWait = s.ethWait := rfl
@[simp] theorem State.modQueue_parts : (s.modQueue q f).parts = s.parts := rfl
@[simp] theorem State.modQueue_jobs : (s.modQueue q f).jobs = s.jobs := rfl
@[simp] theorem State.modQueue_images : (s.modQueue q f).images = s.images := rfl
@[simp] theorem State.modQueue_errNumber : (s.modQueue q f).errNumber = s.errNumber := rfl
@[simp] theorem State.modQueue_errLog : (s.modQueue q f).errLog = s.errLog := rfl
@[simp] theorem State.modQueue_errHold : (s.modQueue q f).errHold = s.errHold := rfl
@[simp] theorem State.modQueue_mctpOut : (s.modQueue q f).mctpOut = s.mctpOut := rfl
@[simp] theorem State.modQueue_lookCmds : (s.modQueue q f).lookCmds = s.lookCmds := rfl
@[simp] theorem State.modQueue_stopsOut : (s.modQueue q f).stopsOut = s.stopsOut := rfl
@[simp] theorem State.modQueue_shardOut : (s.modQueue q f).shardOut = s.shardOut := rfl
@[simp] theorem State.modQueue_ftCtl : (s.modQueue q f).ftCtl = s.ftCtl := rfl
@[simp] theorem State.modQueue_idOk : (s.modQueue q f).idOk = s.idOk := rfl
@[simp] theorem State.modQueue_jobKeys : (s.modQueue q f).jobKeys = s.jobKeys := rfl
@[simp] theorem State.modQueue_packages : (s.modQueue q f).packages = s.packages := rfl
@[simp] theorem State.modQueue_dbgCount : (s.modQueue q f).dbgCount = s.dbgCount := rfl
@[simp] theorem State.modQueue_quiet : (s.modQueue q f).quiet = s.quiet := rfl
@[simp] theorem State.modQueue_quietBefore : (s.modQueue q f).quietBefore = s.quietBefore := rfl
@[simp] theorem State.modQueue_quietTicks : (s.modQueue q f).quietTicks = s.quietTicks := rfl
@[simp] theorem State.modQueue_pllOff : (s.modQueue q f).pllOff = s.pllOff := rfl
@[simp] theorem State.modQueue_powerCmds : (s.modQueue q f).powerCmds = s.powerCmds := rfl
@[simp] theorem State.modQueue_hostUnmap : (s.modQueue q f).hostUnmap = s.hostUnmap := rfl
@[simp] theorem State.modQueue_trainWait : (s.modQueue q f).trainWait = s.trainWait := rfl
@[simp] theorem State.modQueue_warmSetting : (s.modQueue q f).warmSetting = s.warmSetting := rfl
@[simp] theorem State.modQueue_nvm : (s.modQueue q f).nvm = s.nvm := rfl
@[simp] theorem State.modQueue_flash : (s.modQueue q f).flash = s.flash := rfl
@[simp] theorem State.modQueue_fwImage : (s.modQueue q f).fwImage = s.fwImage := rfl
@[simp] theorem State.modQueue_recovery : (s.modQueue q f).recovery = s.recovery := rfl
@[simp] theorem State.modQueue_powered : (s.modQueue q f).powered = s.powered := rfl
@[simp] theorem State.modQueue_crossErr : (s.modQueue q f).crossErr = s.crossErr := rfl
@[simp] theorem State.modQueue_refOk : (s.modQueue q f).refOk = s.refOk := rfl
@[simp] theorem State.modQueue_straps : (s.modQueue q f).straps = s.straps := rfl
@[simp] theorem State.modQueue_i3cAddr : (s.modQueue q f).i3cAddr = s.i3cAddr := rfl

end

/-! ### modPart -/

section
variable (s : State) (p : Nat) (f : Part → Part)

@[simp] theorem State.modPart_pending : (s.modPart p f).pending = s.pending := rfl
@[simp] theorem State.modPart_fresh : (s.modPart p f).fresh = s.fresh := rfl
@[simp] theorem State.modPart_tick : (s.modPart p f).tick = s.tick := rfl
@[simp] theorem State.modPart_tsLatch : (s.modPart p f).tsLatch = s.tsLatch := rfl
@[simp] theorem State.modPart_slipCount : (s.modPart p f).slipCount = s.slipCount := rfl
@[simp] theorem State.modPart_slipTicks : (s.modPart p f).slipTicks = s.slipTicks := rfl
@[simp] theorem State.modPart_assigned : (s.modPart p f).assigned = s.assigned := rfl
@[simp] theorem State.modPart_device : (s.modPart p f).device = s.device := rfl
@[simp] theorem State.modPart_failedAll : (s.modPart p f).failedAll = s.failedAll := rfl
@[simp] theorem State.modPart_framesStopped : (s.modPart p f).framesStopped = s.framesStopped := rfl
@[simp] theorem State.modPart_clocksStopped : (s.modPart p f).clocksStopped = s.clocksStopped := rfl
@[simp] theorem State.modPart_refLost : (s.modPart p f).refLost = s.refLost := rfl
@[simp] theorem State.modPart_groups : (s.modPart p f).groups = s.groups := rfl
@[simp] theorem State.modPart_cores : (s.modPart p f).cores = s.cores := rfl
@[simp] theorem State.modPart_clusters : (s.modPart p f).clusters = s.clusters := rfl
@[simp] theorem State.modPart_store : (s.modPart p f).store = s.store := rfl
@[simp] theorem State.modPart_deck : (s.modPart p f).deck = s.deck := rfl
@[simp] theorem State.modPart_hbm : (s.modPart p f).hbm = s.hbm := rfl
@[simp] theorem State.modPart_imem : (s.modPart p f).imem = s.imem := rfl
@[simp] theorem State.modPart_host : (s.modPart p f).host = s.host := rfl
@[simp] theorem State.modPart_tlbs : (s.modPart p f).tlbs = s.tlbs := rfl
@[simp] theorem State.modPart_leaves : (s.modPart p f).leaves = s.leaves := rfl
@[simp] theorem State.modPart_ptables : (s.modPart p f).ptables = s.ptables := rfl
@[simp] theorem State.modPart_windows : (s.modPart p f).windows = s.windows := rfl
@[simp] theorem State.modPart_invals : (s.modPart p f).invals = s.invals := rfl
@[simp] theorem State.modPart_winClears : (s.modPart p f).winClears = s.winClears := rfl
@[simp] theorem State.modPart_tables : (s.modPart p f).tables = s.tables := rfl
@[simp] theorem State.modPart_overlay : (s.modPart p f).overlay = s.overlay := rfl
@[simp] theorem State.modPart_overlayMib : (s.modPart p f).overlayMib = s.overlayMib := rfl
@[simp] theorem State.modPart_folds : (s.modPart p f).folds = s.folds := rfl
@[simp] theorem State.modPart_retires : (s.modPart p f).retires = s.retires := rfl
@[simp] theorem State.modPart_lockedTables : (s.modPart p f).lockedTables = s.lockedTables := rfl
@[simp] theorem State.modPart_lockedGroups : (s.modPart p f).lockedGroups = s.lockedGroups := rfl
@[simp] theorem State.modPart_hbmStacks : (s.modPart p f).hbmStacks = s.hbmStacks := rfl
@[simp] theorem State.modPart_hbmCtl : (s.modPart p f).hbmCtl = s.hbmCtl := rfl
@[simp] theorem State.modPart_ports : (s.modPart p f).ports = s.ports := rfl
@[simp] theorem State.modPart_fabricOn : (s.modPart p f).fabricOn = s.fabricOn := rfl
@[simp] theorem State.modPart_fabric : (s.modPart p f).fabric = s.fabric := rfl
@[simp] theorem State.modPart_joining : (s.modPart p f).joining = s.joining := rfl
@[simp] theorem State.modPart_ceil : (s.modPart p f).ceil = s.ceil := rfl
@[simp] theorem State.modPart_rxStreams : (s.modPart p f).rxStreams = s.rxStreams := rfl
@[simp] theorem State.modPart_relayQ : (s.modPart p f).relayQ = s.relayQ := rfl
@[simp] theorem State.modPart_waitSegs : (s.modPart p f).waitSegs = s.waitSegs := rfl
@[simp] theorem State.modPart_mcPrep : (s.modPart p f).mcPrep = s.mcPrep := rfl
@[simp] theorem State.modPart_mcRoot : (s.modPart p f).mcRoot = s.mcRoot := rfl
@[simp] theorem State.modPart_mcCoord : (s.modPart p f).mcCoord = s.mcCoord := rfl
@[simp] theorem State.modPart_mcNext : (s.modPart p f).mcNext = s.mcNext := rfl
@[simp] theorem State.modPart_mcOut : (s.modPart p f).mcOut = s.mcOut := rfl
@[simp] theorem State.modPart_failedDevs : (s.modPart p f).failedDevs = s.failedDevs := rfl
@[simp] theorem State.modPart_failedSeen : (s.modPart p f).failedSeen = s.failedSeen := rfl
@[simp] theorem State.modPart_sensors : (s.modPart p f).sensors = s.sensors := rfl
@[simp] theorem State.modPart_powerWindows : (s.modPart p f).powerWindows = s.powerWindows := rfl
@[simp] theorem State.modPart_notices : (s.modPart p f).notices = s.notices := rfl
@[simp] theorem State.modPart_ready : (s.modPart p f).ready = s.ready := rfl
@[simp] theorem State.modPart_warmFlag : (s.modPart p f).warmFlag = s.warmFlag := rfl
@[simp] theorem State.modPart_bar2Base : (s.modPart p f).bar2Base = s.bar2Base := rfl
@[simp] theorem State.modPart_bar2Log2 : (s.modPart p f).bar2Log2 = s.bar2Log2 := rfl
@[simp] theorem State.modPart_errRoute : (s.modPart p f).errRoute = s.errRoute := rfl
@[simp] theorem State.modPart_errRing : (s.modPart p f).errRing = s.errRing := rfl
@[simp] theorem State.modPart_errDropped : (s.modPart p f).errDropped = s.errDropped := rfl
@[simp] theorem State.modPart_errTail : (s.modPart p f).errTail = s.errTail := rfl
@[simp] theorem State.modPart_errHead : (s.modPart p f).errHead = s.errHead := rfl
@[simp] theorem State.modPart_queues : (s.modPart p f).queues = s.queues := rfl
@[simp] theorem State.modPart_admin : (s.modPart p f).admin = s.admin := rfl
@[simp] theorem State.modPart_msixOut : (s.modPart p f).msixOut = s.msixOut := rfl
@[simp] theorem State.modPart_sriov : (s.modPart p f).sriov = s.sriov := rfl
@[simp] theorem State.modPart_vfs : (s.modPart p f).vfs = s.vfs := rfl
@[simp] theorem State.modPart_linkUp : (s.modPart p f).linkUp = s.linkUp := rfl
@[simp] theorem State.modPart_linkGen : (s.modPart p f).linkGen = s.linkGen := rfl
@[simp] theorem State.modPart_linkWidth : (s.modPart p f).linkWidth = s.linkWidth := rfl
@[simp] theorem State.modPart_msix : (s.modPart p f).msix = s.msix := rfl
@[simp] theorem State.modPart_hostWork : (s.modPart p f).hostWork = s.hostWork := rfl
@[simp] theorem State.modPart_postsDue : (s.modPart p f).postsDue = s.postsDue := rfl
@[simp] theorem State.modPart_storeLog : (s.modPart p f).storeLog = s.storeLog := rfl
@[simp] theorem State.modPart_crossFixed : (s.modPart p f).crossFixed = s.crossFixed := rfl
@[simp] theorem State.modPart_perst : (s.modPart p f).perst = s.perst := rfl
@[simp] theorem State.modPart_heldOut : (s.modPart p f).heldOut = s.heldOut := rfl
@[simp] theorem State.modPart_readOut : (s.modPart p f).readOut = s.readOut := rfl
@[simp] theorem State.modPart_ethPort : (s.modPart p f).ethPort = s.ethPort := rfl
@[simp] theorem State.modPart_ethAddr : (s.modPart p f).ethAddr = s.ethAddr := rfl
@[simp] theorem State.modPart_ethWords : (s.modPart p f).ethWords = s.ethWords := rfl
@[simp] theorem State.modPart_regions : (s.modPart p f).regions = s.regions := rfl
@[simp] theorem State.modPart_qps : (s.modPart p f).qps = s.qps := rfl
@[simp] theorem State.modPart_pfc : (s.modPart p f).pfc = s.pfc := rfl
@[simp] theorem State.modPart_ethOut : (s.modPart p f).ethOut = s.ethOut := rfl
@[simp] theorem State.modPart_ethWait : (s.modPart p f).ethWait = s.ethWait := rfl
@[simp] theorem State.modPart_jobs : (s.modPart p f).jobs = s.jobs := rfl
@[simp] theorem State.modPart_images : (s.modPart p f).images = s.images := rfl
@[simp] theorem State.modPart_errNumber : (s.modPart p f).errNumber = s.errNumber := rfl
@[simp] theorem State.modPart_errLog : (s.modPart p f).errLog = s.errLog := rfl
@[simp] theorem State.modPart_errHold : (s.modPart p f).errHold = s.errHold := rfl
@[simp] theorem State.modPart_mctpOut : (s.modPart p f).mctpOut = s.mctpOut := rfl
@[simp] theorem State.modPart_lookCmds : (s.modPart p f).lookCmds = s.lookCmds := rfl
@[simp] theorem State.modPart_stopsOut : (s.modPart p f).stopsOut = s.stopsOut := rfl
@[simp] theorem State.modPart_shardOut : (s.modPart p f).shardOut = s.shardOut := rfl
@[simp] theorem State.modPart_ftCtl : (s.modPart p f).ftCtl = s.ftCtl := rfl
@[simp] theorem State.modPart_idOk : (s.modPart p f).idOk = s.idOk := rfl
@[simp] theorem State.modPart_jobKeys : (s.modPart p f).jobKeys = s.jobKeys := rfl
@[simp] theorem State.modPart_packages : (s.modPart p f).packages = s.packages := rfl
@[simp] theorem State.modPart_dbgCount : (s.modPart p f).dbgCount = s.dbgCount := rfl
@[simp] theorem State.modPart_quiet : (s.modPart p f).quiet = s.quiet := rfl
@[simp] theorem State.modPart_quietBefore : (s.modPart p f).quietBefore = s.quietBefore := rfl
@[simp] theorem State.modPart_quietTicks : (s.modPart p f).quietTicks = s.quietTicks := rfl
@[simp] theorem State.modPart_pllOff : (s.modPart p f).pllOff = s.pllOff := rfl
@[simp] theorem State.modPart_powerCmds : (s.modPart p f).powerCmds = s.powerCmds := rfl
@[simp] theorem State.modPart_hostUnmap : (s.modPart p f).hostUnmap = s.hostUnmap := rfl
@[simp] theorem State.modPart_trainWait : (s.modPart p f).trainWait = s.trainWait := rfl
@[simp] theorem State.modPart_warmSetting : (s.modPart p f).warmSetting = s.warmSetting := rfl
@[simp] theorem State.modPart_nvm : (s.modPart p f).nvm = s.nvm := rfl
@[simp] theorem State.modPart_flash : (s.modPart p f).flash = s.flash := rfl
@[simp] theorem State.modPart_fwImage : (s.modPart p f).fwImage = s.fwImage := rfl
@[simp] theorem State.modPart_recovery : (s.modPart p f).recovery = s.recovery := rfl
@[simp] theorem State.modPart_powered : (s.modPart p f).powered = s.powered := rfl
@[simp] theorem State.modPart_crossErr : (s.modPart p f).crossErr = s.crossErr := rfl
@[simp] theorem State.modPart_refOk : (s.modPart p f).refOk = s.refOk := rfl
@[simp] theorem State.modPart_straps : (s.modPart p f).straps = s.straps := rfl
@[simp] theorem State.modPart_i3cAddr : (s.modPart p f).i3cAddr = s.i3cAddr := rfl

end

/-! ### setJob -/

section
variable (s : State) (j : Nat) (v : Option Job)

@[simp] theorem State.setJob_pending : (s.setJob j v).pending = s.pending := rfl
@[simp] theorem State.setJob_fresh : (s.setJob j v).fresh = s.fresh := rfl
@[simp] theorem State.setJob_tick : (s.setJob j v).tick = s.tick := rfl
@[simp] theorem State.setJob_tsLatch : (s.setJob j v).tsLatch = s.tsLatch := rfl
@[simp] theorem State.setJob_slipCount : (s.setJob j v).slipCount = s.slipCount := rfl
@[simp] theorem State.setJob_slipTicks : (s.setJob j v).slipTicks = s.slipTicks := rfl
@[simp] theorem State.setJob_assigned : (s.setJob j v).assigned = s.assigned := rfl
@[simp] theorem State.setJob_device : (s.setJob j v).device = s.device := rfl
@[simp] theorem State.setJob_failedAll : (s.setJob j v).failedAll = s.failedAll := rfl
@[simp] theorem State.setJob_framesStopped : (s.setJob j v).framesStopped = s.framesStopped := rfl
@[simp] theorem State.setJob_clocksStopped : (s.setJob j v).clocksStopped = s.clocksStopped := rfl
@[simp] theorem State.setJob_refLost : (s.setJob j v).refLost = s.refLost := rfl
@[simp] theorem State.setJob_groups : (s.setJob j v).groups = s.groups := rfl
@[simp] theorem State.setJob_cores : (s.setJob j v).cores = s.cores := rfl
@[simp] theorem State.setJob_clusters : (s.setJob j v).clusters = s.clusters := rfl
@[simp] theorem State.setJob_store : (s.setJob j v).store = s.store := rfl
@[simp] theorem State.setJob_deck : (s.setJob j v).deck = s.deck := rfl
@[simp] theorem State.setJob_hbm : (s.setJob j v).hbm = s.hbm := rfl
@[simp] theorem State.setJob_imem : (s.setJob j v).imem = s.imem := rfl
@[simp] theorem State.setJob_host : (s.setJob j v).host = s.host := rfl
@[simp] theorem State.setJob_tlbs : (s.setJob j v).tlbs = s.tlbs := rfl
@[simp] theorem State.setJob_leaves : (s.setJob j v).leaves = s.leaves := rfl
@[simp] theorem State.setJob_ptables : (s.setJob j v).ptables = s.ptables := rfl
@[simp] theorem State.setJob_windows : (s.setJob j v).windows = s.windows := rfl
@[simp] theorem State.setJob_invals : (s.setJob j v).invals = s.invals := rfl
@[simp] theorem State.setJob_winClears : (s.setJob j v).winClears = s.winClears := rfl
@[simp] theorem State.setJob_tables : (s.setJob j v).tables = s.tables := rfl
@[simp] theorem State.setJob_overlay : (s.setJob j v).overlay = s.overlay := rfl
@[simp] theorem State.setJob_overlayMib : (s.setJob j v).overlayMib = s.overlayMib := rfl
@[simp] theorem State.setJob_folds : (s.setJob j v).folds = s.folds := rfl
@[simp] theorem State.setJob_retires : (s.setJob j v).retires = s.retires := rfl
@[simp] theorem State.setJob_lockedTables : (s.setJob j v).lockedTables = s.lockedTables := rfl
@[simp] theorem State.setJob_lockedGroups : (s.setJob j v).lockedGroups = s.lockedGroups := rfl
@[simp] theorem State.setJob_hbmStacks : (s.setJob j v).hbmStacks = s.hbmStacks := rfl
@[simp] theorem State.setJob_hbmCtl : (s.setJob j v).hbmCtl = s.hbmCtl := rfl
@[simp] theorem State.setJob_ports : (s.setJob j v).ports = s.ports := rfl
@[simp] theorem State.setJob_fabricOn : (s.setJob j v).fabricOn = s.fabricOn := rfl
@[simp] theorem State.setJob_fabric : (s.setJob j v).fabric = s.fabric := rfl
@[simp] theorem State.setJob_joining : (s.setJob j v).joining = s.joining := rfl
@[simp] theorem State.setJob_ceil : (s.setJob j v).ceil = s.ceil := rfl
@[simp] theorem State.setJob_rxStreams : (s.setJob j v).rxStreams = s.rxStreams := rfl
@[simp] theorem State.setJob_relayQ : (s.setJob j v).relayQ = s.relayQ := rfl
@[simp] theorem State.setJob_waitSegs : (s.setJob j v).waitSegs = s.waitSegs := rfl
@[simp] theorem State.setJob_mcPrep : (s.setJob j v).mcPrep = s.mcPrep := rfl
@[simp] theorem State.setJob_mcRoot : (s.setJob j v).mcRoot = s.mcRoot := rfl
@[simp] theorem State.setJob_mcCoord : (s.setJob j v).mcCoord = s.mcCoord := rfl
@[simp] theorem State.setJob_mcNext : (s.setJob j v).mcNext = s.mcNext := rfl
@[simp] theorem State.setJob_mcOut : (s.setJob j v).mcOut = s.mcOut := rfl
@[simp] theorem State.setJob_failedDevs : (s.setJob j v).failedDevs = s.failedDevs := rfl
@[simp] theorem State.setJob_failedSeen : (s.setJob j v).failedSeen = s.failedSeen := rfl
@[simp] theorem State.setJob_sensors : (s.setJob j v).sensors = s.sensors := rfl
@[simp] theorem State.setJob_powerWindows : (s.setJob j v).powerWindows = s.powerWindows := rfl
@[simp] theorem State.setJob_notices : (s.setJob j v).notices = s.notices := rfl
@[simp] theorem State.setJob_ready : (s.setJob j v).ready = s.ready := rfl
@[simp] theorem State.setJob_warmFlag : (s.setJob j v).warmFlag = s.warmFlag := rfl
@[simp] theorem State.setJob_bar2Base : (s.setJob j v).bar2Base = s.bar2Base := rfl
@[simp] theorem State.setJob_bar2Log2 : (s.setJob j v).bar2Log2 = s.bar2Log2 := rfl
@[simp] theorem State.setJob_errRoute : (s.setJob j v).errRoute = s.errRoute := rfl
@[simp] theorem State.setJob_errRing : (s.setJob j v).errRing = s.errRing := rfl
@[simp] theorem State.setJob_errDropped : (s.setJob j v).errDropped = s.errDropped := rfl
@[simp] theorem State.setJob_errTail : (s.setJob j v).errTail = s.errTail := rfl
@[simp] theorem State.setJob_errHead : (s.setJob j v).errHead = s.errHead := rfl
@[simp] theorem State.setJob_queues : (s.setJob j v).queues = s.queues := rfl
@[simp] theorem State.setJob_admin : (s.setJob j v).admin = s.admin := rfl
@[simp] theorem State.setJob_msixOut : (s.setJob j v).msixOut = s.msixOut := rfl
@[simp] theorem State.setJob_sriov : (s.setJob j v).sriov = s.sriov := rfl
@[simp] theorem State.setJob_vfs : (s.setJob j v).vfs = s.vfs := rfl
@[simp] theorem State.setJob_linkUp : (s.setJob j v).linkUp = s.linkUp := rfl
@[simp] theorem State.setJob_linkGen : (s.setJob j v).linkGen = s.linkGen := rfl
@[simp] theorem State.setJob_linkWidth : (s.setJob j v).linkWidth = s.linkWidth := rfl
@[simp] theorem State.setJob_msix : (s.setJob j v).msix = s.msix := rfl
@[simp] theorem State.setJob_hostWork : (s.setJob j v).hostWork = s.hostWork := rfl
@[simp] theorem State.setJob_postsDue : (s.setJob j v).postsDue = s.postsDue := rfl
@[simp] theorem State.setJob_storeLog : (s.setJob j v).storeLog = s.storeLog := rfl
@[simp] theorem State.setJob_crossFixed : (s.setJob j v).crossFixed = s.crossFixed := rfl
@[simp] theorem State.setJob_perst : (s.setJob j v).perst = s.perst := rfl
@[simp] theorem State.setJob_heldOut : (s.setJob j v).heldOut = s.heldOut := rfl
@[simp] theorem State.setJob_readOut : (s.setJob j v).readOut = s.readOut := rfl
@[simp] theorem State.setJob_ethPort : (s.setJob j v).ethPort = s.ethPort := rfl
@[simp] theorem State.setJob_ethAddr : (s.setJob j v).ethAddr = s.ethAddr := rfl
@[simp] theorem State.setJob_ethWords : (s.setJob j v).ethWords = s.ethWords := rfl
@[simp] theorem State.setJob_regions : (s.setJob j v).regions = s.regions := rfl
@[simp] theorem State.setJob_qps : (s.setJob j v).qps = s.qps := rfl
@[simp] theorem State.setJob_pfc : (s.setJob j v).pfc = s.pfc := rfl
@[simp] theorem State.setJob_ethOut : (s.setJob j v).ethOut = s.ethOut := rfl
@[simp] theorem State.setJob_ethWait : (s.setJob j v).ethWait = s.ethWait := rfl
@[simp] theorem State.setJob_parts : (s.setJob j v).parts = s.parts := rfl
@[simp] theorem State.setJob_images : (s.setJob j v).images = s.images := rfl
@[simp] theorem State.setJob_errNumber : (s.setJob j v).errNumber = s.errNumber := rfl
@[simp] theorem State.setJob_errLog : (s.setJob j v).errLog = s.errLog := rfl
@[simp] theorem State.setJob_errHold : (s.setJob j v).errHold = s.errHold := rfl
@[simp] theorem State.setJob_mctpOut : (s.setJob j v).mctpOut = s.mctpOut := rfl
@[simp] theorem State.setJob_lookCmds : (s.setJob j v).lookCmds = s.lookCmds := rfl
@[simp] theorem State.setJob_stopsOut : (s.setJob j v).stopsOut = s.stopsOut := rfl
@[simp] theorem State.setJob_shardOut : (s.setJob j v).shardOut = s.shardOut := rfl
@[simp] theorem State.setJob_ftCtl : (s.setJob j v).ftCtl = s.ftCtl := rfl
@[simp] theorem State.setJob_idOk : (s.setJob j v).idOk = s.idOk := rfl
@[simp] theorem State.setJob_jobKeys : (s.setJob j v).jobKeys = s.jobKeys := rfl
@[simp] theorem State.setJob_packages : (s.setJob j v).packages = s.packages := rfl
@[simp] theorem State.setJob_dbgCount : (s.setJob j v).dbgCount = s.dbgCount := rfl
@[simp] theorem State.setJob_quiet : (s.setJob j v).quiet = s.quiet := rfl
@[simp] theorem State.setJob_quietBefore : (s.setJob j v).quietBefore = s.quietBefore := rfl
@[simp] theorem State.setJob_quietTicks : (s.setJob j v).quietTicks = s.quietTicks := rfl
@[simp] theorem State.setJob_pllOff : (s.setJob j v).pllOff = s.pllOff := rfl
@[simp] theorem State.setJob_powerCmds : (s.setJob j v).powerCmds = s.powerCmds := rfl
@[simp] theorem State.setJob_hostUnmap : (s.setJob j v).hostUnmap = s.hostUnmap := rfl
@[simp] theorem State.setJob_trainWait : (s.setJob j v).trainWait = s.trainWait := rfl
@[simp] theorem State.setJob_warmSetting : (s.setJob j v).warmSetting = s.warmSetting := rfl
@[simp] theorem State.setJob_nvm : (s.setJob j v).nvm = s.nvm := rfl
@[simp] theorem State.setJob_flash : (s.setJob j v).flash = s.flash := rfl
@[simp] theorem State.setJob_fwImage : (s.setJob j v).fwImage = s.fwImage := rfl
@[simp] theorem State.setJob_recovery : (s.setJob j v).recovery = s.recovery := rfl
@[simp] theorem State.setJob_powered : (s.setJob j v).powered = s.powered := rfl
@[simp] theorem State.setJob_crossErr : (s.setJob j v).crossErr = s.crossErr := rfl
@[simp] theorem State.setJob_refOk : (s.setJob j v).refOk = s.refOk := rfl
@[simp] theorem State.setJob_straps : (s.setJob j v).straps = s.straps := rfl
@[simp] theorem State.setJob_i3cAddr : (s.setJob j v).i3cAddr = s.i3cAddr := rfl

end

/-! ### setTable -/

section
variable (s : State) (n : Nat) (v : Option Table)

@[simp] theorem State.setTable_pending : (s.setTable n v).pending = s.pending := rfl
@[simp] theorem State.setTable_fresh : (s.setTable n v).fresh = s.fresh := rfl
@[simp] theorem State.setTable_tick : (s.setTable n v).tick = s.tick := rfl
@[simp] theorem State.setTable_tsLatch : (s.setTable n v).tsLatch = s.tsLatch := rfl
@[simp] theorem State.setTable_slipCount : (s.setTable n v).slipCount = s.slipCount := rfl
@[simp] theorem State.setTable_slipTicks : (s.setTable n v).slipTicks = s.slipTicks := rfl
@[simp] theorem State.setTable_assigned : (s.setTable n v).assigned = s.assigned := rfl
@[simp] theorem State.setTable_device : (s.setTable n v).device = s.device := rfl
@[simp] theorem State.setTable_failedAll : (s.setTable n v).failedAll = s.failedAll := rfl
@[simp] theorem State.setTable_framesStopped : (s.setTable n v).framesStopped = s.framesStopped := rfl
@[simp] theorem State.setTable_clocksStopped : (s.setTable n v).clocksStopped = s.clocksStopped := rfl
@[simp] theorem State.setTable_refLost : (s.setTable n v).refLost = s.refLost := rfl
@[simp] theorem State.setTable_groups : (s.setTable n v).groups = s.groups := rfl
@[simp] theorem State.setTable_cores : (s.setTable n v).cores = s.cores := rfl
@[simp] theorem State.setTable_clusters : (s.setTable n v).clusters = s.clusters := rfl
@[simp] theorem State.setTable_store : (s.setTable n v).store = s.store := rfl
@[simp] theorem State.setTable_deck : (s.setTable n v).deck = s.deck := rfl
@[simp] theorem State.setTable_hbm : (s.setTable n v).hbm = s.hbm := rfl
@[simp] theorem State.setTable_imem : (s.setTable n v).imem = s.imem := rfl
@[simp] theorem State.setTable_host : (s.setTable n v).host = s.host := rfl
@[simp] theorem State.setTable_tlbs : (s.setTable n v).tlbs = s.tlbs := rfl
@[simp] theorem State.setTable_leaves : (s.setTable n v).leaves = s.leaves := rfl
@[simp] theorem State.setTable_ptables : (s.setTable n v).ptables = s.ptables := rfl
@[simp] theorem State.setTable_windows : (s.setTable n v).windows = s.windows := rfl
@[simp] theorem State.setTable_invals : (s.setTable n v).invals = s.invals := rfl
@[simp] theorem State.setTable_winClears : (s.setTable n v).winClears = s.winClears := rfl
@[simp] theorem State.setTable_overlay : (s.setTable n v).overlay = s.overlay := rfl
@[simp] theorem State.setTable_overlayMib : (s.setTable n v).overlayMib = s.overlayMib := rfl
@[simp] theorem State.setTable_folds : (s.setTable n v).folds = s.folds := rfl
@[simp] theorem State.setTable_retires : (s.setTable n v).retires = s.retires := rfl
@[simp] theorem State.setTable_lockedTables : (s.setTable n v).lockedTables = s.lockedTables := rfl
@[simp] theorem State.setTable_lockedGroups : (s.setTable n v).lockedGroups = s.lockedGroups := rfl
@[simp] theorem State.setTable_hbmStacks : (s.setTable n v).hbmStacks = s.hbmStacks := rfl
@[simp] theorem State.setTable_hbmCtl : (s.setTable n v).hbmCtl = s.hbmCtl := rfl
@[simp] theorem State.setTable_ports : (s.setTable n v).ports = s.ports := rfl
@[simp] theorem State.setTable_fabricOn : (s.setTable n v).fabricOn = s.fabricOn := rfl
@[simp] theorem State.setTable_fabric : (s.setTable n v).fabric = s.fabric := rfl
@[simp] theorem State.setTable_joining : (s.setTable n v).joining = s.joining := rfl
@[simp] theorem State.setTable_ceil : (s.setTable n v).ceil = s.ceil := rfl
@[simp] theorem State.setTable_rxStreams : (s.setTable n v).rxStreams = s.rxStreams := rfl
@[simp] theorem State.setTable_relayQ : (s.setTable n v).relayQ = s.relayQ := rfl
@[simp] theorem State.setTable_waitSegs : (s.setTable n v).waitSegs = s.waitSegs := rfl
@[simp] theorem State.setTable_mcPrep : (s.setTable n v).mcPrep = s.mcPrep := rfl
@[simp] theorem State.setTable_mcRoot : (s.setTable n v).mcRoot = s.mcRoot := rfl
@[simp] theorem State.setTable_mcCoord : (s.setTable n v).mcCoord = s.mcCoord := rfl
@[simp] theorem State.setTable_mcNext : (s.setTable n v).mcNext = s.mcNext := rfl
@[simp] theorem State.setTable_mcOut : (s.setTable n v).mcOut = s.mcOut := rfl
@[simp] theorem State.setTable_failedDevs : (s.setTable n v).failedDevs = s.failedDevs := rfl
@[simp] theorem State.setTable_failedSeen : (s.setTable n v).failedSeen = s.failedSeen := rfl
@[simp] theorem State.setTable_sensors : (s.setTable n v).sensors = s.sensors := rfl
@[simp] theorem State.setTable_powerWindows : (s.setTable n v).powerWindows = s.powerWindows := rfl
@[simp] theorem State.setTable_notices : (s.setTable n v).notices = s.notices := rfl
@[simp] theorem State.setTable_ready : (s.setTable n v).ready = s.ready := rfl
@[simp] theorem State.setTable_warmFlag : (s.setTable n v).warmFlag = s.warmFlag := rfl
@[simp] theorem State.setTable_bar2Base : (s.setTable n v).bar2Base = s.bar2Base := rfl
@[simp] theorem State.setTable_bar2Log2 : (s.setTable n v).bar2Log2 = s.bar2Log2 := rfl
@[simp] theorem State.setTable_errRoute : (s.setTable n v).errRoute = s.errRoute := rfl
@[simp] theorem State.setTable_errRing : (s.setTable n v).errRing = s.errRing := rfl
@[simp] theorem State.setTable_errDropped : (s.setTable n v).errDropped = s.errDropped := rfl
@[simp] theorem State.setTable_errTail : (s.setTable n v).errTail = s.errTail := rfl
@[simp] theorem State.setTable_errHead : (s.setTable n v).errHead = s.errHead := rfl
@[simp] theorem State.setTable_queues : (s.setTable n v).queues = s.queues := rfl
@[simp] theorem State.setTable_admin : (s.setTable n v).admin = s.admin := rfl
@[simp] theorem State.setTable_msixOut : (s.setTable n v).msixOut = s.msixOut := rfl
@[simp] theorem State.setTable_sriov : (s.setTable n v).sriov = s.sriov := rfl
@[simp] theorem State.setTable_vfs : (s.setTable n v).vfs = s.vfs := rfl
@[simp] theorem State.setTable_linkUp : (s.setTable n v).linkUp = s.linkUp := rfl
@[simp] theorem State.setTable_linkGen : (s.setTable n v).linkGen = s.linkGen := rfl
@[simp] theorem State.setTable_linkWidth : (s.setTable n v).linkWidth = s.linkWidth := rfl
@[simp] theorem State.setTable_msix : (s.setTable n v).msix = s.msix := rfl
@[simp] theorem State.setTable_hostWork : (s.setTable n v).hostWork = s.hostWork := rfl
@[simp] theorem State.setTable_postsDue : (s.setTable n v).postsDue = s.postsDue := rfl
@[simp] theorem State.setTable_storeLog : (s.setTable n v).storeLog = s.storeLog := rfl
@[simp] theorem State.setTable_crossFixed : (s.setTable n v).crossFixed = s.crossFixed := rfl
@[simp] theorem State.setTable_perst : (s.setTable n v).perst = s.perst := rfl
@[simp] theorem State.setTable_heldOut : (s.setTable n v).heldOut = s.heldOut := rfl
@[simp] theorem State.setTable_readOut : (s.setTable n v).readOut = s.readOut := rfl
@[simp] theorem State.setTable_ethPort : (s.setTable n v).ethPort = s.ethPort := rfl
@[simp] theorem State.setTable_ethAddr : (s.setTable n v).ethAddr = s.ethAddr := rfl
@[simp] theorem State.setTable_ethWords : (s.setTable n v).ethWords = s.ethWords := rfl
@[simp] theorem State.setTable_regions : (s.setTable n v).regions = s.regions := rfl
@[simp] theorem State.setTable_qps : (s.setTable n v).qps = s.qps := rfl
@[simp] theorem State.setTable_pfc : (s.setTable n v).pfc = s.pfc := rfl
@[simp] theorem State.setTable_ethOut : (s.setTable n v).ethOut = s.ethOut := rfl
@[simp] theorem State.setTable_ethWait : (s.setTable n v).ethWait = s.ethWait := rfl
@[simp] theorem State.setTable_parts : (s.setTable n v).parts = s.parts := rfl
@[simp] theorem State.setTable_jobs : (s.setTable n v).jobs = s.jobs := rfl
@[simp] theorem State.setTable_images : (s.setTable n v).images = s.images := rfl
@[simp] theorem State.setTable_errNumber : (s.setTable n v).errNumber = s.errNumber := rfl
@[simp] theorem State.setTable_errLog : (s.setTable n v).errLog = s.errLog := rfl
@[simp] theorem State.setTable_errHold : (s.setTable n v).errHold = s.errHold := rfl
@[simp] theorem State.setTable_mctpOut : (s.setTable n v).mctpOut = s.mctpOut := rfl
@[simp] theorem State.setTable_lookCmds : (s.setTable n v).lookCmds = s.lookCmds := rfl
@[simp] theorem State.setTable_stopsOut : (s.setTable n v).stopsOut = s.stopsOut := rfl
@[simp] theorem State.setTable_shardOut : (s.setTable n v).shardOut = s.shardOut := rfl
@[simp] theorem State.setTable_ftCtl : (s.setTable n v).ftCtl = s.ftCtl := rfl
@[simp] theorem State.setTable_idOk : (s.setTable n v).idOk = s.idOk := rfl
@[simp] theorem State.setTable_jobKeys : (s.setTable n v).jobKeys = s.jobKeys := rfl
@[simp] theorem State.setTable_packages : (s.setTable n v).packages = s.packages := rfl
@[simp] theorem State.setTable_dbgCount : (s.setTable n v).dbgCount = s.dbgCount := rfl
@[simp] theorem State.setTable_quiet : (s.setTable n v).quiet = s.quiet := rfl
@[simp] theorem State.setTable_quietBefore : (s.setTable n v).quietBefore = s.quietBefore := rfl
@[simp] theorem State.setTable_quietTicks : (s.setTable n v).quietTicks = s.quietTicks := rfl
@[simp] theorem State.setTable_pllOff : (s.setTable n v).pllOff = s.pllOff := rfl
@[simp] theorem State.setTable_powerCmds : (s.setTable n v).powerCmds = s.powerCmds := rfl
@[simp] theorem State.setTable_hostUnmap : (s.setTable n v).hostUnmap = s.hostUnmap := rfl
@[simp] theorem State.setTable_trainWait : (s.setTable n v).trainWait = s.trainWait := rfl
@[simp] theorem State.setTable_warmSetting : (s.setTable n v).warmSetting = s.warmSetting := rfl
@[simp] theorem State.setTable_nvm : (s.setTable n v).nvm = s.nvm := rfl
@[simp] theorem State.setTable_flash : (s.setTable n v).flash = s.flash := rfl
@[simp] theorem State.setTable_fwImage : (s.setTable n v).fwImage = s.fwImage := rfl
@[simp] theorem State.setTable_recovery : (s.setTable n v).recovery = s.recovery := rfl
@[simp] theorem State.setTable_powered : (s.setTable n v).powered = s.powered := rfl
@[simp] theorem State.setTable_crossErr : (s.setTable n v).crossErr = s.crossErr := rfl
@[simp] theorem State.setTable_refOk : (s.setTable n v).refOk = s.refOk := rfl
@[simp] theorem State.setTable_straps : (s.setTable n v).straps = s.straps := rfl
@[simp] theorem State.setTable_i3cAddr : (s.setTable n v).i3cAddr = s.i3cAddr := rfl

end

/-! ### setWindow -/

section
variable (s : State) (n : Nat) (v : Window)

@[simp] theorem State.setWindow_pending : (s.setWindow n v).pending = s.pending := rfl
@[simp] theorem State.setWindow_fresh : (s.setWindow n v).fresh = s.fresh := rfl
@[simp] theorem State.setWindow_tick : (s.setWindow n v).tick = s.tick := rfl
@[simp] theorem State.setWindow_tsLatch : (s.setWindow n v).tsLatch = s.tsLatch := rfl
@[simp] theorem State.setWindow_slipCount : (s.setWindow n v).slipCount = s.slipCount := rfl
@[simp] theorem State.setWindow_slipTicks : (s.setWindow n v).slipTicks = s.slipTicks := rfl
@[simp] theorem State.setWindow_assigned : (s.setWindow n v).assigned = s.assigned := rfl
@[simp] theorem State.setWindow_device : (s.setWindow n v).device = s.device := rfl
@[simp] theorem State.setWindow_failedAll : (s.setWindow n v).failedAll = s.failedAll := rfl
@[simp] theorem State.setWindow_framesStopped : (s.setWindow n v).framesStopped = s.framesStopped := rfl
@[simp] theorem State.setWindow_clocksStopped : (s.setWindow n v).clocksStopped = s.clocksStopped := rfl
@[simp] theorem State.setWindow_refLost : (s.setWindow n v).refLost = s.refLost := rfl
@[simp] theorem State.setWindow_groups : (s.setWindow n v).groups = s.groups := rfl
@[simp] theorem State.setWindow_cores : (s.setWindow n v).cores = s.cores := rfl
@[simp] theorem State.setWindow_clusters : (s.setWindow n v).clusters = s.clusters := rfl
@[simp] theorem State.setWindow_store : (s.setWindow n v).store = s.store := rfl
@[simp] theorem State.setWindow_deck : (s.setWindow n v).deck = s.deck := rfl
@[simp] theorem State.setWindow_hbm : (s.setWindow n v).hbm = s.hbm := rfl
@[simp] theorem State.setWindow_imem : (s.setWindow n v).imem = s.imem := rfl
@[simp] theorem State.setWindow_host : (s.setWindow n v).host = s.host := rfl
@[simp] theorem State.setWindow_tlbs : (s.setWindow n v).tlbs = s.tlbs := rfl
@[simp] theorem State.setWindow_leaves : (s.setWindow n v).leaves = s.leaves := rfl
@[simp] theorem State.setWindow_ptables : (s.setWindow n v).ptables = s.ptables := rfl
@[simp] theorem State.setWindow_invals : (s.setWindow n v).invals = s.invals := rfl
@[simp] theorem State.setWindow_winClears : (s.setWindow n v).winClears = s.winClears := rfl
@[simp] theorem State.setWindow_tables : (s.setWindow n v).tables = s.tables := rfl
@[simp] theorem State.setWindow_overlay : (s.setWindow n v).overlay = s.overlay := rfl
@[simp] theorem State.setWindow_overlayMib : (s.setWindow n v).overlayMib = s.overlayMib := rfl
@[simp] theorem State.setWindow_folds : (s.setWindow n v).folds = s.folds := rfl
@[simp] theorem State.setWindow_retires : (s.setWindow n v).retires = s.retires := rfl
@[simp] theorem State.setWindow_lockedTables : (s.setWindow n v).lockedTables = s.lockedTables := rfl
@[simp] theorem State.setWindow_lockedGroups : (s.setWindow n v).lockedGroups = s.lockedGroups := rfl
@[simp] theorem State.setWindow_hbmStacks : (s.setWindow n v).hbmStacks = s.hbmStacks := rfl
@[simp] theorem State.setWindow_hbmCtl : (s.setWindow n v).hbmCtl = s.hbmCtl := rfl
@[simp] theorem State.setWindow_ports : (s.setWindow n v).ports = s.ports := rfl
@[simp] theorem State.setWindow_fabricOn : (s.setWindow n v).fabricOn = s.fabricOn := rfl
@[simp] theorem State.setWindow_fabric : (s.setWindow n v).fabric = s.fabric := rfl
@[simp] theorem State.setWindow_joining : (s.setWindow n v).joining = s.joining := rfl
@[simp] theorem State.setWindow_ceil : (s.setWindow n v).ceil = s.ceil := rfl
@[simp] theorem State.setWindow_rxStreams : (s.setWindow n v).rxStreams = s.rxStreams := rfl
@[simp] theorem State.setWindow_relayQ : (s.setWindow n v).relayQ = s.relayQ := rfl
@[simp] theorem State.setWindow_waitSegs : (s.setWindow n v).waitSegs = s.waitSegs := rfl
@[simp] theorem State.setWindow_mcPrep : (s.setWindow n v).mcPrep = s.mcPrep := rfl
@[simp] theorem State.setWindow_mcRoot : (s.setWindow n v).mcRoot = s.mcRoot := rfl
@[simp] theorem State.setWindow_mcCoord : (s.setWindow n v).mcCoord = s.mcCoord := rfl
@[simp] theorem State.setWindow_mcNext : (s.setWindow n v).mcNext = s.mcNext := rfl
@[simp] theorem State.setWindow_mcOut : (s.setWindow n v).mcOut = s.mcOut := rfl
@[simp] theorem State.setWindow_failedDevs : (s.setWindow n v).failedDevs = s.failedDevs := rfl
@[simp] theorem State.setWindow_failedSeen : (s.setWindow n v).failedSeen = s.failedSeen := rfl
@[simp] theorem State.setWindow_sensors : (s.setWindow n v).sensors = s.sensors := rfl
@[simp] theorem State.setWindow_powerWindows : (s.setWindow n v).powerWindows = s.powerWindows := rfl
@[simp] theorem State.setWindow_notices : (s.setWindow n v).notices = s.notices := rfl
@[simp] theorem State.setWindow_ready : (s.setWindow n v).ready = s.ready := rfl
@[simp] theorem State.setWindow_warmFlag : (s.setWindow n v).warmFlag = s.warmFlag := rfl
@[simp] theorem State.setWindow_bar2Base : (s.setWindow n v).bar2Base = s.bar2Base := rfl
@[simp] theorem State.setWindow_bar2Log2 : (s.setWindow n v).bar2Log2 = s.bar2Log2 := rfl
@[simp] theorem State.setWindow_errRoute : (s.setWindow n v).errRoute = s.errRoute := rfl
@[simp] theorem State.setWindow_errRing : (s.setWindow n v).errRing = s.errRing := rfl
@[simp] theorem State.setWindow_errDropped : (s.setWindow n v).errDropped = s.errDropped := rfl
@[simp] theorem State.setWindow_errTail : (s.setWindow n v).errTail = s.errTail := rfl
@[simp] theorem State.setWindow_errHead : (s.setWindow n v).errHead = s.errHead := rfl
@[simp] theorem State.setWindow_queues : (s.setWindow n v).queues = s.queues := rfl
@[simp] theorem State.setWindow_admin : (s.setWindow n v).admin = s.admin := rfl
@[simp] theorem State.setWindow_msixOut : (s.setWindow n v).msixOut = s.msixOut := rfl
@[simp] theorem State.setWindow_sriov : (s.setWindow n v).sriov = s.sriov := rfl
@[simp] theorem State.setWindow_vfs : (s.setWindow n v).vfs = s.vfs := rfl
@[simp] theorem State.setWindow_linkUp : (s.setWindow n v).linkUp = s.linkUp := rfl
@[simp] theorem State.setWindow_linkGen : (s.setWindow n v).linkGen = s.linkGen := rfl
@[simp] theorem State.setWindow_linkWidth : (s.setWindow n v).linkWidth = s.linkWidth := rfl
@[simp] theorem State.setWindow_msix : (s.setWindow n v).msix = s.msix := rfl
@[simp] theorem State.setWindow_hostWork : (s.setWindow n v).hostWork = s.hostWork := rfl
@[simp] theorem State.setWindow_postsDue : (s.setWindow n v).postsDue = s.postsDue := rfl
@[simp] theorem State.setWindow_storeLog : (s.setWindow n v).storeLog = s.storeLog := rfl
@[simp] theorem State.setWindow_crossFixed : (s.setWindow n v).crossFixed = s.crossFixed := rfl
@[simp] theorem State.setWindow_perst : (s.setWindow n v).perst = s.perst := rfl
@[simp] theorem State.setWindow_heldOut : (s.setWindow n v).heldOut = s.heldOut := rfl
@[simp] theorem State.setWindow_readOut : (s.setWindow n v).readOut = s.readOut := rfl
@[simp] theorem State.setWindow_ethPort : (s.setWindow n v).ethPort = s.ethPort := rfl
@[simp] theorem State.setWindow_ethAddr : (s.setWindow n v).ethAddr = s.ethAddr := rfl
@[simp] theorem State.setWindow_ethWords : (s.setWindow n v).ethWords = s.ethWords := rfl
@[simp] theorem State.setWindow_regions : (s.setWindow n v).regions = s.regions := rfl
@[simp] theorem State.setWindow_qps : (s.setWindow n v).qps = s.qps := rfl
@[simp] theorem State.setWindow_pfc : (s.setWindow n v).pfc = s.pfc := rfl
@[simp] theorem State.setWindow_ethOut : (s.setWindow n v).ethOut = s.ethOut := rfl
@[simp] theorem State.setWindow_ethWait : (s.setWindow n v).ethWait = s.ethWait := rfl
@[simp] theorem State.setWindow_parts : (s.setWindow n v).parts = s.parts := rfl
@[simp] theorem State.setWindow_jobs : (s.setWindow n v).jobs = s.jobs := rfl
@[simp] theorem State.setWindow_images : (s.setWindow n v).images = s.images := rfl
@[simp] theorem State.setWindow_errNumber : (s.setWindow n v).errNumber = s.errNumber := rfl
@[simp] theorem State.setWindow_errLog : (s.setWindow n v).errLog = s.errLog := rfl
@[simp] theorem State.setWindow_errHold : (s.setWindow n v).errHold = s.errHold := rfl
@[simp] theorem State.setWindow_mctpOut : (s.setWindow n v).mctpOut = s.mctpOut := rfl
@[simp] theorem State.setWindow_lookCmds : (s.setWindow n v).lookCmds = s.lookCmds := rfl
@[simp] theorem State.setWindow_stopsOut : (s.setWindow n v).stopsOut = s.stopsOut := rfl
@[simp] theorem State.setWindow_shardOut : (s.setWindow n v).shardOut = s.shardOut := rfl
@[simp] theorem State.setWindow_ftCtl : (s.setWindow n v).ftCtl = s.ftCtl := rfl
@[simp] theorem State.setWindow_idOk : (s.setWindow n v).idOk = s.idOk := rfl
@[simp] theorem State.setWindow_jobKeys : (s.setWindow n v).jobKeys = s.jobKeys := rfl
@[simp] theorem State.setWindow_packages : (s.setWindow n v).packages = s.packages := rfl
@[simp] theorem State.setWindow_dbgCount : (s.setWindow n v).dbgCount = s.dbgCount := rfl
@[simp] theorem State.setWindow_quiet : (s.setWindow n v).quiet = s.quiet := rfl
@[simp] theorem State.setWindow_quietBefore : (s.setWindow n v).quietBefore = s.quietBefore := rfl
@[simp] theorem State.setWindow_quietTicks : (s.setWindow n v).quietTicks = s.quietTicks := rfl
@[simp] theorem State.setWindow_pllOff : (s.setWindow n v).pllOff = s.pllOff := rfl
@[simp] theorem State.setWindow_powerCmds : (s.setWindow n v).powerCmds = s.powerCmds := rfl
@[simp] theorem State.setWindow_hostUnmap : (s.setWindow n v).hostUnmap = s.hostUnmap := rfl
@[simp] theorem State.setWindow_trainWait : (s.setWindow n v).trainWait = s.trainWait := rfl
@[simp] theorem State.setWindow_warmSetting : (s.setWindow n v).warmSetting = s.warmSetting := rfl
@[simp] theorem State.setWindow_nvm : (s.setWindow n v).nvm = s.nvm := rfl
@[simp] theorem State.setWindow_flash : (s.setWindow n v).flash = s.flash := rfl
@[simp] theorem State.setWindow_fwImage : (s.setWindow n v).fwImage = s.fwImage := rfl
@[simp] theorem State.setWindow_recovery : (s.setWindow n v).recovery = s.recovery := rfl
@[simp] theorem State.setWindow_powered : (s.setWindow n v).powered = s.powered := rfl
@[simp] theorem State.setWindow_crossErr : (s.setWindow n v).crossErr = s.crossErr := rfl
@[simp] theorem State.setWindow_refOk : (s.setWindow n v).refOk = s.refOk := rfl
@[simp] theorem State.setWindow_straps : (s.setWindow n v).straps = s.straps := rfl
@[simp] theorem State.setWindow_i3cAddr : (s.setWindow n v).i3cAddr = s.i3cAddr := rfl

end

/-! ### setGroupE -/

section
variable (s : State) (n : Nat) (v : GroupEntry)

@[simp] theorem State.setGroupE_pending : (s.setGroupE n v).pending = s.pending := rfl
@[simp] theorem State.setGroupE_fresh : (s.setGroupE n v).fresh = s.fresh := rfl
@[simp] theorem State.setGroupE_tick : (s.setGroupE n v).tick = s.tick := rfl
@[simp] theorem State.setGroupE_tsLatch : (s.setGroupE n v).tsLatch = s.tsLatch := rfl
@[simp] theorem State.setGroupE_slipCount : (s.setGroupE n v).slipCount = s.slipCount := rfl
@[simp] theorem State.setGroupE_slipTicks : (s.setGroupE n v).slipTicks = s.slipTicks := rfl
@[simp] theorem State.setGroupE_assigned : (s.setGroupE n v).assigned = s.assigned := rfl
@[simp] theorem State.setGroupE_device : (s.setGroupE n v).device = s.device := rfl
@[simp] theorem State.setGroupE_failedAll : (s.setGroupE n v).failedAll = s.failedAll := rfl
@[simp] theorem State.setGroupE_framesStopped : (s.setGroupE n v).framesStopped = s.framesStopped := rfl
@[simp] theorem State.setGroupE_clocksStopped : (s.setGroupE n v).clocksStopped = s.clocksStopped := rfl
@[simp] theorem State.setGroupE_refLost : (s.setGroupE n v).refLost = s.refLost := rfl
@[simp] theorem State.setGroupE_cores : (s.setGroupE n v).cores = s.cores := rfl
@[simp] theorem State.setGroupE_clusters : (s.setGroupE n v).clusters = s.clusters := rfl
@[simp] theorem State.setGroupE_store : (s.setGroupE n v).store = s.store := rfl
@[simp] theorem State.setGroupE_deck : (s.setGroupE n v).deck = s.deck := rfl
@[simp] theorem State.setGroupE_hbm : (s.setGroupE n v).hbm = s.hbm := rfl
@[simp] theorem State.setGroupE_imem : (s.setGroupE n v).imem = s.imem := rfl
@[simp] theorem State.setGroupE_host : (s.setGroupE n v).host = s.host := rfl
@[simp] theorem State.setGroupE_tlbs : (s.setGroupE n v).tlbs = s.tlbs := rfl
@[simp] theorem State.setGroupE_leaves : (s.setGroupE n v).leaves = s.leaves := rfl
@[simp] theorem State.setGroupE_ptables : (s.setGroupE n v).ptables = s.ptables := rfl
@[simp] theorem State.setGroupE_windows : (s.setGroupE n v).windows = s.windows := rfl
@[simp] theorem State.setGroupE_invals : (s.setGroupE n v).invals = s.invals := rfl
@[simp] theorem State.setGroupE_winClears : (s.setGroupE n v).winClears = s.winClears := rfl
@[simp] theorem State.setGroupE_tables : (s.setGroupE n v).tables = s.tables := rfl
@[simp] theorem State.setGroupE_overlay : (s.setGroupE n v).overlay = s.overlay := rfl
@[simp] theorem State.setGroupE_overlayMib : (s.setGroupE n v).overlayMib = s.overlayMib := rfl
@[simp] theorem State.setGroupE_folds : (s.setGroupE n v).folds = s.folds := rfl
@[simp] theorem State.setGroupE_retires : (s.setGroupE n v).retires = s.retires := rfl
@[simp] theorem State.setGroupE_lockedTables : (s.setGroupE n v).lockedTables = s.lockedTables := rfl
@[simp] theorem State.setGroupE_lockedGroups : (s.setGroupE n v).lockedGroups = s.lockedGroups := rfl
@[simp] theorem State.setGroupE_hbmStacks : (s.setGroupE n v).hbmStacks = s.hbmStacks := rfl
@[simp] theorem State.setGroupE_hbmCtl : (s.setGroupE n v).hbmCtl = s.hbmCtl := rfl
@[simp] theorem State.setGroupE_ports : (s.setGroupE n v).ports = s.ports := rfl
@[simp] theorem State.setGroupE_fabricOn : (s.setGroupE n v).fabricOn = s.fabricOn := rfl
@[simp] theorem State.setGroupE_fabric : (s.setGroupE n v).fabric = s.fabric := rfl
@[simp] theorem State.setGroupE_joining : (s.setGroupE n v).joining = s.joining := rfl
@[simp] theorem State.setGroupE_ceil : (s.setGroupE n v).ceil = s.ceil := rfl
@[simp] theorem State.setGroupE_rxStreams : (s.setGroupE n v).rxStreams = s.rxStreams := rfl
@[simp] theorem State.setGroupE_relayQ : (s.setGroupE n v).relayQ = s.relayQ := rfl
@[simp] theorem State.setGroupE_waitSegs : (s.setGroupE n v).waitSegs = s.waitSegs := rfl
@[simp] theorem State.setGroupE_mcPrep : (s.setGroupE n v).mcPrep = s.mcPrep := rfl
@[simp] theorem State.setGroupE_mcRoot : (s.setGroupE n v).mcRoot = s.mcRoot := rfl
@[simp] theorem State.setGroupE_mcCoord : (s.setGroupE n v).mcCoord = s.mcCoord := rfl
@[simp] theorem State.setGroupE_mcNext : (s.setGroupE n v).mcNext = s.mcNext := rfl
@[simp] theorem State.setGroupE_mcOut : (s.setGroupE n v).mcOut = s.mcOut := rfl
@[simp] theorem State.setGroupE_failedDevs : (s.setGroupE n v).failedDevs = s.failedDevs := rfl
@[simp] theorem State.setGroupE_failedSeen : (s.setGroupE n v).failedSeen = s.failedSeen := rfl
@[simp] theorem State.setGroupE_sensors : (s.setGroupE n v).sensors = s.sensors := rfl
@[simp] theorem State.setGroupE_powerWindows : (s.setGroupE n v).powerWindows = s.powerWindows := rfl
@[simp] theorem State.setGroupE_notices : (s.setGroupE n v).notices = s.notices := rfl
@[simp] theorem State.setGroupE_ready : (s.setGroupE n v).ready = s.ready := rfl
@[simp] theorem State.setGroupE_warmFlag : (s.setGroupE n v).warmFlag = s.warmFlag := rfl
@[simp] theorem State.setGroupE_bar2Base : (s.setGroupE n v).bar2Base = s.bar2Base := rfl
@[simp] theorem State.setGroupE_bar2Log2 : (s.setGroupE n v).bar2Log2 = s.bar2Log2 := rfl
@[simp] theorem State.setGroupE_errRoute : (s.setGroupE n v).errRoute = s.errRoute := rfl
@[simp] theorem State.setGroupE_errRing : (s.setGroupE n v).errRing = s.errRing := rfl
@[simp] theorem State.setGroupE_errDropped : (s.setGroupE n v).errDropped = s.errDropped := rfl
@[simp] theorem State.setGroupE_errTail : (s.setGroupE n v).errTail = s.errTail := rfl
@[simp] theorem State.setGroupE_errHead : (s.setGroupE n v).errHead = s.errHead := rfl
@[simp] theorem State.setGroupE_queues : (s.setGroupE n v).queues = s.queues := rfl
@[simp] theorem State.setGroupE_admin : (s.setGroupE n v).admin = s.admin := rfl
@[simp] theorem State.setGroupE_msixOut : (s.setGroupE n v).msixOut = s.msixOut := rfl
@[simp] theorem State.setGroupE_sriov : (s.setGroupE n v).sriov = s.sriov := rfl
@[simp] theorem State.setGroupE_vfs : (s.setGroupE n v).vfs = s.vfs := rfl
@[simp] theorem State.setGroupE_linkUp : (s.setGroupE n v).linkUp = s.linkUp := rfl
@[simp] theorem State.setGroupE_linkGen : (s.setGroupE n v).linkGen = s.linkGen := rfl
@[simp] theorem State.setGroupE_linkWidth : (s.setGroupE n v).linkWidth = s.linkWidth := rfl
@[simp] theorem State.setGroupE_msix : (s.setGroupE n v).msix = s.msix := rfl
@[simp] theorem State.setGroupE_hostWork : (s.setGroupE n v).hostWork = s.hostWork := rfl
@[simp] theorem State.setGroupE_postsDue : (s.setGroupE n v).postsDue = s.postsDue := rfl
@[simp] theorem State.setGroupE_storeLog : (s.setGroupE n v).storeLog = s.storeLog := rfl
@[simp] theorem State.setGroupE_crossFixed : (s.setGroupE n v).crossFixed = s.crossFixed := rfl
@[simp] theorem State.setGroupE_perst : (s.setGroupE n v).perst = s.perst := rfl
@[simp] theorem State.setGroupE_heldOut : (s.setGroupE n v).heldOut = s.heldOut := rfl
@[simp] theorem State.setGroupE_readOut : (s.setGroupE n v).readOut = s.readOut := rfl
@[simp] theorem State.setGroupE_ethPort : (s.setGroupE n v).ethPort = s.ethPort := rfl
@[simp] theorem State.setGroupE_ethAddr : (s.setGroupE n v).ethAddr = s.ethAddr := rfl
@[simp] theorem State.setGroupE_ethWords : (s.setGroupE n v).ethWords = s.ethWords := rfl
@[simp] theorem State.setGroupE_regions : (s.setGroupE n v).regions = s.regions := rfl
@[simp] theorem State.setGroupE_qps : (s.setGroupE n v).qps = s.qps := rfl
@[simp] theorem State.setGroupE_pfc : (s.setGroupE n v).pfc = s.pfc := rfl
@[simp] theorem State.setGroupE_ethOut : (s.setGroupE n v).ethOut = s.ethOut := rfl
@[simp] theorem State.setGroupE_ethWait : (s.setGroupE n v).ethWait = s.ethWait := rfl
@[simp] theorem State.setGroupE_parts : (s.setGroupE n v).parts = s.parts := rfl
@[simp] theorem State.setGroupE_jobs : (s.setGroupE n v).jobs = s.jobs := rfl
@[simp] theorem State.setGroupE_images : (s.setGroupE n v).images = s.images := rfl
@[simp] theorem State.setGroupE_errNumber : (s.setGroupE n v).errNumber = s.errNumber := rfl
@[simp] theorem State.setGroupE_errLog : (s.setGroupE n v).errLog = s.errLog := rfl
@[simp] theorem State.setGroupE_errHold : (s.setGroupE n v).errHold = s.errHold := rfl
@[simp] theorem State.setGroupE_mctpOut : (s.setGroupE n v).mctpOut = s.mctpOut := rfl
@[simp] theorem State.setGroupE_lookCmds : (s.setGroupE n v).lookCmds = s.lookCmds := rfl
@[simp] theorem State.setGroupE_stopsOut : (s.setGroupE n v).stopsOut = s.stopsOut := rfl
@[simp] theorem State.setGroupE_shardOut : (s.setGroupE n v).shardOut = s.shardOut := rfl
@[simp] theorem State.setGroupE_ftCtl : (s.setGroupE n v).ftCtl = s.ftCtl := rfl
@[simp] theorem State.setGroupE_idOk : (s.setGroupE n v).idOk = s.idOk := rfl
@[simp] theorem State.setGroupE_jobKeys : (s.setGroupE n v).jobKeys = s.jobKeys := rfl
@[simp] theorem State.setGroupE_packages : (s.setGroupE n v).packages = s.packages := rfl
@[simp] theorem State.setGroupE_dbgCount : (s.setGroupE n v).dbgCount = s.dbgCount := rfl
@[simp] theorem State.setGroupE_quiet : (s.setGroupE n v).quiet = s.quiet := rfl
@[simp] theorem State.setGroupE_quietBefore : (s.setGroupE n v).quietBefore = s.quietBefore := rfl
@[simp] theorem State.setGroupE_quietTicks : (s.setGroupE n v).quietTicks = s.quietTicks := rfl
@[simp] theorem State.setGroupE_pllOff : (s.setGroupE n v).pllOff = s.pllOff := rfl
@[simp] theorem State.setGroupE_powerCmds : (s.setGroupE n v).powerCmds = s.powerCmds := rfl
@[simp] theorem State.setGroupE_hostUnmap : (s.setGroupE n v).hostUnmap = s.hostUnmap := rfl
@[simp] theorem State.setGroupE_trainWait : (s.setGroupE n v).trainWait = s.trainWait := rfl
@[simp] theorem State.setGroupE_warmSetting : (s.setGroupE n v).warmSetting = s.warmSetting := rfl
@[simp] theorem State.setGroupE_nvm : (s.setGroupE n v).nvm = s.nvm := rfl
@[simp] theorem State.setGroupE_flash : (s.setGroupE n v).flash = s.flash := rfl
@[simp] theorem State.setGroupE_fwImage : (s.setGroupE n v).fwImage = s.fwImage := rfl
@[simp] theorem State.setGroupE_recovery : (s.setGroupE n v).recovery = s.recovery := rfl
@[simp] theorem State.setGroupE_powered : (s.setGroupE n v).powered = s.powered := rfl
@[simp] theorem State.setGroupE_crossErr : (s.setGroupE n v).crossErr = s.crossErr := rfl
@[simp] theorem State.setGroupE_refOk : (s.setGroupE n v).refOk = s.refOk := rfl
@[simp] theorem State.setGroupE_straps : (s.setGroupE n v).straps = s.straps := rfl
@[simp] theorem State.setGroupE_i3cAddr : (s.setGroupE n v).i3cAddr = s.i3cAddr := rfl

end

/-! ### used -/

section
variable (s : State) (n : Nat)

@[simp] theorem State.used_pending : (s.used n).pending = s.pending := rfl
@[simp] theorem State.used_tick : (s.used n).tick = s.tick := rfl
@[simp] theorem State.used_tsLatch : (s.used n).tsLatch = s.tsLatch := rfl
@[simp] theorem State.used_slipCount : (s.used n).slipCount = s.slipCount := rfl
@[simp] theorem State.used_slipTicks : (s.used n).slipTicks = s.slipTicks := rfl
@[simp] theorem State.used_assigned : (s.used n).assigned = s.assigned := rfl
@[simp] theorem State.used_device : (s.used n).device = s.device := rfl
@[simp] theorem State.used_failedAll : (s.used n).failedAll = s.failedAll := rfl
@[simp] theorem State.used_framesStopped : (s.used n).framesStopped = s.framesStopped := rfl
@[simp] theorem State.used_clocksStopped : (s.used n).clocksStopped = s.clocksStopped := rfl
@[simp] theorem State.used_refLost : (s.used n).refLost = s.refLost := rfl
@[simp] theorem State.used_groups : (s.used n).groups = s.groups := rfl
@[simp] theorem State.used_cores : (s.used n).cores = s.cores := rfl
@[simp] theorem State.used_clusters : (s.used n).clusters = s.clusters := rfl
@[simp] theorem State.used_store : (s.used n).store = s.store := rfl
@[simp] theorem State.used_deck : (s.used n).deck = s.deck := rfl
@[simp] theorem State.used_hbm : (s.used n).hbm = s.hbm := rfl
@[simp] theorem State.used_imem : (s.used n).imem = s.imem := rfl
@[simp] theorem State.used_host : (s.used n).host = s.host := rfl
@[simp] theorem State.used_tlbs : (s.used n).tlbs = s.tlbs := rfl
@[simp] theorem State.used_leaves : (s.used n).leaves = s.leaves := rfl
@[simp] theorem State.used_ptables : (s.used n).ptables = s.ptables := rfl
@[simp] theorem State.used_windows : (s.used n).windows = s.windows := rfl
@[simp] theorem State.used_invals : (s.used n).invals = s.invals := rfl
@[simp] theorem State.used_winClears : (s.used n).winClears = s.winClears := rfl
@[simp] theorem State.used_tables : (s.used n).tables = s.tables := rfl
@[simp] theorem State.used_overlay : (s.used n).overlay = s.overlay := rfl
@[simp] theorem State.used_overlayMib : (s.used n).overlayMib = s.overlayMib := rfl
@[simp] theorem State.used_folds : (s.used n).folds = s.folds := rfl
@[simp] theorem State.used_retires : (s.used n).retires = s.retires := rfl
@[simp] theorem State.used_lockedTables : (s.used n).lockedTables = s.lockedTables := rfl
@[simp] theorem State.used_lockedGroups : (s.used n).lockedGroups = s.lockedGroups := rfl
@[simp] theorem State.used_hbmStacks : (s.used n).hbmStacks = s.hbmStacks := rfl
@[simp] theorem State.used_hbmCtl : (s.used n).hbmCtl = s.hbmCtl := rfl
@[simp] theorem State.used_ports : (s.used n).ports = s.ports := rfl
@[simp] theorem State.used_fabricOn : (s.used n).fabricOn = s.fabricOn := rfl
@[simp] theorem State.used_fabric : (s.used n).fabric = s.fabric := rfl
@[simp] theorem State.used_joining : (s.used n).joining = s.joining := rfl
@[simp] theorem State.used_ceil : (s.used n).ceil = s.ceil := rfl
@[simp] theorem State.used_rxStreams : (s.used n).rxStreams = s.rxStreams := rfl
@[simp] theorem State.used_relayQ : (s.used n).relayQ = s.relayQ := rfl
@[simp] theorem State.used_waitSegs : (s.used n).waitSegs = s.waitSegs := rfl
@[simp] theorem State.used_mcPrep : (s.used n).mcPrep = s.mcPrep := rfl
@[simp] theorem State.used_mcRoot : (s.used n).mcRoot = s.mcRoot := rfl
@[simp] theorem State.used_mcCoord : (s.used n).mcCoord = s.mcCoord := rfl
@[simp] theorem State.used_mcNext : (s.used n).mcNext = s.mcNext := rfl
@[simp] theorem State.used_mcOut : (s.used n).mcOut = s.mcOut := rfl
@[simp] theorem State.used_failedDevs : (s.used n).failedDevs = s.failedDevs := rfl
@[simp] theorem State.used_failedSeen : (s.used n).failedSeen = s.failedSeen := rfl
@[simp] theorem State.used_sensors : (s.used n).sensors = s.sensors := rfl
@[simp] theorem State.used_powerWindows : (s.used n).powerWindows = s.powerWindows := rfl
@[simp] theorem State.used_notices : (s.used n).notices = s.notices := rfl
@[simp] theorem State.used_ready : (s.used n).ready = s.ready := rfl
@[simp] theorem State.used_warmFlag : (s.used n).warmFlag = s.warmFlag := rfl
@[simp] theorem State.used_bar2Base : (s.used n).bar2Base = s.bar2Base := rfl
@[simp] theorem State.used_bar2Log2 : (s.used n).bar2Log2 = s.bar2Log2 := rfl
@[simp] theorem State.used_errRoute : (s.used n).errRoute = s.errRoute := rfl
@[simp] theorem State.used_errRing : (s.used n).errRing = s.errRing := rfl
@[simp] theorem State.used_errDropped : (s.used n).errDropped = s.errDropped := rfl
@[simp] theorem State.used_errTail : (s.used n).errTail = s.errTail := rfl
@[simp] theorem State.used_errHead : (s.used n).errHead = s.errHead := rfl
@[simp] theorem State.used_queues : (s.used n).queues = s.queues := rfl
@[simp] theorem State.used_admin : (s.used n).admin = s.admin := rfl
@[simp] theorem State.used_msixOut : (s.used n).msixOut = s.msixOut := rfl
@[simp] theorem State.used_sriov : (s.used n).sriov = s.sriov := rfl
@[simp] theorem State.used_vfs : (s.used n).vfs = s.vfs := rfl
@[simp] theorem State.used_linkUp : (s.used n).linkUp = s.linkUp := rfl
@[simp] theorem State.used_linkGen : (s.used n).linkGen = s.linkGen := rfl
@[simp] theorem State.used_linkWidth : (s.used n).linkWidth = s.linkWidth := rfl
@[simp] theorem State.used_msix : (s.used n).msix = s.msix := rfl
@[simp] theorem State.used_hostWork : (s.used n).hostWork = s.hostWork := rfl
@[simp] theorem State.used_postsDue : (s.used n).postsDue = s.postsDue := rfl
@[simp] theorem State.used_storeLog : (s.used n).storeLog = s.storeLog := rfl
@[simp] theorem State.used_crossFixed : (s.used n).crossFixed = s.crossFixed := rfl
@[simp] theorem State.used_perst : (s.used n).perst = s.perst := rfl
@[simp] theorem State.used_heldOut : (s.used n).heldOut = s.heldOut := rfl
@[simp] theorem State.used_readOut : (s.used n).readOut = s.readOut := rfl
@[simp] theorem State.used_ethPort : (s.used n).ethPort = s.ethPort := rfl
@[simp] theorem State.used_ethAddr : (s.used n).ethAddr = s.ethAddr := rfl
@[simp] theorem State.used_ethWords : (s.used n).ethWords = s.ethWords := rfl
@[simp] theorem State.used_regions : (s.used n).regions = s.regions := rfl
@[simp] theorem State.used_qps : (s.used n).qps = s.qps := rfl
@[simp] theorem State.used_pfc : (s.used n).pfc = s.pfc := rfl
@[simp] theorem State.used_ethOut : (s.used n).ethOut = s.ethOut := rfl
@[simp] theorem State.used_ethWait : (s.used n).ethWait = s.ethWait := rfl
@[simp] theorem State.used_parts : (s.used n).parts = s.parts := rfl
@[simp] theorem State.used_jobs : (s.used n).jobs = s.jobs := rfl
@[simp] theorem State.used_images : (s.used n).images = s.images := rfl
@[simp] theorem State.used_errNumber : (s.used n).errNumber = s.errNumber := rfl
@[simp] theorem State.used_errLog : (s.used n).errLog = s.errLog := rfl
@[simp] theorem State.used_errHold : (s.used n).errHold = s.errHold := rfl
@[simp] theorem State.used_mctpOut : (s.used n).mctpOut = s.mctpOut := rfl
@[simp] theorem State.used_lookCmds : (s.used n).lookCmds = s.lookCmds := rfl
@[simp] theorem State.used_stopsOut : (s.used n).stopsOut = s.stopsOut := rfl
@[simp] theorem State.used_shardOut : (s.used n).shardOut = s.shardOut := rfl
@[simp] theorem State.used_ftCtl : (s.used n).ftCtl = s.ftCtl := rfl
@[simp] theorem State.used_idOk : (s.used n).idOk = s.idOk := rfl
@[simp] theorem State.used_jobKeys : (s.used n).jobKeys = s.jobKeys := rfl
@[simp] theorem State.used_packages : (s.used n).packages = s.packages := rfl
@[simp] theorem State.used_dbgCount : (s.used n).dbgCount = s.dbgCount := rfl
@[simp] theorem State.used_quiet : (s.used n).quiet = s.quiet := rfl
@[simp] theorem State.used_quietBefore : (s.used n).quietBefore = s.quietBefore := rfl
@[simp] theorem State.used_quietTicks : (s.used n).quietTicks = s.quietTicks := rfl
@[simp] theorem State.used_pllOff : (s.used n).pllOff = s.pllOff := rfl
@[simp] theorem State.used_powerCmds : (s.used n).powerCmds = s.powerCmds := rfl
@[simp] theorem State.used_hostUnmap : (s.used n).hostUnmap = s.hostUnmap := rfl
@[simp] theorem State.used_trainWait : (s.used n).trainWait = s.trainWait := rfl
@[simp] theorem State.used_warmSetting : (s.used n).warmSetting = s.warmSetting := rfl
@[simp] theorem State.used_nvm : (s.used n).nvm = s.nvm := rfl
@[simp] theorem State.used_flash : (s.used n).flash = s.flash := rfl
@[simp] theorem State.used_fwImage : (s.used n).fwImage = s.fwImage := rfl
@[simp] theorem State.used_recovery : (s.used n).recovery = s.recovery := rfl
@[simp] theorem State.used_powered : (s.used n).powered = s.powered := rfl
@[simp] theorem State.used_crossErr : (s.used n).crossErr = s.crossErr := rfl
@[simp] theorem State.used_refOk : (s.used n).refOk = s.refOk := rfl
@[simp] theorem State.used_straps : (s.used n).straps = s.straps := rfl
@[simp] theorem State.used_i3cAddr : (s.used n).i3cAddr = s.i3cAddr := rfl

end

/-! ### hostWrite -/

section
variable (s : State) (a : Nat) (b : List Byte)

@[simp] theorem State.hostWrite_pending : (s.hostWrite a b).pending = s.pending := rfl
@[simp] theorem State.hostWrite_fresh : (s.hostWrite a b).fresh = s.fresh := rfl
@[simp] theorem State.hostWrite_tick : (s.hostWrite a b).tick = s.tick := rfl
@[simp] theorem State.hostWrite_tsLatch : (s.hostWrite a b).tsLatch = s.tsLatch := rfl
@[simp] theorem State.hostWrite_slipCount : (s.hostWrite a b).slipCount = s.slipCount := rfl
@[simp] theorem State.hostWrite_slipTicks : (s.hostWrite a b).slipTicks = s.slipTicks := rfl
@[simp] theorem State.hostWrite_assigned : (s.hostWrite a b).assigned = s.assigned := rfl
@[simp] theorem State.hostWrite_device : (s.hostWrite a b).device = s.device := rfl
@[simp] theorem State.hostWrite_failedAll : (s.hostWrite a b).failedAll = s.failedAll := rfl
@[simp] theorem State.hostWrite_framesStopped : (s.hostWrite a b).framesStopped = s.framesStopped := rfl
@[simp] theorem State.hostWrite_clocksStopped : (s.hostWrite a b).clocksStopped = s.clocksStopped := rfl
@[simp] theorem State.hostWrite_refLost : (s.hostWrite a b).refLost = s.refLost := rfl
@[simp] theorem State.hostWrite_groups : (s.hostWrite a b).groups = s.groups := rfl
@[simp] theorem State.hostWrite_cores : (s.hostWrite a b).cores = s.cores := rfl
@[simp] theorem State.hostWrite_clusters : (s.hostWrite a b).clusters = s.clusters := rfl
@[simp] theorem State.hostWrite_store : (s.hostWrite a b).store = s.store := rfl
@[simp] theorem State.hostWrite_deck : (s.hostWrite a b).deck = s.deck := rfl
@[simp] theorem State.hostWrite_hbm : (s.hostWrite a b).hbm = s.hbm := rfl
@[simp] theorem State.hostWrite_imem : (s.hostWrite a b).imem = s.imem := rfl
@[simp] theorem State.hostWrite_tlbs : (s.hostWrite a b).tlbs = s.tlbs := rfl
@[simp] theorem State.hostWrite_leaves : (s.hostWrite a b).leaves = s.leaves := rfl
@[simp] theorem State.hostWrite_ptables : (s.hostWrite a b).ptables = s.ptables := rfl
@[simp] theorem State.hostWrite_windows : (s.hostWrite a b).windows = s.windows := rfl
@[simp] theorem State.hostWrite_invals : (s.hostWrite a b).invals = s.invals := rfl
@[simp] theorem State.hostWrite_winClears : (s.hostWrite a b).winClears = s.winClears := rfl
@[simp] theorem State.hostWrite_tables : (s.hostWrite a b).tables = s.tables := rfl
@[simp] theorem State.hostWrite_overlay : (s.hostWrite a b).overlay = s.overlay := rfl
@[simp] theorem State.hostWrite_overlayMib : (s.hostWrite a b).overlayMib = s.overlayMib := rfl
@[simp] theorem State.hostWrite_folds : (s.hostWrite a b).folds = s.folds := rfl
@[simp] theorem State.hostWrite_retires : (s.hostWrite a b).retires = s.retires := rfl
@[simp] theorem State.hostWrite_lockedTables : (s.hostWrite a b).lockedTables = s.lockedTables := rfl
@[simp] theorem State.hostWrite_lockedGroups : (s.hostWrite a b).lockedGroups = s.lockedGroups := rfl
@[simp] theorem State.hostWrite_hbmStacks : (s.hostWrite a b).hbmStacks = s.hbmStacks := rfl
@[simp] theorem State.hostWrite_hbmCtl : (s.hostWrite a b).hbmCtl = s.hbmCtl := rfl
@[simp] theorem State.hostWrite_ports : (s.hostWrite a b).ports = s.ports := rfl
@[simp] theorem State.hostWrite_fabricOn : (s.hostWrite a b).fabricOn = s.fabricOn := rfl
@[simp] theorem State.hostWrite_fabric : (s.hostWrite a b).fabric = s.fabric := rfl
@[simp] theorem State.hostWrite_joining : (s.hostWrite a b).joining = s.joining := rfl
@[simp] theorem State.hostWrite_ceil : (s.hostWrite a b).ceil = s.ceil := rfl
@[simp] theorem State.hostWrite_rxStreams : (s.hostWrite a b).rxStreams = s.rxStreams := rfl
@[simp] theorem State.hostWrite_relayQ : (s.hostWrite a b).relayQ = s.relayQ := rfl
@[simp] theorem State.hostWrite_waitSegs : (s.hostWrite a b).waitSegs = s.waitSegs := rfl
@[simp] theorem State.hostWrite_mcPrep : (s.hostWrite a b).mcPrep = s.mcPrep := rfl
@[simp] theorem State.hostWrite_mcRoot : (s.hostWrite a b).mcRoot = s.mcRoot := rfl
@[simp] theorem State.hostWrite_mcCoord : (s.hostWrite a b).mcCoord = s.mcCoord := rfl
@[simp] theorem State.hostWrite_mcNext : (s.hostWrite a b).mcNext = s.mcNext := rfl
@[simp] theorem State.hostWrite_mcOut : (s.hostWrite a b).mcOut = s.mcOut := rfl
@[simp] theorem State.hostWrite_failedDevs : (s.hostWrite a b).failedDevs = s.failedDevs := rfl
@[simp] theorem State.hostWrite_failedSeen : (s.hostWrite a b).failedSeen = s.failedSeen := rfl
@[simp] theorem State.hostWrite_sensors : (s.hostWrite a b).sensors = s.sensors := rfl
@[simp] theorem State.hostWrite_powerWindows : (s.hostWrite a b).powerWindows = s.powerWindows := rfl
@[simp] theorem State.hostWrite_notices : (s.hostWrite a b).notices = s.notices := rfl
@[simp] theorem State.hostWrite_ready : (s.hostWrite a b).ready = s.ready := rfl
@[simp] theorem State.hostWrite_warmFlag : (s.hostWrite a b).warmFlag = s.warmFlag := rfl
@[simp] theorem State.hostWrite_bar2Base : (s.hostWrite a b).bar2Base = s.bar2Base := rfl
@[simp] theorem State.hostWrite_bar2Log2 : (s.hostWrite a b).bar2Log2 = s.bar2Log2 := rfl
@[simp] theorem State.hostWrite_errRoute : (s.hostWrite a b).errRoute = s.errRoute := rfl
@[simp] theorem State.hostWrite_errRing : (s.hostWrite a b).errRing = s.errRing := rfl
@[simp] theorem State.hostWrite_errDropped : (s.hostWrite a b).errDropped = s.errDropped := rfl
@[simp] theorem State.hostWrite_errTail : (s.hostWrite a b).errTail = s.errTail := rfl
@[simp] theorem State.hostWrite_errHead : (s.hostWrite a b).errHead = s.errHead := rfl
@[simp] theorem State.hostWrite_queues : (s.hostWrite a b).queues = s.queues := rfl
@[simp] theorem State.hostWrite_admin : (s.hostWrite a b).admin = s.admin := rfl
@[simp] theorem State.hostWrite_msixOut : (s.hostWrite a b).msixOut = s.msixOut := rfl
@[simp] theorem State.hostWrite_sriov : (s.hostWrite a b).sriov = s.sriov := rfl
@[simp] theorem State.hostWrite_vfs : (s.hostWrite a b).vfs = s.vfs := rfl
@[simp] theorem State.hostWrite_linkUp : (s.hostWrite a b).linkUp = s.linkUp := rfl
@[simp] theorem State.hostWrite_linkGen : (s.hostWrite a b).linkGen = s.linkGen := rfl
@[simp] theorem State.hostWrite_linkWidth : (s.hostWrite a b).linkWidth = s.linkWidth := rfl
@[simp] theorem State.hostWrite_msix : (s.hostWrite a b).msix = s.msix := rfl
@[simp] theorem State.hostWrite_hostWork : (s.hostWrite a b).hostWork = s.hostWork := rfl
@[simp] theorem State.hostWrite_postsDue : (s.hostWrite a b).postsDue = s.postsDue := rfl
@[simp] theorem State.hostWrite_storeLog : (s.hostWrite a b).storeLog = s.storeLog := rfl
@[simp] theorem State.hostWrite_crossFixed : (s.hostWrite a b).crossFixed = s.crossFixed := rfl
@[simp] theorem State.hostWrite_perst : (s.hostWrite a b).perst = s.perst := rfl
@[simp] theorem State.hostWrite_heldOut : (s.hostWrite a b).heldOut = s.heldOut := rfl
@[simp] theorem State.hostWrite_readOut : (s.hostWrite a b).readOut = s.readOut := rfl
@[simp] theorem State.hostWrite_ethPort : (s.hostWrite a b).ethPort = s.ethPort := rfl
@[simp] theorem State.hostWrite_ethAddr : (s.hostWrite a b).ethAddr = s.ethAddr := rfl
@[simp] theorem State.hostWrite_ethWords : (s.hostWrite a b).ethWords = s.ethWords := rfl
@[simp] theorem State.hostWrite_regions : (s.hostWrite a b).regions = s.regions := rfl
@[simp] theorem State.hostWrite_qps : (s.hostWrite a b).qps = s.qps := rfl
@[simp] theorem State.hostWrite_pfc : (s.hostWrite a b).pfc = s.pfc := rfl
@[simp] theorem State.hostWrite_ethOut : (s.hostWrite a b).ethOut = s.ethOut := rfl
@[simp] theorem State.hostWrite_ethWait : (s.hostWrite a b).ethWait = s.ethWait := rfl
@[simp] theorem State.hostWrite_parts : (s.hostWrite a b).parts = s.parts := rfl
@[simp] theorem State.hostWrite_jobs : (s.hostWrite a b).jobs = s.jobs := rfl
@[simp] theorem State.hostWrite_images : (s.hostWrite a b).images = s.images := rfl
@[simp] theorem State.hostWrite_errNumber : (s.hostWrite a b).errNumber = s.errNumber := rfl
@[simp] theorem State.hostWrite_errLog : (s.hostWrite a b).errLog = s.errLog := rfl
@[simp] theorem State.hostWrite_errHold : (s.hostWrite a b).errHold = s.errHold := rfl
@[simp] theorem State.hostWrite_mctpOut : (s.hostWrite a b).mctpOut = s.mctpOut := rfl
@[simp] theorem State.hostWrite_lookCmds : (s.hostWrite a b).lookCmds = s.lookCmds := rfl
@[simp] theorem State.hostWrite_stopsOut : (s.hostWrite a b).stopsOut = s.stopsOut := rfl
@[simp] theorem State.hostWrite_shardOut : (s.hostWrite a b).shardOut = s.shardOut := rfl
@[simp] theorem State.hostWrite_ftCtl : (s.hostWrite a b).ftCtl = s.ftCtl := rfl
@[simp] theorem State.hostWrite_idOk : (s.hostWrite a b).idOk = s.idOk := rfl
@[simp] theorem State.hostWrite_jobKeys : (s.hostWrite a b).jobKeys = s.jobKeys := rfl
@[simp] theorem State.hostWrite_packages : (s.hostWrite a b).packages = s.packages := rfl
@[simp] theorem State.hostWrite_dbgCount : (s.hostWrite a b).dbgCount = s.dbgCount := rfl
@[simp] theorem State.hostWrite_quiet : (s.hostWrite a b).quiet = s.quiet := rfl
@[simp] theorem State.hostWrite_quietBefore : (s.hostWrite a b).quietBefore = s.quietBefore := rfl
@[simp] theorem State.hostWrite_quietTicks : (s.hostWrite a b).quietTicks = s.quietTicks := rfl
@[simp] theorem State.hostWrite_pllOff : (s.hostWrite a b).pllOff = s.pllOff := rfl
@[simp] theorem State.hostWrite_powerCmds : (s.hostWrite a b).powerCmds = s.powerCmds := rfl
@[simp] theorem State.hostWrite_hostUnmap : (s.hostWrite a b).hostUnmap = s.hostUnmap := rfl
@[simp] theorem State.hostWrite_trainWait : (s.hostWrite a b).trainWait = s.trainWait := rfl
@[simp] theorem State.hostWrite_warmSetting : (s.hostWrite a b).warmSetting = s.warmSetting := rfl
@[simp] theorem State.hostWrite_nvm : (s.hostWrite a b).nvm = s.nvm := rfl
@[simp] theorem State.hostWrite_flash : (s.hostWrite a b).flash = s.flash := rfl
@[simp] theorem State.hostWrite_fwImage : (s.hostWrite a b).fwImage = s.fwImage := rfl
@[simp] theorem State.hostWrite_recovery : (s.hostWrite a b).recovery = s.recovery := rfl
@[simp] theorem State.hostWrite_powered : (s.hostWrite a b).powered = s.powered := rfl
@[simp] theorem State.hostWrite_crossErr : (s.hostWrite a b).crossErr = s.crossErr := rfl
@[simp] theorem State.hostWrite_refOk : (s.hostWrite a b).refOk = s.refOk := rfl
@[simp] theorem State.hostWrite_straps : (s.hostWrite a b).straps = s.straps := rfl
@[simp] theorem State.hostWrite_i3cAddr : (s.hostWrite a b).i3cAddr = s.i3cAddr := rfl

end

/-! ### signal -/

section
variable (s : State) (f v : Nat)

/-- A signal changes the MSI-X registers and what has been sent, and nothing else. -/
theorem State.signal_shape : s.signal f v = { s with msix := (s.signal f v).msix, msixOut := (s.signal f v).msixOut } := by
  unfold State.signal
  dsimp only
  split
  · rfl
  · split
    · split <;> rfl
    · rfl

@[simp] theorem State.signal_pending : (s.signal f v).pending = s.pending := by rw [State.signal_shape]
@[simp] theorem State.signal_fresh : (s.signal f v).fresh = s.fresh := by rw [State.signal_shape]
@[simp] theorem State.signal_tick : (s.signal f v).tick = s.tick := by rw [State.signal_shape]
@[simp] theorem State.signal_tsLatch : (s.signal f v).tsLatch = s.tsLatch := by rw [State.signal_shape]
@[simp] theorem State.signal_slipCount : (s.signal f v).slipCount = s.slipCount := by rw [State.signal_shape]
@[simp] theorem State.signal_slipTicks : (s.signal f v).slipTicks = s.slipTicks := by rw [State.signal_shape]
@[simp] theorem State.signal_assigned : (s.signal f v).assigned = s.assigned := by rw [State.signal_shape]
@[simp] theorem State.signal_device : (s.signal f v).device = s.device := by rw [State.signal_shape]
@[simp] theorem State.signal_failedAll : (s.signal f v).failedAll = s.failedAll := by rw [State.signal_shape]
@[simp] theorem State.signal_framesStopped : (s.signal f v).framesStopped = s.framesStopped := by rw [State.signal_shape]
@[simp] theorem State.signal_clocksStopped : (s.signal f v).clocksStopped = s.clocksStopped := by rw [State.signal_shape]
@[simp] theorem State.signal_refLost : (s.signal f v).refLost = s.refLost := by rw [State.signal_shape]
@[simp] theorem State.signal_groups : (s.signal f v).groups = s.groups := by rw [State.signal_shape]
@[simp] theorem State.signal_cores : (s.signal f v).cores = s.cores := by rw [State.signal_shape]
@[simp] theorem State.signal_clusters : (s.signal f v).clusters = s.clusters := by rw [State.signal_shape]
@[simp] theorem State.signal_store : (s.signal f v).store = s.store := by rw [State.signal_shape]
@[simp] theorem State.signal_deck : (s.signal f v).deck = s.deck := by rw [State.signal_shape]
@[simp] theorem State.signal_hbm : (s.signal f v).hbm = s.hbm := by rw [State.signal_shape]
@[simp] theorem State.signal_imem : (s.signal f v).imem = s.imem := by rw [State.signal_shape]
@[simp] theorem State.signal_host : (s.signal f v).host = s.host := by rw [State.signal_shape]
@[simp] theorem State.signal_tlbs : (s.signal f v).tlbs = s.tlbs := by rw [State.signal_shape]
@[simp] theorem State.signal_leaves : (s.signal f v).leaves = s.leaves := by rw [State.signal_shape]
@[simp] theorem State.signal_ptables : (s.signal f v).ptables = s.ptables := by rw [State.signal_shape]
@[simp] theorem State.signal_windows : (s.signal f v).windows = s.windows := by rw [State.signal_shape]
@[simp] theorem State.signal_invals : (s.signal f v).invals = s.invals := by rw [State.signal_shape]
@[simp] theorem State.signal_winClears : (s.signal f v).winClears = s.winClears := by rw [State.signal_shape]
@[simp] theorem State.signal_tables : (s.signal f v).tables = s.tables := by rw [State.signal_shape]
@[simp] theorem State.signal_overlay : (s.signal f v).overlay = s.overlay := by rw [State.signal_shape]
@[simp] theorem State.signal_overlayMib : (s.signal f v).overlayMib = s.overlayMib := by rw [State.signal_shape]
@[simp] theorem State.signal_folds : (s.signal f v).folds = s.folds := by rw [State.signal_shape]
@[simp] theorem State.signal_retires : (s.signal f v).retires = s.retires := by rw [State.signal_shape]
@[simp] theorem State.signal_lockedTables : (s.signal f v).lockedTables = s.lockedTables := by rw [State.signal_shape]
@[simp] theorem State.signal_lockedGroups : (s.signal f v).lockedGroups = s.lockedGroups := by rw [State.signal_shape]
@[simp] theorem State.signal_hbmStacks : (s.signal f v).hbmStacks = s.hbmStacks := by rw [State.signal_shape]
@[simp] theorem State.signal_hbmCtl : (s.signal f v).hbmCtl = s.hbmCtl := by rw [State.signal_shape]
@[simp] theorem State.signal_ports : (s.signal f v).ports = s.ports := by rw [State.signal_shape]
@[simp] theorem State.signal_fabricOn : (s.signal f v).fabricOn = s.fabricOn := by rw [State.signal_shape]
@[simp] theorem State.signal_fabric : (s.signal f v).fabric = s.fabric := by rw [State.signal_shape]
@[simp] theorem State.signal_joining : (s.signal f v).joining = s.joining := by rw [State.signal_shape]
@[simp] theorem State.signal_ceil : (s.signal f v).ceil = s.ceil := by rw [State.signal_shape]
@[simp] theorem State.signal_rxStreams : (s.signal f v).rxStreams = s.rxStreams := by rw [State.signal_shape]
@[simp] theorem State.signal_relayQ : (s.signal f v).relayQ = s.relayQ := by rw [State.signal_shape]
@[simp] theorem State.signal_waitSegs : (s.signal f v).waitSegs = s.waitSegs := by rw [State.signal_shape]
@[simp] theorem State.signal_mcPrep : (s.signal f v).mcPrep = s.mcPrep := by rw [State.signal_shape]
@[simp] theorem State.signal_mcRoot : (s.signal f v).mcRoot = s.mcRoot := by rw [State.signal_shape]
@[simp] theorem State.signal_mcCoord : (s.signal f v).mcCoord = s.mcCoord := by rw [State.signal_shape]
@[simp] theorem State.signal_mcNext : (s.signal f v).mcNext = s.mcNext := by rw [State.signal_shape]
@[simp] theorem State.signal_mcOut : (s.signal f v).mcOut = s.mcOut := by rw [State.signal_shape]
@[simp] theorem State.signal_failedDevs : (s.signal f v).failedDevs = s.failedDevs := by rw [State.signal_shape]
@[simp] theorem State.signal_failedSeen : (s.signal f v).failedSeen = s.failedSeen := by rw [State.signal_shape]
@[simp] theorem State.signal_sensors : (s.signal f v).sensors = s.sensors := by rw [State.signal_shape]
@[simp] theorem State.signal_powerWindows : (s.signal f v).powerWindows = s.powerWindows := by rw [State.signal_shape]
@[simp] theorem State.signal_notices : (s.signal f v).notices = s.notices := by rw [State.signal_shape]
@[simp] theorem State.signal_ready : (s.signal f v).ready = s.ready := by rw [State.signal_shape]
@[simp] theorem State.signal_warmFlag : (s.signal f v).warmFlag = s.warmFlag := by rw [State.signal_shape]
@[simp] theorem State.signal_bar2Base : (s.signal f v).bar2Base = s.bar2Base := by rw [State.signal_shape]
@[simp] theorem State.signal_bar2Log2 : (s.signal f v).bar2Log2 = s.bar2Log2 := by rw [State.signal_shape]
@[simp] theorem State.signal_errRoute : (s.signal f v).errRoute = s.errRoute := by rw [State.signal_shape]
@[simp] theorem State.signal_errRing : (s.signal f v).errRing = s.errRing := by rw [State.signal_shape]
@[simp] theorem State.signal_errDropped : (s.signal f v).errDropped = s.errDropped := by rw [State.signal_shape]
@[simp] theorem State.signal_errTail : (s.signal f v).errTail = s.errTail := by rw [State.signal_shape]
@[simp] theorem State.signal_errHead : (s.signal f v).errHead = s.errHead := by rw [State.signal_shape]
@[simp] theorem State.signal_queues : (s.signal f v).queues = s.queues := by rw [State.signal_shape]
@[simp] theorem State.signal_admin : (s.signal f v).admin = s.admin := by rw [State.signal_shape]
@[simp] theorem State.signal_sriov : (s.signal f v).sriov = s.sriov := by rw [State.signal_shape]
@[simp] theorem State.signal_vfs : (s.signal f v).vfs = s.vfs := by rw [State.signal_shape]
@[simp] theorem State.signal_linkUp : (s.signal f v).linkUp = s.linkUp := by rw [State.signal_shape]
@[simp] theorem State.signal_linkGen : (s.signal f v).linkGen = s.linkGen := by rw [State.signal_shape]
@[simp] theorem State.signal_linkWidth : (s.signal f v).linkWidth = s.linkWidth := by rw [State.signal_shape]
@[simp] theorem State.signal_hostWork : (s.signal f v).hostWork = s.hostWork := by rw [State.signal_shape]
@[simp] theorem State.signal_postsDue : (s.signal f v).postsDue = s.postsDue := by rw [State.signal_shape]
@[simp] theorem State.signal_storeLog : (s.signal f v).storeLog = s.storeLog := by rw [State.signal_shape]
@[simp] theorem State.signal_crossFixed : (s.signal f v).crossFixed = s.crossFixed := by rw [State.signal_shape]
@[simp] theorem State.signal_perst : (s.signal f v).perst = s.perst := by rw [State.signal_shape]
@[simp] theorem State.signal_heldOut : (s.signal f v).heldOut = s.heldOut := by rw [State.signal_shape]
@[simp] theorem State.signal_readOut : (s.signal f v).readOut = s.readOut := by rw [State.signal_shape]
@[simp] theorem State.signal_ethPort : (s.signal f v).ethPort = s.ethPort := by rw [State.signal_shape]
@[simp] theorem State.signal_ethAddr : (s.signal f v).ethAddr = s.ethAddr := by rw [State.signal_shape]
@[simp] theorem State.signal_ethWords : (s.signal f v).ethWords = s.ethWords := by rw [State.signal_shape]
@[simp] theorem State.signal_regions : (s.signal f v).regions = s.regions := by rw [State.signal_shape]
@[simp] theorem State.signal_qps : (s.signal f v).qps = s.qps := by rw [State.signal_shape]
@[simp] theorem State.signal_pfc : (s.signal f v).pfc = s.pfc := by rw [State.signal_shape]
@[simp] theorem State.signal_ethOut : (s.signal f v).ethOut = s.ethOut := by rw [State.signal_shape]
@[simp] theorem State.signal_ethWait : (s.signal f v).ethWait = s.ethWait := by rw [State.signal_shape]
@[simp] theorem State.signal_parts : (s.signal f v).parts = s.parts := by rw [State.signal_shape]
@[simp] theorem State.signal_jobs : (s.signal f v).jobs = s.jobs := by rw [State.signal_shape]
@[simp] theorem State.signal_images : (s.signal f v).images = s.images := by rw [State.signal_shape]
@[simp] theorem State.signal_errNumber : (s.signal f v).errNumber = s.errNumber := by rw [State.signal_shape]
@[simp] theorem State.signal_errLog : (s.signal f v).errLog = s.errLog := by rw [State.signal_shape]
@[simp] theorem State.signal_errHold : (s.signal f v).errHold = s.errHold := by rw [State.signal_shape]
@[simp] theorem State.signal_mctpOut : (s.signal f v).mctpOut = s.mctpOut := by rw [State.signal_shape]
@[simp] theorem State.signal_lookCmds : (s.signal f v).lookCmds = s.lookCmds := by rw [State.signal_shape]
@[simp] theorem State.signal_stopsOut : (s.signal f v).stopsOut = s.stopsOut := by rw [State.signal_shape]
@[simp] theorem State.signal_shardOut : (s.signal f v).shardOut = s.shardOut := by rw [State.signal_shape]
@[simp] theorem State.signal_ftCtl : (s.signal f v).ftCtl = s.ftCtl := by rw [State.signal_shape]
@[simp] theorem State.signal_idOk : (s.signal f v).idOk = s.idOk := by rw [State.signal_shape]
@[simp] theorem State.signal_jobKeys : (s.signal f v).jobKeys = s.jobKeys := by rw [State.signal_shape]
@[simp] theorem State.signal_packages : (s.signal f v).packages = s.packages := by rw [State.signal_shape]
@[simp] theorem State.signal_dbgCount : (s.signal f v).dbgCount = s.dbgCount := by rw [State.signal_shape]
@[simp] theorem State.signal_quiet : (s.signal f v).quiet = s.quiet := by rw [State.signal_shape]
@[simp] theorem State.signal_quietBefore : (s.signal f v).quietBefore = s.quietBefore := by rw [State.signal_shape]
@[simp] theorem State.signal_quietTicks : (s.signal f v).quietTicks = s.quietTicks := by rw [State.signal_shape]
@[simp] theorem State.signal_pllOff : (s.signal f v).pllOff = s.pllOff := by rw [State.signal_shape]
@[simp] theorem State.signal_powerCmds : (s.signal f v).powerCmds = s.powerCmds := by rw [State.signal_shape]
@[simp] theorem State.signal_hostUnmap : (s.signal f v).hostUnmap = s.hostUnmap := by rw [State.signal_shape]
@[simp] theorem State.signal_trainWait : (s.signal f v).trainWait = s.trainWait := by rw [State.signal_shape]
@[simp] theorem State.signal_warmSetting : (s.signal f v).warmSetting = s.warmSetting := by rw [State.signal_shape]
@[simp] theorem State.signal_nvm : (s.signal f v).nvm = s.nvm := by rw [State.signal_shape]
@[simp] theorem State.signal_flash : (s.signal f v).flash = s.flash := by rw [State.signal_shape]
@[simp] theorem State.signal_fwImage : (s.signal f v).fwImage = s.fwImage := by rw [State.signal_shape]
@[simp] theorem State.signal_recovery : (s.signal f v).recovery = s.recovery := by rw [State.signal_shape]
@[simp] theorem State.signal_powered : (s.signal f v).powered = s.powered := by rw [State.signal_shape]
@[simp] theorem State.signal_crossErr : (s.signal f v).crossErr = s.crossErr := by rw [State.signal_shape]
@[simp] theorem State.signal_refOk : (s.signal f v).refOk = s.refOk := by rw [State.signal_shape]
@[simp] theorem State.signal_straps : (s.signal f v).straps = s.straps := by rw [State.signal_shape]
@[simp] theorem State.signal_i3cAddr : (s.signal f v).i3cAddr = s.i3cAddr := by rw [State.signal_shape]

end

end Sys2Proof.Machine
end

