-- ==== Sys2Proof/Laws/Memory.lean ====
section
/-!
SUPPORT. The laws of the coded memories and of host and instruction memory: a sector read back after a write, and the canonical
form, which every operation over memory keeps.
-/

namespace Sys2Proof.Machine

open Sys2Proof

/-! ### Bytes -/

theorem putBytes_wf {m : List Host.Cell} (a : Nat) (b : List Byte) (h : NMap.wf 0 m = true) : NMap.wf 0 (putBytes m a b) = true := by
  induction b generalizing m a with
  | nil => exact h
  | cons x t ih => exact ih (a + 1) (NMap.wf_set a x h)

/-- A byte below the bytes stored reads as before. -/
theorem putBytes_get_below (m : List Host.Cell) (a : Nat) (b : List Byte) {j : Nat} (h : j < a) :
    NMap.get (putBytes m a b) j 0 = NMap.get m j 0 := by
  induction b generalizing m a with
  | nil => rfl
  | cons x t ih => rw [putBytes, ih _ _ (by omega), NMap.get_set_other _ _ _ (by omega)]

/-- A byte above the bytes stored reads as before. -/
theorem putBytes_get_above (m : List Host.Cell) (a : Nat) (b : List Byte) {j : Nat} (h : a + b.length ≤ j) :
    NMap.get (putBytes m a b) j 0 = NMap.get m j 0 := by
  induction b generalizing m a with
  | nil => rfl
  | cons x t ih =>
    simp only [List.length_cons] at h
    rw [putBytes, ih _ _ (by omega), NMap.get_set_other _ _ _ (by omega)]

/-- A byte that was stored reads back. -/
theorem putBytes_get_at (m : List Host.Cell) (a : Nat) (b : List Byte) {i : Nat} (h : i < b.length) :
    NMap.get (putBytes m a b) (a + i) 0 = b[i] := by
  induction b generalizing m a i with
  | nil => simp at h
  | cons x t ih =>
    cases i with
    | zero =>
      rw [putBytes, putBytes_get_below _ _ _ (by omega)]
      simp
    | succ i =>
      have := ih (NMap.set m a x 0) (a + 1) (i := i) (by simpa using h)
      rw [putBytes, show a + (i + 1) = a + 1 + i by omega, this]
      simp

/-! ### Coded memories -/

@[simp] theorem Mem.empty_wf : Mem.empty.wf = true := rfl

theorem Mem.putSector_wf {m : Mem} (i : Nat) (b : List Byte) (tag : Byte) (h : m.wf = true) : (m.putSector i b tag).wf = true := by
  simp only [Mem.wf, Bool.and_eq_true] at h ⊢
  exact ⟨⟨putBytes_wf _ _ h.1.1, NMap.wf_set i tag h.1.2⟩, NMap.wf_set i (0 : BitVec 24) h.2⟩

theorem Mem.clear_wf {m : Mem} (lo hi : Nat) (h : m.wf = true) : (m.clear lo hi).wf = true := by
  simp only [Mem.wf, Bool.and_eq_true] at h ⊢
  exact ⟨⟨NMap.wf_filter _ h.1.1, NMap.wf_filter _ h.1.2⟩, NMap.wf_filter _ h.2⟩

/-- A sector written outside sector `i` leaves its bytes as they were. -/
theorem Mem.putSector_bytes_other (m : Mem) {i j : Nat} (b : List Byte) (tag : Byte) (hb : b.length = 32) (h : j ≠ i) :
    (m.putSector i b tag).bytesAt j = m.bytesAt j := by
  unfold Mem.bytesAt
  apply List.map_congr_left
  intro a ha
  simp only [upFrom, List.mem_map, List.mem_range] at ha
  obtain ⟨k, hk, rfl⟩ := ha
  show NMap.get (putBytes m.cells (32 * i) b) _ 0 = _
  rcases Nat.lt_or_gt_of_ne h with h | h
  · exact putBytes_get_below _ _ _ (by omega)
  · exact putBytes_get_above _ _ _ (by omega)

/-- A sector written reads back. -/
theorem Mem.putSector_bytes (m : Mem) (i : Nat) (b : List Byte) (tag : Byte) (hb : b.length = 32) :
    (m.putSector i b tag).bytesAt i = b := by
  unfold Mem.bytesAt upFrom
  apply List.ext_getElem
  · simp [hb]
  · intro n h1 h2
    simp only [List.length_map, List.length_range] at h1
    simp only [List.getElem_map, List.getElem_range]
    exact putBytes_get_at _ _ _ (by omega)

/-- Check bytes that hold give the sector as stored (R332). -/
theorem codeCheck_zero : codeCheck 0 = .accept := by decide

@[simp] theorem checkSector_zero (b : List Byte) (tag : Byte) : checkSector b tag 0 = { data := b, tag := tag } := by
  rw [checkSector, codeCheck_zero]

theorem Mem.putSector_sector (m : Mem) (i : Nat) (b : List Byte) (tag : Byte) (hb : b.length = 32) :
    (m.putSector i b tag).sector i = { data := b, tag := tag } := by
  unfold Mem.sector
  rw [Mem.putSector_bytes m i b tag hb]
  have h : NMap.get (m.putSector i b tag).chk i 0 = 0 := NMap.get_set_same m.chk i 0 0
  have ht : NMap.get (m.putSector i b tag).tags i 0 = tag := NMap.get_set_same m.tags i tag 0
  rw [h, ht, checkSector_zero]

/-! ### The state's memories -/

theorem State.setMem_wf {s : State} (sp : Space) {m : Mem} (h : s.memWf = true) (hm : m.wf = true) : (s.setMem sp m).memWf = true := by
  simp only [State.memWf, Bool.and_eq_true] at h ⊢
  obtain ⟨⟨⟨⟨h1, h2⟩, h3⟩, h4⟩, h5⟩ := h
  cases sp
  · exact ⟨⟨⟨⟨hm, h2⟩, h3⟩, h4⟩, h5⟩
  · exact ⟨⟨⟨⟨h1, hm⟩, h3⟩, h4⟩, h5⟩
  · exact ⟨⟨⟨⟨h1, h2⟩, hm⟩, h4⟩, h5⟩

theorem State.mem_wf {s : State} (sp : Space) (h : s.memWf = true) : (s.mem sp).wf = true := by
  simp only [State.memWf, Bool.and_eq_true] at h
  cases sp <;> simp [State.mem, h]

theorem State.keepOld_wf (s : State) (sp : Space) (i : Nat) : (s.keepOld sp i).memWf = s.memWf := by
  unfold State.keepOld; split <;> rfl

theorem State.putSector_wf {s : State} (sp : Space) (i : Nat) (b : List Byte) (p q : Bool) (h : s.memWf = true) :
    (s.putSector sp i b p q).memWf = true := by
  unfold State.putSector
  split
  · exact h
  · exact State.setMem_wf sp (by rw [State.keepOld_wf]; exact h) (Mem.putSector_wf _ _ _ (State.mem_wf sp h))

theorem foldl_set_wf {α : Type} (l : List α) (key : α → Nat) (val : α → Byte) {m : List Host.Cell} (h : NMap.wf 0 m = true) :
    NMap.wf 0 (l.foldl (fun m x => NMap.set m (key x) (val x) 0) m) = true := by
  induction l generalizing m with
  | nil => exact h
  | cons x t ih => exact ih (NMap.wf_set _ _ h)

theorem State.hostWrite_wf {s : State} (a : Nat) (b : List Byte) (h : s.memWf = true) : (s.hostWrite a b).memWf = true := by
  simp only [State.memWf, Bool.and_eq_true] at h ⊢
  exact ⟨h.1, foldl_set_wf _ _ _ h.2⟩

theorem foldl_zipIdx_put (b : List Byte) (a n : Nat) (m : List Host.Cell) :
    (b.zipIdx n).foldl (fun m x => NMap.set m (a + x.2) x.1 0) m = putBytes m (a + n) b := by
  induction b generalizing n m with
  | nil => rfl
  | cons x t ih => exact ih (n + 1) _

/-- A write of host memory puts its bytes one after another. -/
theorem State.hostWrite_host (s : State) (a : Nat) (b : List Byte) : (s.hostWrite a b).host = putBytes s.host a b :=
  foldl_zipIdx_put b a 0 s.host

/-- What was written is read. -/
theorem State.hostRead_hostWrite (s : State) (a : Nat) (b : List Byte) : (s.hostWrite a b).hostRead a b.length = b := by
  unfold State.hostRead upFrom
  rw [State.hostWrite_host]
  refine List.ext_getElem (by simp) fun i h1 h2 => ?_
  simp only [List.getElem_map, List.getElem_range]
  exact putBytes_get_at _ _ _ h2

/-- A byte outside what was written is as before. -/
theorem State.hostWrite_other (s : State) (a : Nat) (b : List Byte) {j : Nat} (h : j < a ∨ a + b.length ≤ j) :
    NMap.get (s.hostWrite a b).host j 0 = NMap.get s.host j 0 := by
  rw [State.hostWrite_host]
  rcases h with h | h
  · exact putBytes_get_below _ _ _ h
  · exact putBytes_get_above _ _ _ h

/-- The memories of the reset state are canonical. -/
theorem State.reset_memWf : State.reset.memWf = true := rfl

end Sys2Proof.Machine
end

