-- ==== Sys2Proof/Laws/Commands.lean ====
section
/-!
SUPPORT. What the shared operations of host commands do, said once: a trace record, a completion, the start of a command, its
checks and its outcome. Proofs about one command cite these and never unfold `State.runCmd`.
-/

namespace Sys2Proof.Machine

open Sys2Proof

/-! ### Queues and partitions by number -/

@[simp] theorem State.queue_modQueue (s : State) (q : Nat) (f : HQueue → HQueue) : (s.modQueue q f).queue q = f (s.queue q) :=
  NMap.get_set_same _ _ _ _

theorem State.queue_modQueue_other (s : State) {q r : Nat} (f : HQueue → HQueue) (h : r ≠ q) : (s.modQueue q f).queue r = s.queue r :=
  NMap.get_set_other _ _ _ h

@[simp] theorem State.part_modPart (s : State) (p : Nat) (f : Part → Part) : (s.modPart p f).part p = f (s.part p) :=
  NMap.get_set_same _ _ _ _

theorem State.part_modPart_other (s : State) {p r : Nat} (f : Part → Part) (h : r ≠ p) : (s.modPart p f).part r = s.part r :=
  NMap.get_set_other _ _ _ h

/-! ### A trace record (R591 to R595) -/

/-- A trace record changes one partition's trace and the counter of free values, and nothing else. -/
theorem State.trace_frame (s : State) (a : TraceArgs) : s.trace a = { s with parts := (s.trace a).parts, fresh := (s.trace a).fresh } := by
  unfold State.trace
  dsimp only
  split <;> rfl

@[simp] theorem State.trace_queues (s : State) (a : TraceArgs) : (s.trace a).queues = s.queues := by rw [State.trace_frame]
@[simp] theorem State.trace_queue (s : State) (a : TraceArgs) (q : Nat) : (s.trace a).queue q = s.queue q := by
  unfold State.queue; rw [State.trace_queues]

/-- Beside its trace, a partition is as it was. -/
theorem State.trace_part (s : State) (a : TraceArgs) (p : Nat) : { (s.trace a).part p with trace := (s.part p).trace } = s.part p := by
  unfold State.trace
  dsimp only
  split
  · rfl
  · by_cases h : p = a.part
    · subst h
      show ({ (State.used _ 1).part a.part with trace := _ } : Part) = _
      rw [show ∀ (u : State), (u.used 1).part a.part = u.part a.part from fun _ => rfl, State.part_modPart]
    · show ({ (State.used _ 1).part p with trace := _ } : Part) = _
      rw [show ∀ (u : State), (u.used 1).part p = u.part p from fun _ => rfl, State.part_modPart_other _ _ h]

/-! ### A completion (R467) -/

/-- A completion changes queues, a partition's trace, the counter of free values and the completions held for RESYNC, and
nothing else. -/
theorem State.complete_frame (s : State) (k : Cmd) (a : Answer) :
    s.complete k a = { s with queues := (s.complete k a).queues, parts := (s.complete k a).parts, fresh := (s.complete k a).fresh,
                              heldOut := (s.complete k a).heldOut } := by
  unfold State.complete
  dsimp only
  split
  · split
    · rw [State.trace_frame]; rfl
    · rw [State.trace_frame]; rfl
  · split
    · rw [State.trace_frame]
    · rw [State.trace_frame]; rfl

/-- A command of a queue that no reset has ended: its completion joins those that the queue holds, and it runs no more. -/
theorem State.complete_queue (s : State) (k : Cmd) (a : Answer) (ho : ∀ o ∈ (s.queue k.queue).orphans, o.1 ≠ k)
    (hs : (s.queue k.queue).st ≠ .absent) :
    (s.complete k a).queue k.queue =
      { (s.queue k.queue).settle k with done := (s.queue k.queue).done ++ [completionOf k a] } := by
  have h : (s.queue k.queue).orphans.find? (fun x => x.1 = k) = none := by
    rw [List.find?_eq_none]; intro o hm; simpa using ho o hm
  unfold State.complete
  simp only [State.trace_queue, h, hs, if_false, State.pushDone, State.queue_modQueue]
  rfl

@[simp] theorem State.holdDone_queue (s : State) (n : Nat) (e : Completion) (q : Nat) : (s.holdDone n e).queue q = s.queue q := rfl

/-- Other queues stay as they are. -/
theorem State.complete_queue_other (s : State) (k : Cmd) (a : Answer) {q : Nat} (h : q ≠ k.queue) :
    (s.complete k a).queue q = s.queue q := by
  unfold State.complete
  dsimp only
  split
  · split
    · rw [State.holdDone_queue, State.queue_modQueue_other _ _ h, State.trace_queue]
    · rw [State.queue_modQueue_other _ _ h, State.trace_queue]
  · split
    · rw [State.trace_queue]
    · rw [State.pushDone, State.queue_modQueue_other _ _ h, State.queue_modQueue_other _ _ h, State.trace_queue]

/-- A queue that is there holds nothing for RESYNC at a completion. -/
theorem State.complete_heldOut (s : State) (k : Cmd) (a : Answer) (ho : ∀ o ∈ (s.queue k.queue).orphans, o.1 ≠ k) :
    (s.complete k a).heldOut = s.heldOut := by
  have h : (s.queue k.queue).orphans.find? (fun x => x.1 = k) = none := by
    rw [List.find?_eq_none]; intro o hm; simpa using ho o hm
  unfold State.complete
  simp only [State.trace_queue, h]
  split
  · rw [State.trace_frame]
  · rw [State.trace_frame]; rfl

/-! ### A debug access (R565, R566) -/

/-- Debug accesses of some partitions change their counts, and nothing else of a partition. -/
theorem State.foldl_dbg (ps : List Nat) (s : State) :
    (ps.foldl (fun (s : State) p => s.modPart p fun q => { q with dbg := satN 64 (q.dbg + 1) }) s) =
      { s with parts := (ps.foldl (fun (s : State) p => s.modPart p fun q => { q with dbg := satN 64 (q.dbg + 1) }) s).parts } ∧
    ∀ p, { (ps.foldl (fun (s : State) p => s.modPart p fun q => { q with dbg := satN 64 (q.dbg + 1) }) s).part p with dbg := (s.part p).dbg } =
      s.part p := by
  induction ps generalizing s with
  | nil => exact ⟨rfl, fun _ => rfl⟩
  | cons a t ih =>
    obtain ⟨h1, h2⟩ := ih (s.modPart a fun q => { q with dbg := satN 64 (q.dbg + 1) })
    simp only [List.foldl_cons]
    refine ⟨by rw [h1]; rfl, fun p => ?_⟩
    have h := h2 p
    by_cases hp : p = a
    · subst hp
      rw [State.part_modPart] at h
      exact congrArg (fun (q : Part) => { q with dbg := (s.part p).dbg }) h
    · rw [State.part_modPart_other _ _ hp] at h
      exact h

/-- The debug access of a command changes partitions and the module's count, and nothing else. -/
theorem State.countDebug_frame (s : State) (k : Cmd) :
    s.countDebug k = { s with parts := (s.countDebug k).parts, dbgCount := (s.countDebug k).dbgCount } := by
  unfold State.countDebug State.debugAccess
  split
  · dsimp only
    rw [(State.foldl_dbg _ s).1]
  · rfl

/-- Beside its count of debug accesses, a partition is as it was. -/
theorem State.countDebug_part (s : State) (k : Cmd) (p : Nat) : { (s.countDebug k).part p with dbg := (s.part p).dbg } = s.part p := by
  unfold State.countDebug State.debugAccess
  split
  · exact (State.foldl_dbg _ s).2 p
  · rfl

@[simp] theorem State.countDebug_queue (s : State) (k : Cmd) (q : Nat) : (s.countDebug k).queue q = s.queue q := by
  rw [State.countDebug_frame]; rfl

/-! ### The start of a command (R463, R524) -/

/-- The queue's count of a launch that no fetch brought, made as it starts. -/
def State.counted (s : State) (k : Cmd) : State := if (s.queue k.queue).accepted.contains k then s else s.countSubmit k

/-- Counting a launch changes its queue, and nothing else. -/
theorem State.counted_frame (s : State) (k : Cmd) : s.counted k = { s with queues := (s.counted k).queues } := by
  unfold State.counted State.countSubmit
  split
  · rfl
  · split <;> rfl

theorem State.counted_queue (s : State) (k : Cmd) :
    (s.counted k).queue k.queue =
      { s.queue k.queue with submitted := if k.opcode = 0x0300 ∧ k ∉ (s.queue k.queue).accepted then satN 64 ((s.queue k.queue).submitted + 1)
                                          else (s.queue k.queue).submitted } := by
  unfold State.counted State.countSubmit
  by_cases h : (s.queue k.queue).accepted.contains k = true
  · have : k ∈ (s.queue k.queue).accepted := by simpa using h
    rw [if_pos h]; simp [this]
  · have : k ∉ (s.queue k.queue).accepted := by simpa using h
    rw [if_neg h]
    by_cases ho : k.opcode = 0x0300
    · rw [if_pos ho, State.queue_modQueue]; simp [ho, this]
    · rw [if_neg ho, if_neg fun h => ho h.1]

theorem State.counted_queue_other (s : State) (k : Cmd) {q : Nat} (h : q ≠ k.queue) : (s.counted k).queue q = s.queue q := by
  unfold State.counted State.countSubmit
  split
  · rfl
  · split
    · rw [State.queue_modQueue_other _ _ h]
    · rfl

/-- The start of a command changes its queue, partitions' traces and debug counts, the module's debug count and the counter of free
values, and nothing else. -/
theorem State.started_frame (s : State) (k : Cmd) :
    s.started k = { s with queues := (s.started k).queues, parts := (s.started k).parts, fresh := (s.started k).fresh,
                           dbgCount := (s.started k).dbgCount } := by
  have h : ∃ a b c d, s.started k = { s with queues := a, parts := b, fresh := c, dbgCount := d } := by
    have h1 : s.started k = ((((s.counted k).takeCmd k).traceStart k).countDebug k) := rfl
    have h2 := State.counted_frame s k
    generalize s.counted k = u at h1 h2
    have h3 := State.countDebug_frame ((u.takeCmd k).traceStart k) k
    have h4 : ∃ b c, (u.takeCmd k).traceStart k = { u.takeCmd k with parts := b, fresh := c } := ⟨_, _, State.trace_frame _ _⟩
    have h5 : ∃ a, u.takeCmd k = { u with queues := a } := ⟨_, rfl⟩
    obtain ⟨b, c, h4⟩ := h4
    obtain ⟨a, h5⟩ := h5
    exact ⟨_, _, _, _, by rw [h1, h3, h4, h5, h2]⟩
  obtain ⟨a, b, c, d, h⟩ := h
  rw [h]

/-- A command of a queue that is there is taken from those accepted and runs; a launch that no fetch brought is counted. -/
theorem State.started_queue (s : State) (k : Cmd) (h : (s.queue k.queue).st ≠ .absent) :
    (s.started k).queue k.queue =
      { s.queue k.queue with accepted := (s.queue k.queue).accepted.erase k, running := (s.queue k.queue).running ++ [k],
                             submitted := if k.opcode = 0x0300 ∧ k ∉ (s.queue k.queue).accepted then satN 64 ((s.queue k.queue).submitted + 1)
                                          else (s.queue k.queue).submitted } := by
  show ((((s.counted k).takeCmd k).traceStart k).countDebug k).queue k.queue = _
  unfold State.traceStart State.takeCmd
  rw [State.countDebug_queue, State.trace_queue, State.queue_modQueue, State.counted_queue]
  simp only [h, decide_false, Bool.false_and, Bool.false_eq_true, if_false]

theorem State.started_queue_other (s : State) (k : Cmd) {q : Nat} (h : q ≠ k.queue) : (s.started k).queue q = s.queue q := by
  show ((((s.counted k).takeCmd k).traceStart k).countDebug k).queue q = _
  unfold State.traceStart State.takeCmd
  rw [State.countDebug_queue, State.trace_queue, State.queue_modQueue_other _ _ h, State.counted_queue_other _ _ h]

/-- The function and the partition of a command are those of its queue, which its start keeps. -/
theorem State.started_functionMay (s : State) (k : Cmd) (row : OpRow) (h : (s.queue k.queue).st ≠ .absent) :
    (s.started k).functionMay k row = s.functionMay k row := by
  unfold State.functionMay State.cmdFn State.cmdPart
  rw [State.started_queue s k h]

theorem State.started_part (s : State) (k : Cmd) (p : Nat) :
    { (s.started k).part p with trace := (s.part p).trace, dbg := (s.part p).dbg } = s.part p := by
  have h1 := State.countDebug_part (((s.counted k).takeCmd k).traceStart k) k p
  have h2 : { (((s.counted k).takeCmd k).traceStart k).part p with trace := (s.part p).trace } = s.part p := by
    have h := State.trace_part ((s.counted k).takeCmd k)
      { part := ((s.counted k).takeCmd k).cmdPart k, unit := devRef ((s.counted k).takeCmd k).device, type := 0x01, cls := 2, op := k.operator.toNat,
        layer := k.layer.toNat, payload := k.opcode.toNat * 2 ^ 48 + k.seq.toNat } p
    have e : ((s.counted k).takeCmd k).part p = s.part p := by rw [State.counted_frame]; rfl
    rw [e] at h
    exact h
  show { ((((s.counted k).takeCmd k).traceStart k).countDebug k).part p with trace := (s.part p).trace, dbg := (s.part p).dbg } = s.part p
  rw [← h1] at h2
  have h3 := congrArg (fun (q : Part) => { q with dbg := (s.part p).dbg }) h2
  exact h3

theorem State.started_moduleCheck (s : State) (k : Cmd) (row : OpRow) (h : (s.queue k.queue).st ≠ .absent) :
    (s.started k).moduleCheck k row = s.moduleCheck k row := by
  have hp : (s.started k).cmdPart k = s.cmdPart k := by
    unfold State.cmdPart; rw [State.started_queue s k h]
  have hs : ((s.started k).part (s.cmdPart k)).scrub = (s.part (s.cmdPart k)).scrub := by
    have h := congrArg Part.scrub (State.started_part s k (s.cmdPart k))
    exact h
  unfold State.moduleCheck
  rw [hp, hs, State.started_frame]

/-! ### The outcome of a command (R466) -/

/-- What the state is after a command's reply. -/
def Reply.outcome (k : Cmd) : Reply → State
  | .done t a => t.completeCmd k a
  | .later t => t

/-- A command that is due and whose UNIT and parameters are allowed is run by its own meaning on the state that it starts in. -/
theorem State.runCmd_accepts (s : State) (k : Cmd) (row : OpRow) (body : State → Reply) (h : s.accepts k row = true) :
    s.runCmd k row true true body = .next ((body (s.started k)).outcome k) := by
  simp only [State.accepts, Bool.and_eq_true, decide_eq_true_eq, Bool.not_eq_true', Option.isNone_iff_eq_none] at h
  obtain ⟨⟨⟨⟨⟨⟨⟨⟨⟨h1, h2⟩, h3⟩, h4⟩, h5⟩, h6⟩, h7⟩, h8⟩, h9⟩, h10⟩ := h
  have hf : firstFail [(decide (k.gen ≠ 0), Status.invalidParameter), (decide (row.gen ≤ k.gen), Status.invalidOpcode),
      (headerOk k row, Status.invalidParameter), ((s.started k).functionMay k row && true, Status.notPermitted),
      (true, Status.invalidParameter)] = none := by
    rw [State.started_functionMay s k row (by rw [h9]; decide)]
    simp [firstFail, h4, h5, h6, h7]
  have hm : (s.started k).moduleCheck k row = none := by rw [State.started_moduleCheck s k row (by rw [h9]; decide), h8]
  unfold State.runCmd
  simp only [h1, h2, h3, ne_eq, not_true_eq_false, decide_false, Bool.not_true, Bool.or_self, Bool.false_eq_true, if_false]
  rw [show (((if (s.queue k.queue).accepted.contains k = true then s else s.countSubmit k).takeCmd k).traceStart k).countDebug k = s.started k
    from rfl, hf]
  dsimp only
  rw [hm]
  dsimp only
  cases body (s.started k) <;> rfl

/-- The completion that a command's own meaning gives changes queues, a partition's trace, the counter of free values and the
completions held for RESYNC, and nothing else. -/
theorem State.completeCmd_frame (s : State) (k : Cmd) (a : Answer) :
    s.completeCmd k a = { s with queues := (s.completeCmd k a).queues, parts := (s.completeCmd k a).parts,
                                 fresh := (s.completeCmd k a).fresh, heldOut := (s.completeCmd k a).heldOut } := by
  unfold State.completeCmd State.countDone
  split
  · rw [State.complete_frame]; rfl
  · rw [State.complete_frame]

/-- The completion joins those that the queue holds, and the command runs no more. -/
theorem State.completeCmd_queue (s : State) (k : Cmd) (a : Answer) (ho : ∀ o ∈ (s.queue k.queue).orphans, o.1 ≠ k)
    (hs : (s.queue k.queue).st ≠ .absent) :
    ((s.completeCmd k a).queue k.queue).done = (s.queue k.queue).done ++ [completionOf k a] ∧
      ((s.completeCmd k a).queue k.queue).running = (s.queue k.queue).running.erase k ∧
      ((s.completeCmd k a).queue k.queue).st = (s.queue k.queue).st := by
  unfold State.completeCmd State.countDone
  split
  · have hq := State.queue_modQueue s k.queue fun h =>
      if decide (a.status = Status.success) then { h with completed := satN 64 (h.completed + 1) } else { h with aborted := satN 64 (h.aborted + 1) }
    rw [State.complete_queue _ k a (by rw [hq]; split <;> exact ho) (by rw [hq]; split <;> exact hs), hq]
    split <;> exact ⟨rfl, rfl, rfl⟩
  · rw [State.complete_queue s k a ho hs]
    exact ⟨rfl, rfl, rfl⟩

theorem State.completeCmd_queue_other (s : State) (k : Cmd) (a : Answer) {q : Nat} (h : q ≠ k.queue) :
    (s.completeCmd k a).queue q = s.queue q := by
  unfold State.completeCmd State.countDone
  split
  · rw [State.complete_queue_other _ k a h, State.queue_modQueue_other _ _ h]
  · rw [State.complete_queue_other _ k a h]

/-- A command that is due and answered at once: its completion is the one answer that joins its queue, where the meaning has
left the queue as it found it. -/
theorem State.runCmd_answers (s : State) (k : Cmd) (row : OpRow) (body : State → Reply) (t : State) (a : Answer)
    (h : s.accepts k row = true) (hb : body (s.started k) = .done t a) (hq : t.queue k.queue = (s.started k).queue k.queue) :
    Answers s k (s.runCmd k row true true body) a fun u => u = t.completeCmd k a := by
  have h' := h
  simp only [State.accepts, Bool.and_eq_true, decide_eq_true_eq, List.all_eq_true] at h'
  have hs : (s.queue k.queue).st ≠ .absent := by rw [h'.1.2]; decide
  have hst := State.started_queue s k hs
  refine ⟨t.completeCmd k a, ?_, ?_, rfl⟩
  · rw [State.runCmd_accepts s k row body h, hb]; rfl
  · unfold Completed
    rw [(State.completeCmd_queue t k a (by rw [hq, hst]; exact h'.2) (by rw [hq, hst]; exact hs)).1, hq, hst]

/-- A command that is due and not answered at once stays under way, where the meaning has left its queue as it found it. -/
theorem State.runCmd_waits (s : State) (k : Cmd) (row : OpRow) (body : State → Reply) (t : State) (h : s.accepts k row = true)
    (hb : body (s.started k) = .later t) (hq : t.queue k.queue = (s.started k).queue k.queue) :
    Waits s k (s.runCmd k row true true body) fun u => u = t := by
  have h' := h
  simp only [State.accepts, Bool.and_eq_true, decide_eq_true_eq, List.all_eq_true] at h'
  have hs : (s.queue k.queue).st ≠ .absent := by rw [h'.1.2]; decide
  have hst := State.started_queue s k hs
  refine ⟨t, ?_, ?_, ?_, rfl⟩
  · rw [State.runCmd_accepts s k row body h, hb]; rfl
  · rw [hq, hst]
  · rw [hq, hst]; exact List.mem_append_right _ (List.mem_singleton.2 rfl)

/-- A host command never faults and is never refused. -/
theorem State.runCmd_next (s : State) (k : Cmd) (row : OpRow) (unit params : Bool) (body : State → Reply) :
    ∃ t, s.runCmd k row unit params body = .next t := by
  unfold State.runCmd
  split
  · exact ⟨_, rfl⟩
  · split
    · exact ⟨_, rfl⟩
    · dsimp only
      split
      · exact ⟨_, rfl⟩
      · split
        · exact ⟨_, rfl⟩
        · split <;> exact ⟨_, rfl⟩

/-- What a host command leaves, whatever its checks say: the state that it found; that with a status of the checks; or what its
own meaning leaves of the state that it starts in. -/
theorem State.runCmd_cases (s : State) (k : Cmd) (row : OpRow) (unit params : Bool) (body : State → Reply) :
    s.runCmd k row unit params body = .next s ∨
      (∃ st, s.runCmd k row unit params body = .next ((s.started k).completeCmd k { status := st })) ∨
      s.runCmd k row unit params body = .next ((body (s.started k)).outcome k) := by
  unfold State.runCmd
  split
  · exact .inl rfl
  · split
    · exact .inl rfl
    · dsimp only
      split
      · exact .inr (.inl ⟨_, rfl⟩)
      · split
        · exact .inr (.inl ⟨_, rfl⟩)
        · right; right
          unfold State.started Reply.outcome
          split <;> simp_all

end Sys2Proof.Machine
end

