-- ==== Sys2Proof/Laws/Groups.lean ====
section
/-!
SUPPORT. What the shared operations of Parux instructions do, said once: when an instruction issues, what a poisoned operand
leaves, and what an instruction on registers leaves. Proofs about one instruction cite these and never unfold `State.issue`.
-/

namespace Sys2Proof.Machine

open Sys2Proof

/-! ### Cores and groups by number -/

@[simp] theorem State.core_setCore (s : State) (c : Nat) (k : Core) : (s.setCore c k).core c = k := NMap.get_set_same _ _ _ _

theorem State.core_setCore_other (s : State) {c d : Nat} (k : Core) (h : d ≠ c) : (s.setCore c k).core d = s.core d :=
  NMap.get_set_other _ _ _ h

@[simp] theorem Core.grp_setGrp (k : Core) (g : Nat) (x : Grp) : (k.setGrp g x).grp g = x := NMap.get_set_same _ _ _ _

theorem Core.grp_setGrp_other (k : Core) {g h : Nat} (x : Grp) (hn : h ≠ g) : (k.setGrp g x).grp h = k.grp h :=
  NMap.get_set_other _ _ _ hn

@[simp] theorem State.grp_setCore (s : State) (c g : Nat) (k : Core) : (s.setCore c k).grp c g = k.grp g := by
  simp only [State.grp, State.core_setCore]

@[simp] theorem State.core_grp (s : State) (c g : Nat) : (s.core c).grp g = s.grp c g := rfl

theorem State.grp_modGrp (s : State) (c g : Nat) (f : Grp → Grp) : (s.modGrp c g f).grp c g = f (s.grp c g) := by simp

theorem State.grp_modGrp_other (s : State) {c g c' g' : Nat} (f : Grp → Grp) (h : c' ≠ c ∨ g' ≠ g) :
    (s.modGrp c g f).grp c' g' = s.grp c' g' := by
  simp only [State.grp, State.modGrp_eq]
  by_cases hc : c' = c
  · subst hc
    rw [State.core_setCore, Core.grp_setGrp_other _ _ (h.resolve_left fun h => h rfl)]
  · rw [State.core_setCore_other _ _ hc]

/-- Counters are no part of a group. -/
@[simp] theorem State.grp_event (s : State) (c code n c' g' : Nat) : (s.event c code n).grp c' g' = s.grp c' g' := by
  simp only [State.grp, State.event, State.modCore_eq]
  by_cases hc : c' = c
  · subst hc; rw [State.core_setCore]; rfl
  · rw [State.core_setCore_other _ _ hc]

/-! ### What an instruction on registers leaves -/

theorem RegistersOnly.refl (s : State) (c g : Nat) (p : Bool) : RegistersOnly s s c g p :=
  ⟨rfl, fun _ => rfl, fun _ _ _ => rfl, fun _ => rfl⟩

theorem RegistersOnly.trans {s t u : State} {c g : Nat} {p q : Bool} (h : RegistersOnly s t c g p) (k : RegistersOnly t u c g q) :
    RegistersOnly s u c g (p || q) := by
  obtain ⟨h1, h2, h3, h4⟩ := h
  obtain ⟨k1, k2, k3, k4⟩ := k
  refine ⟨?_, fun c' => ?_, fun c' g' hn => (k3 c' g' hn).trans (h3 c' g' hn), fun hp => ?_⟩
  · rw [k1]; conv_lhs => rw [h1]
  · have a := h2 c'
    have b := k2 c'
    rw [← a, ← b]
  · rw [Bool.or_eq_false_iff] at hp
    exact (k4 hp.2).trans (h4 hp.1)

theorem RegistersOnly.weaken {s t : State} {c g : Nat} {p : Bool} (h : RegistersOnly s t c g false) : RegistersOnly s t c g p :=
  ⟨h.1, h.2.1, h.2.2.1, fun _ => h.2.2.2 rfl⟩

/-- A core whose groups or counters alone change. -/
theorem State.setCore_regs (s : State) (c : Nat) (k : Core)
    (h : { k with groups := (s.core c).groups, cnt := (s.core c).cnt } = s.core c) (c' : Nat) :
    { (s.setCore c k).core c' with groups := (s.core c').groups, cnt := (s.core c').cnt } = s.core c' := by
  by_cases hc : c' = c
  · subst hc; rw [State.core_setCore]; exact h
  · rw [State.core_setCore_other _ _ hc]

theorem State.modGrp_regs (s : State) (c g : Nat) (f : Grp → Grp) : RegistersOnly s (s.modGrp c g f) c g false :=
  ⟨rfl, State.setCore_regs s c _ rfl, fun _ _ h => State.grp_modGrp_other s f h, fun _ => rfl⟩

theorem State.event_regs (s : State) (c g code n : Nat) : RegistersOnly s (s.event c code n) c g false :=
  ⟨rfl, State.setCore_regs s c _ rfl, fun _ _ _ => State.grp_event _ _ _ _ _ _, fun _ => rfl⟩

theorem State.used_regs (s : State) (c g n : Nat) : RegistersOnly s (s.used n) c g false :=
  ⟨rfl, fun _ => rfl, fun _ _ _ => rfl, fun _ => rfl⟩

theorem State.suspect_regs (s : State) (c g j : Nat) (e : Word32) (d cause : Nat) : RegistersOnly s (s.suspect j e d cause) c g true := by
  unfold State.suspect State.modJob
  split
  · exact RegistersOnly.refl s c g true
  · exact ⟨rfl, fun _ => rfl, fun _ _ _ => rfl, fun h => nomatch h⟩

/-- A poisoned operand sets POISON_SEEN, counts the event and makes the job's step suspect (R201, R526). -/
theorem State.seePoison_regs (s : State) (c g n : Nat) : RegistersOnly s (s.seePoison c g n) c g true := by
  have h := (State.modGrp_regs s c g fun x => { x with flags := x.flags ||| 0x10 }).trans (State.event_regs _ c g 0x0E n)
  unfold State.seePoison
  dsimp only
  split
  · exact h.weaken
  · exact h.trans (State.suspect_regs _ c g _ _ _ _)

@[simp] theorem State.grp_suspect (s : State) (j : Nat) (e : Word32) (d cause c g : Nat) :
    (s.suspect j e d cause).grp c g = s.grp c g := by
  unfold State.suspect State.modJob; split <;> rfl

@[simp] theorem State.grp_seePoison (s : State) (c g n : Nat) :
    (s.seePoison c g n).grp c g = { s.grp c g with flags := (s.grp c g).flags ||| 0x10 } := by
  unfold State.seePoison
  dsimp only
  split <;> simp

theorem State.seeIf_regs (s : State) (c g : Nat) (p : Bool) (n : Nat) : RegistersOnly s (s.seeIf c g p n) c g p := by
  cases p
  · exact RegistersOnly.refl s c g false
  · exact State.seePoison_regs s c g n

@[simp] theorem State.grp_seeIf (s : State) (c g : Nat) (p : Bool) (n : Nat) :
    (s.seeIf c g p n).grp c g = { s.grp c g with flags := (s.grp c g).flags ||| (if p then 0x10 else 0) } := by
  cases p
  · simp [State.seeIf]
  · simp [State.seeIf]

@[simp] theorem State.grp_countIssue (s : State) (c pipe c' g' : Nat) : (s.countIssue c pipe).grp c' g' = s.grp c' g' := by
  have h : ∀ k : Core → Core, (∀ x, (k x).groups = x.groups) → (s.modCore c k).grp c' g' = s.grp c' g' := by
    intro k hk
    simp only [State.grp, State.modCore_eq]
    by_cases hc : c' = c
    · subst hc; rw [State.core_setCore]; unfold Core.grp; rw [hk]
    · rw [State.core_setCore_other _ _ hc]
  unfold State.countIssue
  dsimp only
  split
  · rw [State.grp_event]; exact h _ fun _ => rfl
  · split
    · show (State.event _ _ _ _).grp c' g' = _
      rw [State.grp_event]; exact h _ fun _ => rfl
    · exact h _ fun _ => rfl

theorem State.countIssue_regs (s : State) (c g pipe : Nat) : RegistersOnly s (s.countIssue c pipe) c g false := by
  have h : RegistersOnly s (s.modCore c fun k => { k with cnt := k.cnt.add cntIssued 1 }) c g false :=
    ⟨rfl, State.setCore_regs s c _ rfl, fun c' g' _ => by
      simp only [State.grp, State.modCore_eq]
      by_cases hc : c' = c
      · subst hc; rw [State.core_setCore]; rfl
      · rw [State.core_setCore_other _ _ hc], fun _ => rfl⟩
  unfold State.countIssue
  dsimp only
  split
  · exact h.trans (State.event_regs _ c g _ _)
  · split
    · exact (h.trans (State.event_regs _ c g _ _)).trans (State.used_regs _ c g 1)
    · exact h

/-! ### Issue (R177, R184, R202, R211) -/

/-- A unit that the module does not have is refused. -/
theorem State.issue_refused (s : State) (c g pipe : Nat) (legal : Bool) (vr vw : List Nat) (body : State → Eff) (h : 384 ≤ c ∨ 16 ≤ g) :
    s.issue c g pipe legal vr vw body = .refused .noSuchUnit := by
  unfold State.issue; rw [if_pos h]

/-- Every other offer gives a next state. -/
theorem State.issue_next (s : State) (c g pipe : Nat) (legal : Bool) (vr vw : List Nat) (body : State → Eff) (hc : c < 384) (hg : g < 16) :
    ∃ t, s.issue c g pipe legal vr vw body = .next t := by
  have h : ¬(384 ≤ c ∨ 16 ≤ g) := by omega
  unfold State.issue
  rw [if_neg h]
  split
  · exact ⟨_, rfl⟩
  · dsimp only
    split
    · exact ⟨_, rfl⟩
    · split
      · exact ⟨_, rfl⟩
      · split
        · exact ⟨_, rfl⟩
        · split <;> exact ⟨_, rfl⟩

/-- A legal instruction of a group that is ready, in its stream, and whose registers await no gather, issues. -/
theorem State.issue_offers (s : State) (c g pipe : Nat) (vr vw rs : List Nat) (body : State → Eff) (h : s.offers c g rs)
    (hr : ∀ r ∈ vr, r ∈ rs) (hw : ∀ r ∈ vw, r ∈ rs) :
    s.issue c g pipe true vr vw body = .next (s.settle c g pipe (body s)) := by
  obtain ⟨hc, hg, hready, hin, ha⟩ := h
  have hn : ¬(384 ≤ c ∨ 16 ≤ g) := by omega
  have h1 : vr.any (s.grp c g).awaits = false := by rw [List.any_eq_false]; intro r hm; simp [ha r (hr r hm)]
  have h2 : vw.any (s.grp c g).awaits = false := by rw [List.any_eq_false]; intro r hm; simp [ha r (hw r hm)]
  unfold State.issue
  simp [hn, hready, hin, h1, h2]

/-- An instruction whose effect is one on its group's registers, after it has read poison or not: the group goes on at the next
index, and nothing else changes but what `RegistersOnly` names. -/
theorem State.settle_regs (s : State) (c g pipe : Nat) (p : Bool) (n : Nat) (f : Grp → Grp) :
    Ran s c g (let y := f ((s.seeIf c g p n).grp c g); { y with pc := y.pc + 1 }) p
      (.next (s.settle c g pipe (.next ((s.seeIf c g p n).modGrp c g f)))) := by
  refine ⟨_, rfl, ?_, ?_⟩
  · simp only [State.settle, State.grp_countIssue, State.grp_modGrp]
  · have h := (((State.seeIf_regs s c g p n).trans (State.modGrp_regs _ c g f)).trans
      (State.modGrp_regs _ c g fun x => { x with pc := x.pc + 1 })).trans (State.countIssue_regs _ c g pipe)
    rw [Bool.or_false, Bool.or_false, Bool.or_false] at h
    exact h

/-- The scalar instructions of R218: DST takes the value, poisoned when an operand is; POISON_SEEN then rises. -/
theorem State.issue_scalar (s : State) (c g pipe : Nat) (w : IWord) (v : Word64) (p : Bool) (n : Nat) (rs vr : List Nat) (body : State → Eff)
    (h : s.offers c g rs) (hr : ∀ r ∈ vr, r ∈ rs) (hb : body s = scalarResult c g w v p n s) :
    Ran s c g (((s.grp c g).setSreg (fDst w) { val := v, poison := p }).ran 0 p) p (s.issue c g pipe true vr [] body) := by
  rw [State.issue_offers s c g pipe vr [] rs body h hr (by simp), hb]
  have := State.settle_regs s c g pipe p n fun x => x.setSreg (fDst w) { val := v, poison := p }
  unfold scalarResult
  convert this using 1
  rw [State.grp_seeIf]
  unfold Grp.setSreg Grp.ran
  dsimp only
  split <;> simp

end Sys2Proof.Machine
end

