-- ==== Sys2Proof/Laws/Invariant.lean ====
section
/-!
SUPPORT. The shared operations keep the invariant `State.Inv` and the queue of waiting commands: one lemma for each, so that the
proof about a command composes them and never unfolds one.
-/

namespace Sys2Proof.Machine

open Sys2Proof

/-- An operation that leads from `s` to `t` keeps the invariant and the queue of waiting commands. -/
def State.Keeps (s t : State) : Prop := (s.Inv → t.Inv) ∧ t.pending = s.pending

theorem State.Keeps.refl (s : State) : s.Keeps s := ⟨id, rfl⟩

theorem State.Keeps.trans {s t u : State} (h : s.Keeps t) (k : t.Keeps u) : s.Keeps u := ⟨fun i => k.1 (h.1 i), k.2.trans h.2⟩

/-- What leaves the memories, the NVM ring and the waiting commands as they are keeps. -/
theorem State.Keeps.of {s t : State} (h1 : t.store = s.store) (h2 : t.deck = s.deck) (h3 : t.hbm = s.hbm) (h4 : t.imem = s.imem)
    (h5 : t.host = s.host) (h6 : t.nvm = s.nvm) (h7 : t.pending = s.pending) : s.Keeps t := by
  refine ⟨fun h => ?_, h7⟩
  unfold State.Inv State.memWf State.nvmEndures at *
  rw [h1, h2, h3, h4, h5, h6]
  exact h

/-- A fold of operations that keep. -/
theorem foldl_keeps {α : Type} (f : State → α → State) (hf : ∀ (s : State) (x : α), s.Keeps (f s x)) (l : List α) (s : State) : s.Keeps (l.foldl f s) := by
  induction l generalizing s with
  | nil => exact .refl s
  | cons x t ih => exact (hf s x).trans (ih _)

/-- A choice between operations that keep. -/
theorem ite_keeps {s a b : State} {c : Prop} [Decidable c] (ha : c → s.Keeps a) (hb : ¬c → s.Keeps b) : s.Keeps (if c then a else b) := by
  split
  · exact ha ‹_›
  · exact hb ‹_›

/-! ### Updates of one unit -/

theorem State.setCore_keeps (s : State) (c : Nat) (v : Core) : s.Keeps (s.setCore c v) := (.of rfl rfl rfl rfl rfl rfl rfl)
theorem State.modCore_keeps (s : State) (c : Nat) (f : Core → Core) : s.Keeps (s.modCore c f) := (.of rfl rfl rfl rfl rfl rfl rfl)
theorem State.setGrp_keeps (s : State) (c g : Nat) (v : Grp) : s.Keeps (s.setGrp c g v) := (.of rfl rfl rfl rfl rfl rfl rfl)
theorem State.modGrp_keeps (s : State) (c g : Nat) (f : Grp → Grp) : s.Keeps (s.modGrp c g f) := (.of rfl rfl rfl rfl rfl rfl rfl)
theorem State.modArr_keeps (s : State) (c : Nat) (f : Arr → Arr) : s.Keeps (s.modArr c f) := (.of rfl rfl rfl rfl rfl rfl rfl)
theorem State.setCluster_keeps (s : State) (c : Nat) (v : Cluster) : s.Keeps (s.setCluster c v) := (.of rfl rfl rfl rfl rfl rfl rfl)
theorem State.modCluster_keeps (s : State) (c : Nat) (f : Cluster → Cluster) : s.Keeps (s.modCluster c f) := (.of rfl rfl rfl rfl rfl rfl rfl)
theorem State.modStack_keeps (s : State) (n : Nat) (f : Stack → Stack) : s.Keeps (s.modStack n f) := (.of rfl rfl rfl rfl rfl rfl rfl)
theorem State.modPort_keeps (s : State) (p : Nat) (f : Port → Port) : s.Keeps (s.modPort p f) := (.of rfl rfl rfl rfl rfl rfl rfl)
theorem State.modQueue_keeps (s : State) (q : Nat) (f : HQueue → HQueue) : s.Keeps (s.modQueue q f) := (.of rfl rfl rfl rfl rfl rfl rfl)
theorem State.modPart_keeps (s : State) (p : Nat) (f : Part → Part) : s.Keeps (s.modPart p f) := (.of rfl rfl rfl rfl rfl rfl rfl)
theorem State.setJob_keeps (s : State) (j : Nat) (v : Option Job) : s.Keeps (s.setJob j v) := (.of rfl rfl rfl rfl rfl rfl rfl)
theorem State.setTable_keeps (s : State) (t : Nat) (v : Option Table) : s.Keeps (s.setTable t v) := (.of rfl rfl rfl rfl rfl rfl rfl)
theorem State.setWindow_keeps (s : State) (n : Nat) (v : Window) : s.Keeps (s.setWindow n v) := (.of rfl rfl rfl rfl rfl rfl rfl)
theorem State.setGroupE_keeps (s : State) (n : Nat) (v : GroupEntry) : s.Keeps (s.setGroupE n v) := (.of rfl rfl rfl rfl rfl rfl rfl)
theorem State.used_keeps (s : State) (n : Nat) : s.Keeps (s.used n) := (.of rfl rfl rfl rfl rfl rfl rfl)
theorem State.mapCores_keeps (s : State) (f : Nat → Core → Core) : s.Keeps (s.mapCores f) := (.of rfl rfl rfl rfl rfl rfl rfl)
theorem State.mapClusters_keeps (s : State) (f : Nat → Cluster → Cluster) : s.Keeps (s.mapClusters f) := (.of rfl rfl rfl rfl rfl rfl rfl)
theorem State.mapPorts_keeps (s : State) (f : Nat → Port → Port) : s.Keeps (s.mapPorts f) := (.of rfl rfl rfl rfl rfl rfl rfl)
theorem State.event_keeps (s : State) (c code n : Nat) : s.Keeps (s.event c code n) := (.of rfl rfl rfl rfl rfl rfl rfl)
theorem State.signal_keeps (s : State) (f v : Nat) : s.Keeps (s.signal f v) := by
  rw [State.signal_shape]; exact .of rfl rfl rfl rfl rfl rfl rfl
theorem State.pushDone_keeps (s : State) (q : Nat) (e : Completion) : s.Keeps (s.pushDone q e) := (.of rfl rfl rfl rfl rfl rfl rfl)
theorem State.holdDone_keeps (s : State) (q : Nat) (e : Completion) : s.Keeps (s.holdDone q e) := (.of rfl rfl rfl rfl rfl rfl rfl)
theorem State.deckCount_keeps (s : State) (cl i n : Nat) : s.Keeps (s.deckCount cl i n) := (.of rfl rfl rfl rfl rfl rfl rfl)
theorem State.tlbUse_keeps (s : State) (k : Nat) (l : Leaf) : s.Keeps (s.tlbUse k l) := (.of rfl rfl rfl rfl rfl rfl rfl)
theorem State.tlbDrop_keeps (s : State) (k p va n : Nat) : s.Keeps (s.tlbDrop k p va n) := (.of rfl rfl rfl rfl rfl rfl rfl)

theorem State.modJob_keeps (s : State) (j : Nat) (f : Job → Job) : s.Keeps (s.modJob j f) := by
  unfold State.modJob; split
  · exact .refl s
  · exact s.setJob_keeps j _

theorem State.modTable_keeps (s : State) (t : Nat) (f : Table → Table) : s.Keeps (s.modTable t f) := by
  unfold State.modTable; split
  · exact .refl s
  · exact s.setTable_keeps t _

/-! ### Host memory, records, tokens and completions -/

theorem State.hostWrite_keeps (s : State) (a : Nat) (b : List Byte) : s.Keeps (s.hostWrite a b) :=
  ⟨fun h => ⟨State.hostWrite_wf a b h.1, h.2⟩, rfl⟩

theorem State.trace_keeps (s : State) (a : TraceArgs) : s.Keeps (s.trace a) := by
  unfold State.trace
  dsimp only
  split
  · exact .refl s
  · exact (s.modPart_keeps _ _).trans (State.used_keeps _ _)

theorem State.ringRecord_keeps (s : State) (r : ErrRec) : s.Keeps (s.ringRecord r) := by
  have h := s.hostWrite_keeps (ringBase s.errRing + 64 * s.errTail) r.bytes
  unfold State.ringRecord
  refine ite_keeps (fun _ => .of rfl rfl rfl rfl rfl rfl rfl) fun _ => State.Keeps.trans h ?_
  generalize s.hostWrite (ringBase s.errRing + 64 * s.errTail) r.bytes = u
  refine State.Keeps.trans ?_ (State.signal_keeps _ _ _)
  exact .of rfl rfl rfl rfl rfl rfl rfl

theorem State.routeRecord_keeps (s : State) (r : ErrRec) : s.Keeps (s.routeRecord r) := by
  unfold State.routeRecord
  extract_lets r' s1 s2 s3
  have h1 : s.Keeps s1 := .of rfl rfl rfl rfl rfl rfl rfl
  have h2 : s1.Keeps s2 := ite_keeps (fun _ => s1.ringRecord_keeps r') fun _ => .refl s1
  have h3 : s2.Keeps s3 := ite_keeps (fun _ => .of rfl rfl rfl rfl rfl rfl rfl) fun _ => .refl s2
  exact ((h1.trans h2).trans h3).trans (s3.trace_keeps _)

theorem State.raise_keeps (s : State) (a : ErrArgs) : s.Keeps (s.raise a) := by
  unfold State.raise
  dsimp only
  split
  · split <;> exact (.of rfl rfl rfl rfl rfl rfl rfl)
  · exact (s.used_keeps 2).trans (State.routeRecord_keeps _ _)

theorem State.sendTokens_keeps (s : State) (p : Nat) (c : TokClass) (ts : List Word64) : s.Keeps (s.sendTokens p c ts) := by
  unfold State.sendTokens
  exact ite_keeps (fun _ => .refl s) fun _ => s.modPort_keeps _ _

theorem State.sendAll_keeps (s : State) (ps : List Nat) (c : TokClass) (ts : List Word64) : s.Keeps (s.sendAll ps c ts) :=
  foldl_keeps _ (fun s p => s.sendTokens_keeps p c ts) ps s

theorem State.complete_keeps (s : State) (k : Cmd) (a : Answer) : s.Keeps (s.complete k a) := by
  unfold State.complete
  dsimp only
  split
  · split
    · exact (s.trace_keeps _).trans ((State.modQueue_keeps _ _ _).trans (State.holdDone_keeps _ _ _))
    · exact (s.trace_keeps _).trans (State.modQueue_keeps _ _ _)
  · split
    · exact s.trace_keeps _
    · exact (s.trace_keeps _).trans ((State.modQueue_keeps _ _ _).trans (State.pushDone_keeps _ _ _))

/-! ### Failure (R429 to R431, R346) -/

theorem State.setStop_keeps (s : State) (j now : Nat) : s.Keeps (s.setStop j now) := s.modJob_keeps _ _

theorem State.giveBack_keeps (s : State) (p : McPrep) : s.Keeps (s.giveBack p) := by
  unfold State.giveBack
  refine ite_keeps (fun _ => .refl s) fun _ => ?_
  split
  · exact ite_keeps (fun _ => .refl s) fun _ => s.setGroupE_keeps _ _
  · exact s.setGroupE_keeps _ _
  · split
    · exact ite_keeps (fun _ => s.setJob_keeps _ _) fun _ => .refl s
    · exact .refl s
  · exact .refl s

theorem State.dropChanges_keeps (s : State) (coord : Nat) : s.Keeps (s.dropChanges coord) := by
  unfold State.dropChanges State.discardPreps
  exact (foldl_keeps _ State.giveBack_keeps _ s).trans (.of rfl rfl rfl rfl rfl rfl rfl)

theorem State.failFor_keeps (s : State) (js : List Nat) (cause : Nat) : s.Keeps (s.failFor js cause) := by
  unfold State.failFor
  extract_lets s1 s2 s3
  have h1 : s.Keeps s1 := (s.sendAll_keeps s.upPorts .u [failedToken s.device cause 0]).trans (State.dropChanges_keeps _ _)
  have h2 : s1.Keeps s2 := .of rfl rfl rfl rfl rfl rfl rfl
  have h3 : s2.Keeps s3 := foldl_keeps _ (fun s j => s.modJob_keeps j _) js s2
  exact ((h1.trans h2).trans h3).trans (foldl_keeps _ (fun s j => s.setStop_keeps j _) _ s3)

theorem State.failOpen_keeps (s : State) (js : List Nat) : s.Keeps (s.failOpen js) := (s.used_keeps 1).trans (State.failFor_keeps _ _ _)

theorem State.failAll_keeps (s : State) (cause : Nat) : s.Keeps (s.failAll cause) := (s.failFor_keeps s.heldJobs cause).trans (.of rfl rfl rfl rfl rfl rfl rfl)

theorem State.loseStack_keeps (s : State) (n pc cause : Nat) : s.Keeps (s.loseStack n pc cause) := by
  unfold State.loseStack
  refine ite_keeps (fun _ => .refl s) fun _ => ?_
  have h := (s.modStack_keeps n fun k => { k with lost := true, lostPc := pc }).trans
    (State.raise_keeps _ { unit := devRef s.device, cls := 0x12, syndrome := n + pc * 2 ^ 8 + cause * 2 ^ 16, sensor := some n })
  exact ite_keeps (fun _ => h) fun _ => h.trans (State.failFor_keeps _ _ _)

theorem State.listRow_keeps (s : State) (n pc row : Nat) (spares : Option Nat) : s.Keeps (s.listRow n pc row spares) := by
  unfold State.listRow
  refine ite_keeps (fun _ => .refl s) fun _ => ?_
  have h := s.modStack_keeps n fun k => { k with repairs := k.repairs ++ [row] }
  dsimp only
  split
  · exact ite_keeps (fun _ => h.trans (State.loseStack_keeps _ _ _ _)) fun _ => h
  · refine ite_keeps (fun _ => h) fun _ => ite_keeps (fun _ => ?_) fun _ => h.trans (State.used_keeps _ _)
    exact h.trans ((State.used_keeps _ _).trans (State.loseStack_keeps _ _ _ _))

/-! ### The coded memories (R330 to R336) -/

theorem State.hbmCorrected_keeps (s : State) (a : Nat) (demand : Bool) (spares : Option Nat) : s.Keeps (s.hbmCorrected a demand spares) := by
  unfold State.hbmCorrected
  dsimp only
  split
  · split
    · exact ((s.modStack_keeps _ _).trans (State.listRow_keeps _ _ _ _ _)).trans (State.raise_keeps _ _)
    · exact (s.modStack_keeps _ _).trans (State.listRow_keeps _ _ _ _ _)
  · split
    · exact (s.modStack_keeps _ _).trans (State.raise_keeps _ _)
    · exact s.modStack_keeps _ _

theorem State.hbmBad_keeps (s : State) (a : Nat) (spares : Option Nat) : s.Keeps (s.hbmBad a spares) :=
  ((s.modStack_keeps _ _).trans (State.raise_keeps _ _)).trans (State.listRow_keeps _ _ _ _ _)

theorem State.setMem_keeps (s : State) (sp : Space) (m : Mem) (h : s.memWf = true → m.wf = true) : s.Keeps (s.setMem sp m) := by
  refine ⟨fun i => ⟨State.setMem_wf sp i.1 (h i.1), ?_⟩, ?_⟩
  · cases sp <;> exact i.2
  · cases sp <;> rfl

theorem State.noteRead_keeps (s : State) (sp : Space) (i : Nat) (x : Sector) : s.Keeps (s.noteRead sp i x) := by
  unfold State.noteRead
  cases sp
  · exact ite_keeps (fun _ => (s.setMem_keeps .store _ fun h => Mem.putSector_wf _ _ _ (State.mem_wf .store h)).trans (State.event_keeps _ _ _ _))
      fun _ => .refl s
  · exact ite_keeps (fun _ => s.modCluster_keeps _ _) fun _ => .refl s
  · exact ite_keeps (fun _ => s.hbmCorrected_keeps _ _ _) fun _ => ite_keeps (fun _ => s.hbmBad_keeps _ _) fun _ => .refl s

theorem State.handSector_keeps (s : State) (x : Sector) : s.Keeps (s.handSector x).2 := by
  unfold State.handSector
  split
  · exact s.used_keeps 1
  · exact .refl s

theorem State.readSector_keeps (s : State) (sp : Space) (i : Nat) : s.Keeps (s.readSector sp i).2 := by
  unfold State.readSector
  split
  · exact s.used_keeps 1
  · exact (s.noteRead_keeps _ _ _).trans (State.handSector_keeps _ _)

theorem State.readSectors_keeps (s : State) (sp : Space) (i n : Nat) : s.Keeps (s.readSectors sp i n).2 := by
  induction n generalizing s i with
  | zero => exact .refl s
  | succ n ih => exact (s.readSector_keeps sp i).trans (ih _ _)

theorem State.readBytes_keeps (s : State) (sp : Space) (a n : Nat) : s.Keeps (s.readBytes sp a n).2.2 := s.readSectors_keeps _ _ _

theorem State.readEach_keeps (s : State) (sp : Space) (l : List Nat) : s.Keeps (s.readEach sp l).2 := by
  induction l generalizing s with
  | nil => exact .refl s
  | cons i t ih => exact (s.readSector_keeps sp i).trans (ih _)

theorem State.keepOld_keeps (s : State) (sp : Space) (i : Nat) : s.Keeps (s.keepOld sp i) :=
  ite_keeps (fun _ => .of rfl rfl rfl rfl rfl rfl rfl) fun _ => .refl s

theorem State.putSector_keeps (s : State) (sp : Space) (i : Nat) (b : List Byte) (p q : Bool) : s.Keeps (s.putSector sp i b p q) := by
  unfold State.putSector
  refine ite_keeps (fun _ => .refl s) fun _ => (s.keepOld_keeps sp i).trans (State.setMem_keeps _ sp _ fun h => ?_)
  rw [State.keepOld_wf] at h
  exact Mem.putSector_wf _ _ _ (State.mem_wf sp h)

theorem State.mergeSector_keeps (s : State) (sp : Space) (i o : Nat) (b : List Byte) (p q : Bool) : s.Keeps (s.mergeSector sp i o b p q) := by
  unfold State.mergeSector
  refine ite_keeps (fun _ => s.putSector_keeps _ _ _ _ _) fun _ => ite_keeps (fun _ => .refl s) fun _ => ?_
  exact (s.noteRead_keeps _ _ _).trans (State.putSector_keeps _ _ _ _ _ _)

theorem State.maskSector_keeps (s : State) (sp : Space) (i : Nat) (m : NMap Byte) (p q : Bool) : s.Keeps (s.maskSector sp i m p q) := by
  unfold State.maskSector
  refine ite_keeps (fun _ => s.putSector_keeps _ _ _ _ _) fun _ => ite_keeps (fun _ => .refl s) fun _ => ?_
  exact (s.noteRead_keeps _ _ _).trans (State.putSector_keeps _ _ _ _ _ _)

theorem State.writeFrom_keeps (s : State) (sp : Space) (p q : Bool) (n a : Nat) (b : List Byte) : s.Keeps (s.writeFrom sp p q n a b) := by
  induction n generalizing s a b with
  | zero => exact .refl s
  | succ n ih =>
    unfold State.writeFrom
    split
    · exact .refl s
    · exact (s.mergeSector_keeps _ _ _ _ _ _).trans (ih _ _ _)

theorem State.writeBytes_keeps (s : State) (sp : Space) (a : Nat) (b : List Byte) (p q : Bool) : s.Keeps (s.writeBytes sp a b p q) :=
  s.writeFrom_keeps _ _ _ _ _ _

/-! ### Across the die links (R29) -/

theorem State.cross_keeps (s : State) (a b : Nat) : s.Keeps (s.cross a b).2 := by
  unfold State.cross
  split
  · exact .refl s
  · split
    · exact .refl s
    · split <;> exact .of rfl rfl rfl rfl rfl rfl rfl

theorem State.carry_keeps (s : State) (a b : Nat) (x : Sector) : s.Keeps (s.carry a b x).2 := by
  have h := s.cross_keeps a b
  unfold State.carry
  generalize s.cross a b = f at h ⊢
  obtain ⟨bad, u⟩ := f
  dsimp only at h ⊢
  split
  · exact h.trans (State.used_keeps _ _)
  · exact h

theorem carried_keeps {s : State} (r : Sector × State) (h : s.Keeps r.2) (a b : Nat) : s.Keeps (carried r a b).2 := h.trans (r.2.carry_keeps a b r.1)

theorem State.bringSectors_keeps (s : State) (cl i n : Nat) : s.Keeps (s.bringSectors cl i n).2 := by
  induction n generalizing s i with
  | zero => exact .refl s
  | succ n ih => exact (carried_keeps _ (s.readSector_keeps .hbm i) _ _).trans (ih _ _)

/-! ### The Deck cache (R287 to R298) -/

theorem State.noteLine_keeps (s : State) (cl : Nat) (x : Sector) : s.Keeps (s.noteLine cl x) :=
  ite_keeps (fun _ => s.deckCount_keeps cl 7 1) fun _ => .refl s

theorem State.lineSector_keeps (s : State) (cl : Nat) (l : Line) (k : Nat) : s.Keeps (s.lineSector cl l k).2 :=
  (s.noteLine_keeps cl _).trans (State.handSector_keeps _ _)

theorem State.writeBack_keeps (s : State) (cl : Nat) (l : Line) : s.Keeps (s.writeBack cl l) := by
  unfold State.writeBack
  refine ite_keeps (fun _ => .refl s) fun _ => State.Keeps.trans ?_ (State.deckCount_keeps _ _ _ _)
  refine foldl_keeps _ (fun s k => ?_) _ s
  exact ((s.noteLine_keeps cl _).trans (State.cross_keeps _ _ _)).trans (State.putSector_keeps _ _ _ _ _ _)

theorem State.dropLines_keeps (s : State) (cl : Nat) (p : Line → Bool) : s.Keeps (s.dropLines cl p) :=
  (foldl_keeps _ (fun s l => s.writeBack_keeps cl l) _ s).trans (State.modCluster_keeps _ _ _)

theorem State.cleanLines_keeps (s : State) (cl : Nat) (p : Line → Bool) : s.Keeps (s.cleanLines cl p) :=
  (foldl_keeps _ (fun s l => s.writeBack_keeps cl l) _ s).trans (State.modCluster_keeps _ _ _)

theorem State.insertLine_keeps (s : State) (cl : Nat) (l : Line) : s.Keeps (s.insertLine cl l) := by
  unfold State.insertLine
  dsimp only
  refine State.Keeps.trans (ite_keeps (fun _ => ?_) fun _ => .refl s) (State.modCluster_keeps _ _ _)
  exact (s.dropLines_keeps _ _).trans (State.deckCount_keeps _ _ _ _)

theorem State.fetchLine_keeps (s : State) (cl r la : Nat) (t : Option (Nat × Byte)) : s.Keeps (s.fetchLine cl r la t).2.2 :=
  s.bringSectors_keeps cl (4 * la) 4

theorem State.nextLine_keeps (s : State) (cl r la : Nat) (t : Option (Nat × Byte)) : s.Keeps (s.nextLine cl r la t) := by
  have h := s.fetchLine_keeps cl r (la + 1) t
  unfold State.nextLine
  generalize s.fetchLine cl r (la + 1) t = f at h ⊢
  obtain ⟨l, bad, u⟩ := f
  refine ite_keeps (fun _ => .refl s) fun _ => State.Keeps.trans h ?_
  exact ite_keeps (fun _ => .refl u) fun _ => (u.insertLine_keeps cl l).trans (State.deckCount_keeps _ cl dcNext 1)

theorem State.demandLine_keeps (s : State) (cl r la : Nat) (t : Option (Nat × Byte)) : s.Keeps (s.demandLine cl r la t).2 := by
  have h := (s.deckCount_keeps cl dcMisses 1).trans ((s.deckCount cl dcMisses 1).fetchLine_keeps cl r la t)
  unfold State.demandLine
  generalize (s.deckCount cl dcMisses 1).fetchLine cl r la t = f at h ⊢
  obtain ⟨l, bad, u⟩ := f
  dsimp only
  split
  · exact (s.modCluster_keeps cl _).trans (State.deckCount_keeps _ cl dcHits 1)
  · exact State.Keeps.trans h ((u.insertLine_keeps cl l).trans ((State.modCluster_keeps _ cl _).trans (State.nextLine_keeps _ cl r la t)))

theorem State.clRead_keeps (s : State) (cl : Nat) (t : Option (Nat × Byte)) (i : Nat) : s.Keeps (s.clRead cl t i).2 := by
  unfold State.clRead
  split
  · exact carried_keeps _ (s.readSector_keeps _ _) _ _
  · exact (s.demandLine_keeps _ _ _ _).trans (State.lineSector_keeps _ _ _ _)

theorem State.modLine_keeps (s : State) (cl : Nat) (l : Line) (f : Line → Line) : s.Keeps (s.modLine cl l f) := s.modCluster_keeps _ _

theorem State.clMask_keeps (s : State) (cl i : Nat) (m : NMap Byte) (p q : Bool) : s.Keeps (s.clMask cl i m p q) := by
  have h := (s.cross_keeps (cl / 12) (stackOf (32 * i) / 3)).trans
    ((s.cross (cl / 12) (stackOf (32 * i) / 3)).2.maskSector_keeps .hbm i m (p || (s.cross (cl / 12) (stackOf (32 * i) / 3)).1) q)
  unfold State.clMask
  dsimp only
  split
  · exact h
  · refine ite_keeps (fun _ => ?_) fun _ => h.trans (State.modCluster_keeps _ _ _)
    exact (s.demandLine_keeps _ _ _ _).trans ((State.noteLine_keeps _ _ _).trans (State.modLine_keeps _ _ _ _))

theorem State.clWrite_keeps (s : State) (cl i o : Nat) (b : List Byte) (p q : Bool) : s.Keeps (s.clWrite cl i o b p q) := s.clMask_keeps _ _ _ _ _

theorem State.zeroLine_keeps (s : State) (cl la : Nat) (prot : Bool) : s.Keeps (s.zeroLine cl la prot) := by
  have hp : ∀ (u : State) (d : List Byte) (q : Bool), u.Keeps ((List.range 4).foldl (fun u k => u.putSector .hbm (4 * la + k) d false q) u) :=
    fun u d q => foldl_keeps _ (fun u k => u.putSector_keeps _ _ _ _ _) _ u
  unfold State.zeroLine
  refine (s.deckCount_keeps cl dcZero 1).trans ?_
  dsimp only
  split
  · exact hp _ _ _
  · refine ite_keeps (fun _ => ?_) fun _ => (hp _ _ _).trans (State.modCluster_keeps _ _ _)
    split
    · exact (State.modLine_keeps _ _ _ _).trans (State.modCluster_keeps _ _ _)
    · exact (State.insertLine_keeps _ _ _).trans (State.modCluster_keeps _ _ _)

theorem State.dropReadOnly_keeps (s : State) (i : Nat) : s.Keeps (s.dropReadOnly i) := foldl_keeps _ (fun s _ => s.modCluster_keeps _ _) _ s

/-! ### Through a target (R354) -/

theorem State.raiseTranslation_keeps (s : State) (a : ErrArgs) (n : Nat) (e : Refuse × Nat) (d : Nat) : s.Keeps (s.raiseTranslation a n e d) :=
  s.raise_keeps _

theorem State.readAt_keeps (s : State) (cl : Option Nat) (t : Target) : s.Keeps (s.readAt cl t).2 := by
  unfold State.readAt
  cases t with
  | hbm a =>
    cases cl with
    | none => exact carried_keeps _ (s.readSector_keeps _ _) _ _
    | some c => exact s.clRead_keeps _ _ _
  | deck a =>
    have h := s.readSector_keeps .deck (a / 32)
    dsimp only
    generalize s.readSector .deck (a / 32) = r at h ⊢
    exact carried_keeps (r.1, r.2.deckCount (deckCluster a) dcScratch 1) (h.trans (State.deckCount_keeps _ _ _ _)) _ _
  | host a =>
    dsimp only
    generalize ({ data := s.hostRead (a / 32 * 32) 32, tag := 0 } : Sector) = x
    exact s.carry_keeps _ _ x
  | remote d w o => exact .refl s

theorem State.writeAt_keeps (s : State) (cl : Option Nat) (t : Target) (b : List Byte) (p q : Bool) : s.Keeps (s.writeAt cl t b p q) := by
  have h := s.cross_keeps (dieOfCluster cl) t.die
  unfold State.writeAt
  dsimp only
  generalize s.cross (dieOfCluster cl) t.die = f at h ⊢
  obtain ⟨bad, u⟩ := f
  cases t with
  | hbm a =>
    cases cl with
    | none => exact State.Keeps.trans h (u.mergeSector_keeps _ _ _ _ _ _)
    | some c => exact s.clWrite_keeps _ _ _ _ _ _
  | deck a => exact State.Keeps.trans h ((u.mergeSector_keeps _ _ _ _ _ _).trans (State.deckCount_keeps _ _ _ _))
  | host a => exact State.Keeps.trans h (u.hostWrite_keeps _ _)
  | remote d w o => exact .refl s

theorem State.maskAt_keeps (s : State) (cl : Nat) (t : Target) (m : NMap Byte) (p q : Bool) : s.Keeps (s.maskAt cl t m p q) := by
  have h := s.cross_keeps (cl / 12) t.die
  unfold State.maskAt
  cases t with
  | hbm a => exact s.clMask_keeps _ _ _ _ _
  | deck a => exact h.trans ((State.maskSector_keeps _ _ _ _ _ _).trans (State.deckCount_keeps _ _ _ _))
  | host a => exact h.trans (foldl_keeps _ (fun s b => s.hostWrite_keeps _ _) m _)
  | remote d w o => exact .refl s

theorem State.readVa_keeps (s : State) (cl : Option Nat) (part va n : Nat) : s.Keeps (s.readVa cl part va n).2 := by
  induction n generalizing s va with
  | zero => exact .refl s
  | succ n ih =>
    unfold State.readVa
    cases h : s.leafAt part va with
    | some l => exact (s.readAt_keeps cl (l.target va)).trans (ih (s.readAt cl (l.target va)).2 (va + 32))
    | none => exact ih s (va + 32)

theorem State.writeVa_keeps (s : State) (cl : Option Nat) (part va : Nat) (l : List (List Byte × Bool)) : s.Keeps (s.writeVa cl part va l) := by
  induction l generalizing s va with
  | nil => exact .refl s
  | cons x t ih =>
    unfold State.writeVa
    dsimp only
    split
    · exact (s.writeAt_keeps _ _ _ _ _).trans (ih _ _)
    · exact ih _ _

/-! ### Jobs, semaphores and exceptions -/

theorem State.serveSemN_keeps (s : State) (cl n m : Nat) : s.Keeps (s.serveSemN cl n m) := by
  induction m generalizing s with
  | zero => exact .refl s
  | succ m ih =>
    unfold State.serveSemN
    dsimp only
    split
    · exact .refl s
    · exact ite_keeps (fun _ => .refl s) fun _ => (s.setCluster_keeps _ _).trans ((State.modGrp_keeps _ _ _ _).trans (ih _))

theorem State.serveSem_keeps (s : State) (cl n : Nat) : s.Keeps (s.serveSem cl n) := s.serveSemN_keeps _ _ _

theorem State.setSem_keeps (s : State) (cl n : Nat) (v : Word32) : s.Keeps (s.setSem cl n v) :=
  (s.modCluster_keeps _ _).trans (State.serveSem_keeps _ _ _)

theorem State.dropWaits_keeps (s : State) (p : Nat → Nat → Bool) : s.Keeps (s.dropWaits p) := by
  refine foldl_keeps _ (fun s cl => foldl_keeps _ (fun s n => ?_) _ s) _ s
  exact ite_keeps (fun _ => .refl s) fun _ => (s.modCluster_keeps _ _).trans (State.serveSem_keeps _ _ _)

theorem State.pinSlots_keeps (s : State) (up : Bool) (ps : List Pin) : s.Keeps (s.pinSlots up ps) :=
  foldl_keeps _ (fun s _ => s.modTable_keeps _ _) ps s

theorem State.unpark_keeps (s : State) (on : Nat → Bool) (p : Park → Bool) : s.Keeps (s.unpark on p) := s.mapCores_keeps _

theorem State.unparkFreed_keeps (s old : State) : s.Keeps (s.unparkFreed old) := s.mapCores_keeps _

theorem State.trimLog_keeps (s : State) : s.Keeps s.trimLog := ite_keeps (fun _ => .refl s) fun _ => .of rfl rfl rfl rfl rfl rfl rfl

theorem State.stopUnits_keeps (s : State) (j : Nat) : s.Keeps (s.stopUnits j) :=
  (((((s.mapCores_keeps _).trans (State.pinSlots_keeps _ _ _)).trans (State.mapClusters_keeps _ _)).trans
    (State.dropWaits_keeps _ _)).trans (State.unparkFreed_keeps _ _)).trans (State.trimLog_keeps _)

/-- A part of a memory cleared. -/
theorem State.clearMem_keeps (s : State) (sp : Space) (lo hi : Nat) : s.Keeps (s.setMem sp ((s.mem sp).clear lo hi)) :=
  s.setMem_keeps sp _ fun h => Mem.clear_wf _ _ (State.mem_wf sp h)

/-! ### Power states (R598 to R603) -/

theorem State.resetCore_keeps (s : State) (c : Nat) : s.Keeps (s.resetCore c) :=
  (s.modCore_keeps c _).trans (State.clearMem_keeps _ .store _ _)

theorem State.resetCluster_keeps (s : State) (cl : Nat) : s.Keeps (s.resetCluster cl) := foldl_keeps _ (fun s c => s.resetCore_keeps c) _ s

theorem State.zeroSlice_keeps (s : State) (cl : Nat) : s.Keeps (s.zeroSlice cl) :=
  (s.modCluster_keeps cl _).trans (State.clearMem_keeps _ .deck _ _)

theorem State.syncPlls_keeps (s : State) : s.Keeps s.syncPlls := .of rfl rfl rfl rfl rfl rfl rfl

theorem State.loseCluster_keeps (s : State) (cl : Nat) : s.Keeps (s.loseCluster cl) := by
  unfold State.loseCluster
  have h := s.resetCluster_keeps cl
  generalize s.resetCluster cl = u at h ⊢
  exact h.trans (.of rfl rfl rfl rfl rfl rfl rfl)

theorem State.setPower_keeps (s : State) (cl : Nat) (w : Power) : s.Keeps (s.setPower cl w) := by
  unfold State.setPower
  refine ite_keeps (fun _ => .refl s) fun _ => ite_keeps (fun _ => ?_) fun _ => ?_
  · exact (s.loseCluster_keeps cl).trans (State.syncPlls_keeps _)
  · exact ((ite_keeps (fun _ => s.resetCluster_keeps cl) fun _ => .refl s).trans (State.modCluster_keeps _ cl _)).trans (State.syncPlls_keeps _)

theorem State.setSlice_keeps (s : State) (cl : Nat) (w : DeckPower) : s.Keeps (s.setSlice cl w) :=
  (ite_keeps (fun _ => s.zeroSlice_keeps cl) fun _ => .refl s).trans (State.modCluster_keeps _ cl _)

theorem State.wakeCluster_keeps (s : State) (cl : Nat) : s.Keeps (s.wakeCluster cl) :=
  (s.setSlice_keeps cl .on).trans (State.setPower_keeps _ cl .run)

theorem State.wakeDue_keeps (s : State) (j : Nat) : s.Keeps (s.wakeDue j) := by
  unfold State.wakeDue
  split
  · exact .refl s
  · split
    · exact .refl s
    · extract_lets left
      exact foldl_keeps _ (fun (s : State) (x : Nat × Nat) => s.wakeCluster_keeps x.1) _ s

theorem State.chooseStart_keeps (s : State) (j : Nat) : s.Keeps (s.chooseStart j) := by
  unfold State.chooseStart
  split
  · exact .refl s
  · extract_lets need
    refine State.Keeps.trans ?_ (State.wakeDue_keeps _ j)
    exact s.setJob_keeps j _

theorem State.startWaiting_keeps (s : State) (p : Nat) : s.Keeps (s.startWaiting p) := by
  refine foldl_keeps _ (fun s i => ?_) _ s
  dsimp only
  split
  · exact .refl s
  · refine ite_keeps (fun _ => .refl s) fun _ => State.Keeps.trans ?_ (State.modPart_keeps _ _ _)
    exact ite_keeps (fun _ => s.setJob_keeps _ _) fun _ => s.chooseStart_keeps _

theorem State.cleanClusters_keeps (s : State) (cls : List Nat) : s.Keeps (s.cleanClusters cls) :=
  foldl_keeps _ (fun s cl => s.cleanLines_keeps cl _) cls s

theorem State.countDone_keeps (s : State) (k : Cmd) (ok : Bool) : s.Keeps (s.countDone k ok) := s.modQueue_keeps _ _

theorem State.completeLaunches_keeps (s : State) (j : Nat) (b : Job) (a : Answer) : s.Keeps (s.completeLaunches j b a) :=
  foldl_keeps _ (fun s k => (s.countDone_keeps k _).trans (State.complete_keeps _ _ _)) _ s

theorem State.endSequences_keeps (s : State) (p status : Nat) : s.Keeps (s.endSequences p status) :=
  ((foldl_keeps _ (fun s _ => s.complete_keeps _ _) _ s).trans (foldl_keeps _ (fun s _ => s.complete_keeps _ _) _ _)).trans
    (State.modPart_keeps _ _ _)

theorem State.freeSem_keeps (s : State) (cl n : Nat) : s.Keeps (s.freeSem cl n) := by
  unfold State.freeSem
  extract_lets waits
  refine State.Keeps.trans ?_ (foldl_keeps _ (fun (s : State) (w : SemWait) => s.modGrp_keeps w.core w.group _) waits _)
  exact s.modCluster_keeps cl _

/-- Commands answered with the success status, one after another. -/
theorem State.completeEach_keeps (s : State) (ks : List Cmd) :
    s.Keeps (ks.foldl (fun (s : State) k => s.complete k { status := Status.success }) s) :=
  foldl_keeps _ (fun s k => s.complete_keeps k _) ks s

/-- The end of a task (R204, R522). -/
theorem State.endJob_keeps (s : State) (j : Nat) (a : Answer) : s.Keeps (s.endJob j a) := by
  unfold State.endJob
  split
  · exact .refl s
  · refine State.Keeps.trans (State.Keeps.trans ?_ (State.completeEach_keeps _ _)) (State.startWaiting_keeps _ _)
    refine State.Keeps.trans ?_ (State.completeLaunches_keeps _ j _ a)
    refine State.Keeps.trans ?_ (ite_keeps (fun _ => State.endSequences_keeps _ _ _) fun _ => .refl _)
    refine (((((s.stopUnits_keeps j).trans (ite_keeps (fun _ => foldl_keeps _ (fun s x => s.freeSem_keeps _ _) _ _) fun _ => .refl _)).trans (State.mapPorts_keeps _ _)).trans
      (State.pinSlots_keeps _ _ _)).trans (State.cleanClusters_keeps _ _)).trans (State.setJob_keeps _ _ _)

theorem State.tellEnd_keeps (s : State) (b : Job) (tick status : Nat) (cores : List Nat) : s.Keeps (s.tellEnd b tick status cores) := .of rfl rfl rfl rfl rfl rfl rfl

theorem State.setEnd_keeps (s : State) (j : Nat) (b : Job) (status : Nat) (unit epoch : Word32) (cmds : List Cmd) (cores : List Nat) :
    s.Keeps (s.setEnd j b status unit epoch cmds cores) := by
  unfold State.setEnd
  exact (s.setJob_keeps j _).trans (State.tellEnd_keeps _ _ _ _ _)

theorem State.stopJob_keeps (s : State) (j : Nat) (a : Answer) (cmds : List Cmd) : s.Keeps (s.stopJob j a cmds) := by
  unfold State.stopJob
  split
  · exact .refl s
  · split
    · exact s.setJob_keeps j _
    · exact ite_keeps (fun _ => s.setEnd_keeps j _ _ _ _ _ _) fun _ => ((s.tellEnd_keeps _ _ _ _).trans (State.endJob_keeps _ j a)).trans (State.completeEach_keeps _ _)

theorem State.endNumbered_keeps (s : State) (n : Word32) (a : Answer) : s.Keeps (s.endNumbered n a) := by
  unfold State.endNumbered
  split
  · exact s.stopJob_keeps _ _ _
  · exact .refl s

theorem State.recordRaised_keeps (s : State) (j : Nat) (b : Job) (l : List (Nat × Nat × Word32)) : s.Keeps (s.recordRaised j b l) := by
  unfold State.recordRaised
  split
  · exact .refl s
  · exact s.raise_keeps _

theorem State.endDue_keeps (s : State) (j : Nat) : s.Keeps (s.endDue j) := by
  unfold State.endDue
  split
  · exact .refl s
  · split
    · exact .refl s
    · extract_lets s1
      have h : s.Keeps s1 := (s.recordRaised_keeps j _ _).trans (State.setJob_keeps _ j _)
      exact h.trans (ite_keeps (fun _ => .refl _) fun _ => State.endJob_keeps _ j _)

theorem State.post_keeps (s : State) (cl n k : Nat) (j : Option Nat) : s.Keeps (s.post cl n k j) := by
  unfold State.post
  refine (s.setSem_keeps cl n _).trans (ite_keeps (fun _ => .refl _) fun _ => ?_)
  dsimp only
  split
  · exact (State.raise_keeps _ _).trans (State.stopJob_keeps _ _ _ _)
  · exact State.raise_keeps _ _

theorem State.suspect_keeps (s : State) (j : Nat) (e : Word32) (c cause : Nat) : s.Keeps (s.suspect j e c cause) := s.modJob_keeps _ _

theorem State.seePoison_keeps (s : State) (c g n : Nat) : s.Keeps (s.seePoison c g n) := by
  unfold State.seePoison
  have h := (s.modGrp_keeps c g fun x => { x with flags := x.flags ||| 0x10 }).trans (State.event_keeps _ c 0x0E n)
  dsimp only
  split
  · exact h
  · exact h.trans (State.suspect_keeps _ _ _ _ _)

theorem State.seeIf_keeps (s : State) (c g : Nat) (p : Bool) (n : Nat) : s.Keeps (s.seeIf c g p n) := by
  unfold State.seeIf
  exact ite_keeps (fun _ => s.seePoison_keeps c g n) fun _ => .refl s

/-- The exception of a group (R203, R204). -/
theorem State.except_keeps (s : State) (c g code : Nat) (lanes : Word32) (addr : Nat) : s.Keeps (s.except c g code lanes addr) := by
  unfold State.except
  dsimp only
  split
  · exact s.setGrp_keeps _ _ _
  · split
    · exact s.setGrp_keeps _ _ _
    · refine State.Keeps.trans ?_ (State.modJob_keeps _ _ _)
      split
      · exact (s.setGrp_keeps _ _ _).trans (State.tellEnd_keeps _ _ _ _ _)
      · exact (s.setGrp_keeps _ _ _).trans (State.setEnd_keeps _ _ _ _ _ _ _ _)

/-! ### Instructions and host commands -/

theorem State.countIssue_keeps (s : State) (c pipe : Nat) : s.Keeps (s.countIssue c pipe) := by
  unfold State.countIssue
  dsimp only
  split
  · exact (s.modCore_keeps _ _).trans (State.event_keeps _ _ _ _)
  · split
    · exact ((s.modCore_keeps _ _).trans (State.event_keeps _ _ _ _)).trans (State.used_keeps _ _)
    · exact s.modCore_keeps _ _

/-- An effect keeps when the state that it carries does. -/
def Eff.Keeps (s : State) : Eff → Prop
  | .next t => s.Keeps t
  | .jump t _ => s.Keeps t
  | .placed t => s.Keeps t
  | .parkAt t _ => s.Keeps t
  | _ => True

theorem State.settle_keeps (s : State) (c g pipe : Nat) (e : Eff) (h : e.Keeps s) : s.Keeps (s.settle c g pipe e) := by
  unfold State.settle
  cases e with
  | next t => exact (h.trans (State.modGrp_keeps _ _ _ _)).trans (State.countIssue_keeps _ _ _)
  | jump t pc => exact (h.trans (State.modGrp_keeps _ _ _ _)).trans (State.countIssue_keeps _ _ _)
  | placed t => exact State.Keeps.trans h (State.countIssue_keeps _ _ _)
  | exc code lanes addr => exact s.except_keeps _ _ _ _ _
  | park p =>
    dsimp only
    split
    · exact (s.modGrp_keeps _ _ _).trans (State.event_keeps _ _ _ _)
    · exact s.modGrp_keeps _ _ _
  | parkAt t p => exact h.trans (State.modGrp_keeps _ _ _ _)
  | wait => exact .refl s

/-- What an instruction leaves keeps, when its effect does. -/
theorem State.issue_keeps (s : State) (c g pipe : Nat) (legal : Bool) (vr vw : List Nat) (body : State → Eff) (h : (body s).Keeps s)
    {t : State} (ht : s.issue c g pipe legal vr vw body = .next t) : s.Keeps t := by
  unfold State.issue at ht
  dsimp only at ht
  split at ht
  · exact nomatch ht
  · split at ht
    · cases ht; exact .refl s
    · split at ht
      · cases ht; exact s.except_keeps _ _ _ _ _
      · split at ht
        · cases ht; exact s.except_keeps _ _ _ _ _
        · split at ht
          · cases ht; exact s.settle_keeps _ _ _ _ trivial
          · split at ht
            · cases ht; exact .refl s
            · cases ht; exact s.settle_keeps _ _ _ _ h

theorem State.completeCmd_keeps (s : State) (k : Cmd) (a : Answer) : s.Keeps (s.completeCmd k a) :=
  (ite_keeps (fun _ => s.countDone_keeps k _) fun _ => .refl s).trans (State.complete_keeps _ _ _)

theorem State.countSubmit_keeps (s : State) (k : Cmd) : s.Keeps (s.countSubmit k) := ite_keeps (fun _ => s.modQueue_keeps _ _) fun _ => .refl s

theorem State.debugAccess_keeps (s : State) (ps : List Nat) : s.Keeps (s.debugAccess ps) :=
  (foldl_keeps _ (fun s p => s.modPart_keeps p _) ps s).trans (.of rfl rfl rfl rfl rfl rfl rfl)

theorem State.countDebug_keeps (s : State) (k : Cmd) : s.Keeps (s.countDebug k) := ite_keeps (fun _ => s.debugAccess_keeps _) fun _ => .refl s

theorem State.started_keeps (s : State) (k : Cmd) : s.Keeps (s.started k) := by
  unfold State.started State.traceStart State.takeCmd
  refine State.Keeps.trans ?_ (State.countDebug_keeps _ k)
  refine State.Keeps.trans ?_ (State.trace_keeps _ _)
  exact State.Keeps.trans (ite_keeps (fun _ => .refl s) fun _ => s.countSubmit_keeps k) (State.modQueue_keeps _ _ _)

/-- A reply keeps when the state that it carries does. -/
def Reply.Keeps (s : State) : Reply → Prop
  | .done t _ => s.Keeps t
  | .later t => s.Keeps t

/-- What a host command leaves keeps, when its meaning does. -/
theorem State.runCmd_keeps (s : State) (k : Cmd) (row : OpRow) (unit params : Bool) (body : State → Reply)
    (h : (body (s.started k)).Keeps (s.started k)) {t : State} (ht : s.runCmd k row unit params body = .next t) : s.Keeps t := by
  have hs := s.started_keeps k
  unfold State.started at hs h
  unfold State.runCmd at ht
  dsimp only at ht
  split at ht
  · cases ht; exact .refl s
  · split at ht
    · cases ht; exact .refl s
    · split at ht
      · cases ht; exact hs.trans (State.completeCmd_keeps _ _ _)
      · split at ht
        · cases ht; exact hs.trans (State.completeCmd_keeps _ _ _)
        · split at ht
          · rename_i heq; rw [heq] at h; cases ht; exact (hs.trans h).trans (State.completeCmd_keeps _ _ _)
          · rename_i heq; rw [heq] at h; cases ht; exact hs.trans h

end Sys2Proof.Machine
end

