-- ==== Sys2Proof/WellFormed.lean ====
section
/-!
DEFINITION. Which commands can reach the module: operands that name units the module has (R18 to R22,
R168, R190, R362) and messages of the lengths that the spec gives them. A command packet and a token are
bits of a fixed length, so any of them is well formed.
-/

namespace Sys2Proof

/-- A translation cache's owner exists (R359). -/
def Engine.wf : Engine → Bool
  | .core c => decide (c < 384)
  | .dma cl => decide (cl < 48)
  | .emb cl => decide (cl < 48)
  | .place io => decide (io < 2)

/-- The group, queue or engine of an operation exists (R168, R190, R362). -/
def OpRef.wf : OpRef → Bool
  | .slot c g i => decide (c < 384) && decide (g < 16) && decide (i < 64)
  | .dma cl q _ => decide (cl < 48) && decide (q < 4)
  | .lookup cl _ => decide (cl < 48)

/-- The message of a codeword has `n` bytes: 1,240 in a tick frame, 150 in a control frame (R378, R379). -/
def Wire.wf (n : Nat) (w : Wire) : Bool := decide (w.message.length = n)

/-- A packet's payload is at most a path MTU of 4,096 bytes (R489). -/
def RocePacket.wf (p : RocePacket) : Bool := decide (p.payload.length ≤ 4096)

/-- A packet comes from one of the 1,024 queues (R456). -/
def Cmd.wf (k : Cmd) : Bool := decide (k.queue < 1024)

/-- The end of a job names a job slot; what others tell of it names devices of the fabric and their cores. -/
def JobEnd.wf (e : JobEnd) : Bool := decide (e.job < 128) && e.peers.all fun p => decide (p.dev < 1024) && p.cores.all fun c => decide (c < 384)

/-- Whether a command can reach the module. -/
def Instr.wf : Instr → Bool
  | .sAdd c g _ | .sSub c g _ | .sMul c g _ | .sAnd c g _ | .sOr c g _ | .sXor c g _ | .sShl c g _ | .sShr c g _ | .sSra c g _
  | .sMin c g _ | .sMax c g _ | .sCmp c g _ | .sLih c g _ | .sId c g _ | .sFlags c g _ | .sVget c g _ | .vAdd c g _
  | .vSub c g _ | .vMul c g _ | .vAnd c g _ | .vOr c g _ | .vXor c g _ | .vShl c g _ | .vShr c g _ | .vSra c g _ | .vMin c g _
  | .vMax c g _ | .vCmp c g _ | .vSel c g _ | .vBcast c g _ | .vPerm c g _ | .vIred c g _ | .fAdd c g _ | .fSub c g _
  | .fMul c g _ | .fFma c g _ | .fMin c g _ | .fMax c g _ | .fCmp c g _ | .fAbs c g _ | .fNeg c g _ | .fDiv c g _
  | .fSqrt c g _ | .fExp2 c g _ | .fLog2 c g _ | .fFred c g _ | .fArgmax c g _ | .cvCvt c g _ | .cvEnc c g _ | .cvDec c g _
  | .ldW c g _ | .stW c g _ | .ldCq8 c g _ | .gtW c g _ | .scW c g _ | .dkZero c g _ | .mxCfg c g _ | .mxRun c g _
  | .mxDrain c g _ | .mxSplit c g _ | .jmp c g _ | .brAny c g _ | .brAll c g _ | .brNone c g _ | .brZ c g _ | .brNz c g _
  | .call c g _ | .jmpR c g _ | .maskPush c g _ | .maskElse c g _ | .maskPop c g _ | .cheapMark c g _ | .endGroup c g _
  | .semWait c g _ | .semPost c g _ | .tickWait c g _ | .commit c g _ | .dmaEnq c g _ | .embSub c g _
  | .translationParkExpiry c g | .semPostEffect c g _ | .tickWaitReached c g => decide (c < 384) && decide (g < 16)
  | .gatherRelease c g slot _ | .scatterVisible c g slot | .dkZeroDone c g slot
    => decide (c < 384) && decide (g < 16) && decide (slot < 64)
  | .translationWalkDone e part _ => e.wf && decide (part < 16)
  | .arrayRunStart c t | .arrayRunEnd c t _ | .arrayDrainStart c t | .arrayDrainEnd c t => decide (c < 384) && decide (t < 3)
  | .mxSplitEffect c | .bulkStreamEnd c | .fieldTestSegment c | .fieldTestSegmentEnd c _ => decide (c < 384)
  | .dmaAccept cl q _ | .dmaComplete cl q _ _ _ => decide (cl < 48) && decide (q < 4)
  | .lookupAccept cl | .lookupSortEnd cl | .lookupComplete cl | .clusterIdle cl | .clusterWake cl | .sequencerMismatch cl
    => decide (cl < 48)
  | .lookupRowArrive cl _ table _ _ => decide (cl < 48) && decide (table < 4096)
  | .shardRequest dev table _ _ _ => decide (dev < 1024) && decide (table < 4096)
  | .wcetTick op => op.wf
  | .commitPoint j | .slipPoint j | .slipEnd j | .replaySlipEnd j | .maintenanceWindow j _ _ | .ceilingReleaseApply j _
  | .jobStart j | .quantumExpiry j | .saveEnd j | .restoreEnd j | .sliceOverrun j | .slipSetSend j
    => decide (j < 128)
  | .jobComplete e => e.wf
  | .batcherDeadline part | .scrubEnd part => decide (part < 16)
  | .sensorSample _ | .inputPowerWindow _ | .clockLoss _ | .errorRecordHoldExpiry _ | .hifErrRingWrite _ | .hifErrPtrsRead
  | .bar2Read _ _ | .bar2Write _ _ | .mctpMessage _ | .coldPowerOn _ | .perst _ | .inputUndervoltage _ | .bootReady
  | .perstDeassertion | .configurationRequest _ | .dynamicAddressAssignment _ => true
  | .squallRepeat sensor => decide (sensor < 17)
  | .tickFrameSend port | .controlFrameLost port _ | .keyRenewal port | .portBringupDone port _ | .squall port _
  | .failed port _ | .revoke port _ | .mcRequest port _ _ | .mcPrepare port _ _ | .mcAck port _ | .mcCommit port _
  | .mcAbort port _ | .mcOutcome port _ | .ceilArrive port _ | .ceilRelease port _ | .semPostToken port _ _ | .slipSet port _
  | .credit port _ | .frameLost port _ | .frameAccount port _ _ | .streamOpen port _ _ _ | .streamDrop port _ | .refuse port _
  | .keyFragment port _ | .echo port _ => decide (port < 16)
  | .tickFrameReceive port message _ control => decide (port < 16) && decide (message.length = 1240) && control.all (Wire.wf 150)
  | .mcastTimeout port src _ => decide (port < 16) && decide (src < 1024)
  | .modeChangeTimeout coord _ | .modeChangeApply coord _ => decide (coord < 1024)
  | .scrubAccess stack _ | .retrainWithoutWindow stack _ => decide (stack < 12)
  | .traceRecordWrite die part => decide (die < 6) && decide (part < 16)
  | .sqTail b _ | .cqHead b _ => decide (b.queue < 1024 ∧ b.fn < 17)
  | .slotFetch q _ | .slotRefetch q _ | .completionPost q => decide (q < 1024)
  | .hifAqCtrlEnable f _ | .hifAqCtrlDisable f _ | .fabTimestampRead f _ | .registerWrite f _ _ => decide (f < 17)
  | .fabPortConfigWrite p _ => decide (p < 16)
  | .nop k | .resync k | .queueControlCreate k | .queueControlDestroy k | .queueControlStop k | .queueControlResume k
  | .softReset k | .partitionConfig k | .partitionReset k | .groupQuery k | .map k | .unmap k
  | .invalidateRange k | .windowSet k | .windowClear k | .memCopy k | .zeroLines k | .deckConfig k | .deckQuery k
  | .tableCreate k | .tableDestroy k | .tableQuery k | .tableVersionOpen k | .tableWriteRows k | .tableVersionSeal k
  | .tableFlip k | .tableRetire k | .tablePatch k | .tablePatchCommit k | .tableFold k | .tableDefaultSet k | .overlayConfig k
  | .jobLaunch k | .jobLaunchBatch k | .lookupSubmit k | .jobAbort k | .imageLoad k _ | .imageUnload k | .sliceConfig k
  | .jobCounters k | .genConfig k | .seqJoin k | .seqLeave k | .seqQuery k | .batcherConfig k | .fabricJoin k | .fabricLeave k
  | .fabricQuery k | .jobRemap k | .attestReport k | .certRead k | .sessionOpen k | .sessionClose k | .jobkeySet k
  | .jobkeyClear k | .packageLoad k | .traceConfigConfigure k | .traceConfigStart k | .traceConfigStop k | .traceConfigStatus k
  | .traceConfigRearm k | .traceTrigger k | .counterConfig k | .counterSample k | .fieldTestRead k | .fieldTestRun k
  | .fieldTestReturn k | .debugAccess k | .powerState k | .powerStateEnterQuiet k | .powerStateLeaveQuiet k | .settingsStage k
  | .ethPortStage k | .ethRegionStage k | .ethRegionClear k | .settingsRead k | .storeSettings k | .firmwareUpdate k => k.wf
  | .groupSet g | .groupClear g => g.cmd.wf
  | .invalidateAck e _ | .translationTimeout e _ => e.wf
  | .tableRetireDone table slot => decide (table < 4096) && decide (slot < 4)
  | .tableFoldEnd table | .overlayEntryRemove table _ _ => decide (table < 4096)
  | .rdmaWriteReceive link qp p => decide (link < 4) && decide (qp < 256) && p.wf
  | .connectionRequest link _ => decide (link < 4)
  | .pfcPause link prio _ => decide (link < 4) && decide (prio < 8)
  | .functionLevelReset v => decide (v < 17)
  | .dbgCoreRegisterRead f _ c g => decide (f < 17) && decide (c < 384) && decide (g < 16)

end Sys2Proof
end

