-- ==== Sys2Proof/Tests/Slice0.lean ====
section
/-!
SUPPORT. Tests: the checks of WellFormed, what some commands answer on small states, and for the statements of Obligations a
concrete state and operands that meet each clause's hypotheses.
-/

open Sys2Proof Sys2Proof.Machine

set_option Elab.async false
set_option maxRecDepth 20000

namespace Sys2Proof.Tests

/-! ### States and commands -/

/-- A host command of queue 20 with six parameter words: opcode, GEN, JOB, parameters. -/
def cmd (op gen : Nat) (ps : List Word64) (job : Nat := 15) : Cmd :=
  { queue := 20, hdr := BitVec.ofNat 128 (op * 2 ^ 112 + gen * 2 ^ 110 + 6 * 2 ^ 107 + (if gen = 1 then 0 else job * 2 ^ 99)),
    p0 := ps.getD 0 0, p1 := ps.getD 1 0, p2 := ps.getD 2 0, p3 := ps.getD 3 0, p4 := ps.getD 4 0, p5 := ps.getD 5 0 }

/-- Queue 20 of the physical function, bound to partition 0. -/
def queue0 : HQueue := { HQueue.reset with st := .running, sq := 0x100004, cq := 0x200004 }

/-- Partition 0: clusters 0 and 1, every port, 4 GiB of HBM from address 0. -/
def part0 : Part := { Part.reset with recWords := [0x3, 0x0000FFFF00000000, 0x80000010, 0, 0, 0, 0, 0, 0, 0] }

/-- Pages of 64 KiB of partition 0: HBM at 0x10000, protected HBM at 0x20000, host memory at 0x100000. -/
def page (va : Nat) (e : Word64) : Leaf := { part := 0, va := va, big := false, entry := e }
def pages : List Leaf := [page 0 0xC400000000010000, page 0x10000 0xE400000000020000, page 0x20000 0xD400000000100000]

/-- A module at tick 100 with partition 0, its pages and queue 20. -/
def base : State :=
  { State.reset with tick := 100, ready := true, linkUp := true, parts := [(0, part0)], leaves := pages, queues := [(20, queue0)] }

/-- Words placed in host memory. -/
def withHost (s : State) (a : Nat) (w : List Word64) : State := { s with host := putBytes s.host a (wordBytes w) }

/-- An image of one stream on group 0 of core 0 of device 0, and one of two devices. -/
def stream0 : StreamImg :=
  { device := 0, core := 0, half := none, groups := [0], base := 0, entry := 0, fixed := false, ring := [], code := List.replicate 8 0,
    startTick := 0 }
def image0 : Image :=
  { digest := 5, signer := 0, generation := 3, slipInterval := 1000, horizon := 1, reproducible := true, devices := [0],
    streams := [stream0], steps := [{ tick := 500, boundary := false }], slipPoints := [600], cheaps := [], windows := [], hbmStacks := [],
    wcets := [700], slots := [], mcasts := [], templates := [{ capacity := [] }], spans := [], sems := [(0, 0), (0, 1), (0, 2)],
    dmaQueues := [(0, 0)], replay := [(0, 8)], snapStore := [], replayBufs := [], gen := none }

/-- A running job of partition 0 with image 1. -/
def job0 : Job :=
  { newJob 0x10001 0 1 0 700 0 [] false CntTags.none with phase := .running, stick := 10 }

/-- The module with image 1 loaded and its job running in slot 0; group 0 of core 0 is ready at index 0. -/
def busy : State :=
  { base with images := [(1, some { part := 0, img := image0 })], jobs := [(0, some job0)],
              cores := [(0, { Core.reset with groups := [(0, { Grp.reset with job := some 0, run := .running })] })] }

/-- `base` with queue 21 too, as given. -/
def with21 (q : HQueue) : State := { base with queues := [(20, queue0), (21, q)] }
/-- `base` with the record of partition 0 at host address 0x1000. -/
def withRecord (s : State) (w : List Word64) : State := withHost s 0x1000 w
/-- A group of cores 0 and 1 of this device, defined here, and `base` with it as group 7. -/
def group7 : GroupEntry := { GroupEntry.reset with st := .defined, members := [0x0, 0x800], cores := [(0, 0), (0, 1)], depth := 1 }
def grouped : State := { base with groups := [(7, group7)] }
/-- A fabric of devices 0 and 1. -/
def pair : State :=
  { base with assigned := true, fabricOn := true, fabric := { Fabric.reset with devices := [{ id := 0, number := 0 }, { id := 1, number := 1 }] } }


/-- A word by its fields: DST, SRC1, GUARD, MOD, COND and bits [31:0]. -/
def word (dst src1 guard md cond low : Nat) : IWord :=
  BitVec.ofNat 56 (dst * 2 ^ 50 + src1 * 2 ^ 44 + guard * 2 ^ 41 + md * 2 ^ 36 + cond * 2 ^ 32 + low)
/-- SRC2 and SRC3 in their places. -/
def rr (src2 src3 : Nat) : Nat := src2 * 2 ^ 26 + src3 * 2 ^ 20

/-- `busy` with group 0 as given, running. -/
def running (x : Grp) : State :=
  { busy with cores := [(0, { Core.reset with groups := [(0, { x with job := some 0, run := .running })] })] }
/-- A group with s1 = 5, s2 poisoned, lane 0 of v1 poisoned and its lane 1 a NaN as FP32, p1 = lanes 0 and 31. -/
def regs1 : Grp :=
  { Grp.reset with sregs := [(1, sclean 5), (2, { val := 1, poison := true })],
                   vregs := [(32, { val := 7, poison := true }), (33, { val := 0x7FC00000, poison := false })], pregs := [(1, 0x80000001)] }

/-- A group with s1 = `v` and one active lane, 31. -/
def oneLane (v : Word64) : Grp := { Grp.reset with sregs := [(1, sclean v)], mask := 0x80000000 }
/-- `running x` with translation caches that hold the HBM page at 0. -/
def cached (x : Grp) : State := { running x with tlbs := [(0, [{ leaf := page 0 0xC400000000010000 }])] }
/-- `running x` with the array of core 0 as given. -/
def withArr (x : Grp) (a : Arr) : State :=
  { busy with cores := [(0, { Core.reset with arr := a, groups := [(0, { x with job := some 0, run := .running })] })] }
/-- A slot of group 0 on two lanes at the given targets, and `running` with it as slot 5. -/
def slotOf (kind : SlotKind) (arrived : Bool) (t0 t1 : Target) : Slot :=
  { id := 9, kind := kind, reg := 63, width := 4, fixed := false, due := 90, epoch := 0, arrived := arrived,
    lanes := [{ lane := 0, va := 0, target := t0, data := 1, poison := false, prot := false, got := false },
              { lane := 31, va := 4, target := t1, data := 2, poison := true, prot := false, got := false }] }
def withSlot (k : Slot) : State := running { Grp.reset with slots := [(5, k)] }
/-- A queued run and drain of the whole array. -/
def runOp : RunOp :=
  { id := 1, group := 0, job := 0, cfg := Arr.cfgReset, bank := 1, add := false, aBase := 0, aScale := 0, bBase := 0x7FFE0, bScale := 0,
    epoch := 0, mark := 0 }
def drainOp : DrainOp := { id := 2, group := 0, job := 0, bank := 1, base := 0x7E000, stride := 128, epoch := 0 }

/-- An optional value of which something holds. -/
theorem exists_some {α : Type} (o : Option α) (P : α → Prop) [DecidablePred P] :
    (∃ x, o = some x ∧ P x) ↔ (o.any fun x => decide (P x)) = true := by
  cases o <;> simp

/-- `busy` with its job, its image, or the state of cluster 0 as given. -/
def withJob (b : Job) : State := { busy with jobs := [(0, some b)] }
def withImage (i : Image) (b : Job) : State := { withJob b with images := [(1, some { part := 0, img := i })] }
def withCluster (k : Cluster) : State := { busy with clusters := [(0, k)] }
/-- A descriptor from core store of core 0 to the HBM page at 0: 32 bytes, semaphore 255, WCET 1. -/
def descWords : List Word64 := [0x1000000000000000, 0, 0x00000020FF000001, 0, 0, 0, 0, 0]
def desc0 : Desc :=
  { id := 3, words := descWords, job := 0, core := 0, group := 0, accepted := false, due := 0, held := false, tokenPosted := false,
    moved := false, begun := false, leaves := [], order := 0, data := [], stream := none }
def withDesc (d : Desc) : State := withCluster { Cluster.reset with dma := [(3, [d])] }
/-- `s` with the eight words in core store of core 0 at offset 64. -/
def withBlock (s : State) (w : List Word64) : State := { s with store := { s.store with cells := putBytes [] 64 (wordBytes w) } }
/-- A table of 16 rows of 8 FP32 elements, sharded by rows between devices 0 and 1, active in slot 0 as version 1. -/
def table0 : Table :=
  { w0 := 0x0003800000000010, w1 := 0x8000800000000000, w2 := 0, shards := [0, 1], ce := 0, active := 1, flipTick := 0,
    slots := [(0, { VSlot.reset with st := .active, version := 1 })], lastVersion := 1, patchBase := 0, patchRows := 0,
    dflt := [] }
/-- A lookup of group 0 in a phase, and cluster 0 with it. -/
def lookup0 (ph : LookupPhase) : Lookup :=
  { source := .prog 0 0 0 0, part := 0, words := [0, 0x0000000100000001, 0, 0, 0, 0, 0, 0], epoch := 0, id := 4, pins := [], leaves := [],
    page := none, startTick := 0,
    due := 0xFF, time := 0, sortEnd := 1100, phase := ph, entries := [], todo := [], rows := [], acc := [], counts := [], poisoned := [],
    distinct := 0, defaulted := 0, outOfRange := 0, hits := 0, remote := 0, overflow := 0, code := 0, listPoisoned := false,
    tokenPosted := false, late := false }
def withLookup (l : Lookup) : State := withCluster { Cluster.reset with lookups := [l] }
/-- A second core of image 0's job: another group ended. -/
def idleGroups : State :=
  { busy with cores := [(0, { Core.reset with groups := [(0, { Grp.reset with job := some 0, run := .ended })] })] }
/-- A cheap point at tick 1000 with nothing live. -/
def cheap0 : CheapImg := { index := 7, tick := 60000, regs := [], banks := [], store := [], bytes := 0 }
/-- `withImage` with a save area for partition 0. -/
def sliced (i : Image) (b : Job) : State :=
  { withImage i b with parts := [(0, { part0 with slice := [0x0000C35000989680, 0x20000, 0x00000001000007D0] })] }
/-- A release that has come, of epoch 0. -/
def released (suspect fail : Bool) : Job :=
  { job0 with epoch := 1, ceils := [(0, { Ceil.reset with release := some (100, suspect, fail) })] }

/-- Device 0 of a fabric of two with port 0 linked to port 1 of device 1, its parent in the tree. -/
def link0 : FabLink :=
  { devA := 0, portA := 0, devB := 1, portB := 1, rate := 0, revMax := 3, dDataAB := 3, dCtrlAB := 3, dDataBA := 40, dCtrlBA := 40 }
def up : Port := { Port.reset with st := .up, dData := 3, dCtrl := 3, peerDev := 1, peerPort := 1 }
def linked (k : Port) : State :=
  { pair with ports := [(0, k)], fabric := { pair.fabric with topology := 1, links := [link0] },
              ceil := { root := 1, parent := 0, children := 0, depth := 1, diam := 3 } }
/-- The same as the root, with the port as its child's; and with a running job of an image. -/
def rooted (k : Port) : State := { linked k with ceil := { root := 0, parent := 0x1F, children := 1, depth := 0, diam := 3 } }
def both : Image := { image0 with devices := [0, 1] }
def onImage (s : State) (i : Image) (b : Job) : State := { s with images := [(1, some { part := 0, img := i })], jobs := [(0, some b)] }
/-- A token of a mode change of a coordinator and its number, and one of job 0x10001. -/
def mcTok (coord change low : Nat) : Word64 := BitVec.ofNat 64 (coord * 2 ^ 46 + change * 2 ^ 30 + low)
def jobTok (low : Nat) : Word64 := BitVec.ofNat 64 (0x10001 * 2 ^ 24 + low)
/-- A change of device 1 with number 7, prepared here, or committed for tick 100. -/
def prep0 (c : McContent) (commit : Option Nat) : McPrep :=
  { coord := 1, change := 7, kind := 1, content := some c, acks := [], own := true, refuse := none, commit := commit, sentAck := false,
    reserved := false }
def install7 : McContent := .groupInstall 7 1 [(0, 0), (1, 383)] 1 false []
/-- A change of device 1 at the head of the root's queue. -/
def root0 (start : Option Nat) : McRoot := { coord := 1, change := 7, kind := 1, content := none, start := start }
/-- A frame without sectors. -/
def frame0 : Frame :=
  { timestamp := 0, route := 0, sJob := 0, sEpoch := 0, sLayer := 0, sOperator := 0, nodeLo := 0, nodeLen := 0, eJob := 0, eEpoch := 0,
    eLayer := 0, eOperator := 0, stream := 0, ePos := 0, poison := 0, protect := 0, payload := [] }
/-- A sector of port 0 that the slot table of `both` expects at schedule tick 10. -/
def slot0 : SlotImg :=
  { port := 0, receive := true, tick := 10, places := [.store 0 0x7FFE0], tokens := [], collective := false, nodeLo := 0, nodeLen := 0,
    source := 1 }
/-- What a port meets in bring-up when everything is as described. -/
def good : BringUp :=
  { laneTrained := true, peer64Only := false, peerRev3 := true, peerDevice := 1, peerPort := 1, roundTrip := 700, psiData := 0,
    psiCtrl := 0 }
def tx0 : TxStream :=
  { src := some 0, stream := 0xFFFF, dst := 1, mcast := true, job := 0x10001, epoch := 0, layer := 0, operator := 0, prov := false,
    length := 32, next := 0, sectors := [(0, 0, 0)], pool := none, via := none }
def rx0 : RxStream :=
  { src := none, stream := 0xFFFF, port := 0, window := 255, base := 0, length := 32, job := 0x10001, rel := false, seen := 0,
    admitted := none, refused := false, last := false }
/-- A group that waits for a page in the cache of core 383. -/
def missing (va : Nat) (fixed : Bool) (stick : Nat) : State :=
  { withJob { job0 with stick := stick } with
    cores := [(383, { Core.reset with fixed := fixed, groups := [(15, { Grp.reset with job := some 0, run := .parked (.miss 0 va 5) })] })] }
/-- An invalidation that waits for some engines. -/
def inval0 (es : List Engine) : Inval :=
  { part := 0, va := 0, length := 0x10000, waiting := es, noticed := true, aborted := 2, start := 0, cmd := some (cmd 0x21 2 []) }
/-- A launch of image 1 that the batcher of partition 0 holds. -/
def request : BatchReq := { cmd := cmd 0x10 1 [0x0001000000010003, 0x100000000], accepted := 0 }
/-- Core 383 in a field-test segment. -/
def testCore : Core := { Core.reset with suspect := true, test := some { until_ := 100, active := true, cmds := [] } }
def inTest : State := { base with cores := [(383, testCore)] }
/-- Stack 11 as given. -/
def withStack (k : Stack) : State := { base with hbmStacks := [(11, k)] }
def errRec0 : ErrRec :=
  { timestamp := 0, unit := 0, cls := 1, code := 0, opcode := 0xFFFF, layer := 0xFFFF, operator := 0xFFFF, job := 0, epoch := 0, temp := 0,
    volt := 0, part := 0, syndrome := 0, repeat_ := 0, number := 0, address := 0 }
/-- Partition 0 with a staged trace record. -/
def traced : Part :=
  { part0 with trace := { Trace.reset with p1 := 1, configured := true, running := true, staged := [(5, [1])] } }
/-- A slot of sequence number 0 with a valid CRC. -/
def packet (op : Nat) : BitVec 512 :=
  let b : BitVec 512 := BitVec.ofNat 512 (op * 2 ^ 112 + 2 ^ 110 + 6 * 2 ^ 107 + 15 * 2 ^ 99)
  b + BitVec.ofNat 512 (crc32c ((leBytes 64 b.toNat).drop 4)).toNat

/-- A table with version 2 in slot 3 in a state, and `s` with it as table 5. -/
def tableIn (st : SlotState) : Table := { table0 with slots := table0.slots ++ [(3, { VSlot.reset with st := st, version := 2 })] }
def withTable (s : State) (t : Table) : State := { s with tables := [(5, some t)] }
def pin5 : Pin := { table := 5, version := 1, ce := 0, slot := 0 }
/-- The created table of TABLE_CREATE's witness and its descriptor. -/
def made : List Word64 := [0x8007800000000001, 0, 0, 0x10000, 0, 1, 0, 0]
def made0 : Table :=
  { w0 := 0x8007800000000001, w1 := 0, w2 := 0, shards := [], ce := 0, active := 0, flipTick := 0,
    slots := [(0, { VSlot.reset with st := .active, base := 0x10000 })], lastVersion := 0, patchBase := 0, patchRows := 1,
    dflt := List.replicate 64 0 }
def fold0 : Fold := { table := 5, slot := 3, epoch := 0, pin := pin5, cmd := cmd 0x20A 3 [5] }
def retire0 : Retire := { table := 5, slot := 3, cmd := cmd 0x207 2 [0x20005] }
def overlay0 : Overlay := { table := 5, index := 15, tag := some 0, place := 0 }

theorem forall_some {α : Type} (o : Option α) (P : α → Prop) [DecidablePred P] :
    (∀ x, o = some x → P x) ↔ (o.all fun x => decide (P x)) = true := by
  cases o <;> simp
/-- Whether a unit is neither a core, nor a device, nor reserved. -/
theorem not_core (u : UnitName) : (∀ d c, u ≠ .core d c) ↔ (match u with | .core _ _ => false | _ => true) = true := by
  cases u <;> simp
theorem not_device (u : UnitName) : (∀ d, u ≠ .device d) ↔ (match u with | .device _ => false | _ => true) = true := by
  cases u <;> simp

/-- `base` with an image loaded as image 1 and no job. -/
def loaded (i : Image) : State := { base with images := [(1, some { part := 0, img := i })] }
/-- Partition 0 with its batcher on: FILL 2. -/
def batching (q : List BatchReq) : State := { loaded image0 with parts := [(0, { part0 with batcher := 0x0000000040640001, batchQ := q })] }
/-- Partition 0 with a sequence that waits and one that runs. -/
def seqJoin0 : Join :=
  { cmd := cmd 0x308 3 [0, 0, 1, 0x100000005], at_ := 0, handle := 5, beams := 1, promptLen := 1, maxNew := 1, seed := 0 }
def seq0 : SeqSlot :=
  { seed := 0, handle := 6, tokens := 0, prefillLeft := 0, held := 0, heldAll := 0, fork := false, moves := [], beams := 1, st := 1,
    maxNew := 1, promptLen := 1, cmd := cmd 0x308 3 [] }
def sequences : State := { base with parts := [(0, { part0 with joins := [seqJoin0], seqs := [(9, seq0)] })] }
/-- A fabric description of devices 0 and 1 with one link, as bytes, its fabric, and a digest that it claims. -/
def description : List Byte :=
  leBytes 64 (1 + 2 * 2 ^ 16 + 1 * 2 ^ 32 + 1 * 2 ^ 64) ++ leBytes 64 0 ++ leBytes 72 3 ++ leBytes 72 (4 + 2 ^ 512) ++
    leBytes 16 (0 + 0 * 2 ^ 16 + 1 * 2 ^ 24 + 1 * 2 ^ 40 + 3 * 2 ^ 56 + 3 * 2 ^ 64 + 3 * 2 ^ 72 + 3 * 2 ^ 80 + 3 * 2 ^ 88)
def described : State := { base with host := putBytes [] 0x1000 description }
/-- Partition 0 with a session, a nonce and a job key in slot 63. -/
def use0 : KeyUse := { key := [], salt := [], next := 0, seen := [] }
def session0 : Session := { inbound := use0, outbound := use0, digest := 0, fn := 0 }
def inSession : State := { base with parts := [(0, { part0 with session := some session0 })] }
def noncePart : State := { base with parts := [(0, { part0 with nonce := some 0 })] }
def key0 : JobKey :=
  { part := 0, fn := 0, inVa := 0x10000, inLen := 4096, outVa := 0x11000, outLen := 4096, inbound := use0, outbound := use0, digest := 0,
    clearing := [] }
def keyed : State := { base with jobKeys := [(63, some key0)] }
/-- A transfer of partition 0 from its protected page. -/
def moving (s : State) : State :=
  { s with clusters := [(0, { Cluster.reset with dma := [(0, [{ desc0 with accepted := true, words := listSet (listSet descWords 0 0x10000) 1 0x1000000000000000 }])] })] }

/-- `base` with the trace of partition 0 as given. -/
def tracing (t : Trace) : State := { base with parts := [(0, { part0 with trace := t })] }
/-- A region of partition 0 in its HBM pages, in effect as region 5, and what its words say. -/
def region0 : Region := { w0 := 0x8000000000000000, w1 := 0x100000, w2 := 0, w3 := 0, clearing := [] }
def withRegion (s : State) : State :=
  { s with regions := [(5, some region0)], ethWords := [(21, 0x100000)], ethPort := [(0, 3), (1, 3)], qps := [(256 * 4 + 255, some
      { peer := 1, expectPsn := 0xFFFFFF, rkey := 0, offset := 0, length := 0, taken := 0, buffer := [] })] }
def packet0 : RocePacket :=
  { psn := 0xFFFFFF, marked := false, other := false, first := true, last := true, rkey := 5, offset := 0xFFE0, length := 32,
    payload := List.replicate 32 1 }
def pair0 : QPair := { peer := 1, expectPsn := 0xFFFFFF, rkey := 0, offset := 0, length := 0, taken := 0, buffer := [] }

/-- The message of a codeword without errors, a maintenance that finds nothing, and a packet that no queue holds. -/
def wire (n : Nat) : Wire := { message := List.replicate n 0, errors := [] }
def calm : Maintenance := { drift := false, trained := true, spares := 0, far := [] }
def badCmd : Cmd := { (cmd 0 1 []) with queue := 1024 }

/-- An end of a job that is set for the tick at which it stands. -/
def ending0 : Ending := { tick := 10, status := 1, unit := 0, epoch := 0, raised := [], cmds := [], far := [] }

/-- A key set, a port with it both ways, and a message with `k` wrong symbols. -/
def keys0 : KeySet := { dataKey := [], ctrlKey := [], dataSalt := [], ctrlSalt := [] }
def keyedUp : Port := { up with tx := some keys0, rxKeys0 := some keys0 }
def wrongAt (n k : Nat) : Wire := { wire n with errors := (List.range k).map fun i => (i, 1) }
/-- A port whose calibration has its echo, held 33 cycles by the peer. -/
def calibrated : Port := { up with st := .calibrating, rev := 3, echoes := [token 0x1F (2 ^ 55 + 33 * 2 ^ 41)] }
/-- The port that `good` brings up from there. -/
def came : Port := { calibrated with st := .up, credits := 4096, padData := 25, padCtrl := 30, dData := 40, dCtrl := 40 }

def mcast0 : McastImg := { group := 3, ports := [0], here := true }

/-- A group whose home is device 1, as device 1 answers for it. -/
def far9 : FarGroup := { home := 1, members := [], cores := [(1, 0)], pfOnly := false, depth := 1 }

/-- What holds of every job of the list holds of every job found. -/
theorem all_jobs (s : State) (P : Job → Prop) [DecidablePred P] (h : (s.jobs.all fun x => x.2.all fun b => decide (P b)) = true) (j : Nat)
    (b : Job) (e : s.job j = some b) : P b := by
  rw [List.all_eq_true] at h
  unfold State.job at e
  generalize s.jobs = l at h e
  induction l with
  | nil => cases e
  | cons x l ih =>
    obtain ⟨i, v⟩ := x
    by_cases hi : i = j
    · simp only [NMap.get, hi, if_true] at e
      have := h (i, v) (List.mem_cons_self ..)
      simpa [e] using this
    · simp only [NMap.get, hi, if_false] at e
      exact ih (fun y hy => h y (List.mem_cons_of_mem _ hy)) e

/-- A package of one set entry and 32 bytes in host memory at 0x2000, what PACKAGE_LOAD reads of it, and the command; and one of
a format that the module does not know. -/
def viewOf (s : State) : PackageView := { sets := 1, length := 32, body := s.hostRead 0x2000 7856, signature := s.hostRead (0x2000 + 7856) 1280 }
def packState : State := withHost base 0x2000 [0x0000000000010001, 32]
def pack : PackageView := viewOf packState
def pack0 : PackageView := viewOf (withHost base 0x2000 [0x0000000000010000, 32])
def packCmd : Cmd := cmd 0x506 3 [0x2000, 0x10000]

theorem pack_entry (h : packState.deviceId = 0) : pack.entry packState.deviceId = some 2080 := by
  unfold PackageView.entry
  rw [h]
  decide +kernel

/-! ### Ill-formed commands -/

/-- The issue events of group `g` of core `c`, in two lists. -/
def issued0 (c g : Nat) : List Instr :=
  [.sAdd c g 0, .sSub c g 0, .sMul c g 0, .sAnd c g 0, .sOr c g 0, .sXor c g 0, .sShl c g 0, .sShr c g 0, .sSra c g 0,
   .sMin c g 0, .sMax c g 0, .sCmp c g 0, .sLih c g 0, .sId c g 0, .sFlags c g 0, .sVget c g 0, .vAdd c g 0, .vSub c g 0,
   .vMul c g 0, .vAnd c g 0, .vOr c g 0, .vXor c g 0, .vShl c g 0, .vShr c g 0, .vSra c g 0, .vMin c g 0, .vMax c g 0,
   .vCmp c g 0, .vSel c g 0, .vBcast c g 0, .vPerm c g 0, .vIred c g 0, .fAdd c g 0, .fSub c g 0, .fMul c g 0, .fFma c g 0,
   .fMin c g 0, .fMax c g 0, .fCmp c g 0, .fAbs c g 0]
/-- The second list. -/
def issued1 (c g : Nat) : List Instr :=
  [.fNeg c g 0, .fDiv c g 0, .fSqrt c g 0, .fExp2 c g 0, .fLog2 c g 0, .fFred c g 0, .fArgmax c g 0, .cvCvt c g 0, .cvEnc c g 0,
   .cvDec c g 0, .ldW c g 0, .stW c g 0, .ldCq8 c g 0, .gtW c g 0, .scW c g 0, .dkZero c g 0, .mxCfg c g 0, .mxRun c g 0,
   .mxDrain c g 0, .mxSplit c g 0, .jmp c g 0, .brAny c g 0, .brAll c g 0, .brNone c g 0, .brZ c g 0, .brNz c g 0, .call c g 0,
   .jmpR c g 0, .maskPush c g 0, .maskElse c g 0, .maskPop c g 0, .cheapMark c g 0, .endGroup c g 0, .semWait c g 0,
   .semPost c g 0, .tickWait c g 0, .commit c g 0, .dmaEnq c g 0, .embSub c g 0]

/-- R18, R168: there is no core 384 and no group 16. -/
theorem illformed_issued :
    (issued0 384 0 ++ issued0 0 16 ++ issued1 384 0 ++ issued1 0 16).all (fun i => !i.wf) = true := by decide

theorem wellformed_issued : (issued0 383 15 ++ issued1 383 15).all Instr.wf = true := by decide

/-! Events and writes that name a unit the module has not, or carry a message of another length: one for each check. -/

theorem illformed_0 :
    ([.gatherRelease 384 0 0 ⟨[], 0⟩, .gatherRelease 0 16 0 ⟨[], 0⟩, .gatherRelease 0 0 64 ⟨[], 0⟩, .scatterVisible 384 0 0,
      .scatterVisible 0 16 0, .scatterVisible 0 0 64, .dkZeroDone 384 0 0, .dkZeroDone 0 16 0, .dkZeroDone 0 0 64,
      .translationWalkDone (.place 2) 0 0, .translationWalkDone (.core 0) 16 0, .translationParkExpiry 384 0,
      .translationParkExpiry 0 16, .semPostEffect 384 0 0, .semPostEffect 0 16 0, .arrayRunStart 384 0, .arrayRunStart 0 3,
      .arrayRunEnd 384 0 { mismatches := [], half0 := false, half1 := false },
      .arrayRunEnd 0 3 { mismatches := [], half0 := false, half1 := false }, .arrayDrainStart 384 0, .arrayDrainStart 0 3,
      .arrayDrainEnd 384 0, .arrayDrainEnd 0 3, .mxSplitEffect 384, .bulkStreamEnd 384, .dmaAccept 48 0 0, .dmaAccept 0 4 0,
      .dmaComplete 48 0 0 [] false, .dmaComplete 0 4 0 [] false, .lookupAccept 48, .lookupSortEnd 48,
      .lookupRowArrive 48 0 0 0 none, .lookupRowArrive 0 0 4096 0 none, .shardRequest 1024 0 0 ⟨0, 0⟩ false, .shardRequest 0 4096 0 ⟨0, 0⟩ false,
      .lookupComplete 48, .wcetTick (.lookup 48 0), .commitPoint 128, .slipPoint 128, .slipEnd 128] : List Instr).all (fun i => !i.wf) = true := by decide +kernel

theorem illformed_1 :
    ([.replaySlipEnd 128, .maintenanceWindow 128 0 calm, .ceilingReleaseApply 128 0,
      .jobStart 128, .jobComplete ⟨128, []⟩, .quantumExpiry 128, .saveEnd 128, .restoreEnd 128, .sliceOverrun 128, .batcherDeadline 16,
      .clusterIdle 48, .clusterWake 48, .squallRepeat 17, .slipSetSend 128, .sequencerMismatch 48, .tickFrameSend 16,
      .tickFrameReceive 16 (wire 1240).message [] none, .tickFrameReceive 0 (wire 1239).message [] none,
      .tickFrameReceive 0 (wire 1240).message [] (some (wire 151)), .controlFrameLost 16 0,
      .keyRenewal 16, .portBringupDone 16 good, .mcastTimeout 16 0 0, .mcastTimeout 0 1024 0, .squall 16 0, .failed 16 0,
      .revoke 16 0, .mcRequest 16 0 none, .mcPrepare 16 0 none, .mcAck 16 0, .mcCommit 16 0, .mcAbort 16 0, .mcOutcome 16 0,
      .modeChangeTimeout 1024 0, .modeChangeApply 1024 0, .ceilArrive 16 0, .ceilRelease 16 0, .semPostToken 16 0 0,
      .slipSet 16 0, .credit 16 0, .frameLost 16 0] : List Instr).all (fun i => !i.wf) = true := by decide +kernel

theorem illformed_2 :
    ([.frameAccount 16 0 0, .streamOpen 16 0 0 0, .streamDrop 16 0, .refuse 16 0, .keyFragment 16 0, .echo 16 0,
      .scrubAccess 12 ⟨0, 0⟩, .fieldTestSegment 384, .fieldTestSegmentEnd 384 none, .traceRecordWrite 6 0, .traceRecordWrite 0 16,
      .sqTail ⟨0, 1024⟩ 0, .cqHead ⟨0, 1024⟩ 0, .sqTail ⟨17, 0⟩ 0, .cqHead ⟨17, 0⟩ 0, .slotFetch 1024 0, .slotRefetch 1024 0, .completionPost 1024, .hifAqCtrlEnable 17 0,
      .hifAqCtrlDisable 17 0, .fabTimestampRead 17 .low, .fabPortConfigWrite 16 0, .registerWrite 17 0 0,
      .invalidateAck (.place 2) 0, .translationTimeout (.place 2) 0, .tableRetireDone 4096 0, .tableRetireDone 0 4,
      .tableFoldEnd 4096, .overlayEntryRemove 4096 0 0, .rdmaWriteReceive 4 0 packet0, .rdmaWriteReceive 0 256 packet0,
      .rdmaWriteReceive 0 0 { packet0 with payload := List.replicate 4097 0 }, .connectionRequest 4 0, .pfcPause 4 0 false,
      .pfcPause 0 8 false, .scrubEnd 16, .functionLevelReset 17, .tickWaitReached 384 0, .tickWaitReached 0 16,
      .retrainWithoutWindow 12 calm, .dbgCoreRegisterRead 17 0 0 0,
      .dbgCoreRegisterRead 0 0 384 0] : List Instr).all (fun i => !i.wf) = true := by decide +kernel

theorem illformed_3 :
    ([.dbgCoreRegisterRead 0 0 0 16] : List Instr).all (fun i => !i.wf) = true := by decide +kernel

/-! A host command is well formed when its packet is; there is no queue 1,024 (R456). -/

theorem packets_0 (k : Cmd) :
    ([.nop k, .resync k, .queueControlCreate k, .queueControlDestroy k, .queueControlStop k, .queueControlResume k, .softReset k,
      .partitionConfig k, .partitionReset k, .groupSet ⟨k, []⟩, .groupQuery k, .groupClear ⟨k, []⟩, .map k, .unmap k, .invalidateRange k,
      .windowSet k, .windowClear k, .memCopy k, .zeroLines k, .deckConfig k, .deckQuery k, .tableCreate k, .tableDestroy k,
      .tableQuery k, .tableVersionOpen k, .tableWriteRows k, .tableVersionSeal k, .tableFlip k, .tableRetire k, .tablePatch k,
      .tablePatchCommit k, .tableFold k, .tableDefaultSet k, .overlayConfig k, .jobLaunch k, .jobLaunchBatch k, .lookupSubmit k,
      .jobAbort k, .imageLoad k image0, .imageUnload k] : List Instr).all (fun i => i.wf == k.wf) = true := by
  simp [Instr.wf]

theorem packets_1 (k : Cmd) :
    ([.sliceConfig k, .jobCounters k, .genConfig k, .seqJoin k, .seqLeave k, .seqQuery k, .batcherConfig k, .fabricJoin k,
      .fabricLeave k, .fabricQuery k, .jobRemap k, .attestReport k, .certRead k, .sessionOpen k, .sessionClose k, .jobkeySet k,
      .jobkeyClear k, .packageLoad k, .traceConfigConfigure k, .traceConfigStart k, .traceConfigStop k, .traceConfigStatus k,
      .traceConfigRearm k, .traceTrigger k, .counterConfig k, .counterSample k, .fieldTestRead k, .fieldTestRun k,
      .fieldTestReturn k, .debugAccess k, .powerState k, .powerStateEnterQuiet k, .powerStateLeaveQuiet k, .settingsStage k,
      .ethPortStage k, .ethRegionStage k, .ethRegionClear k, .settingsRead k, .storeSettings k, .firmwareUpdate k] : List Instr).all (fun i => i.wf == k.wf) = true := by
  simp [Instr.wf]

theorem illformed_packet : badCmd.wf = false := by decide +kernel

theorem wellformed_packet : (cmd 0 1 []).wf = true := by decide +kernel

/-! ### What some commands answer -/

/-- A value of the next state. -/
def after {α : Type} (o : Host.Outcome State Fault Refusal) (f : State → α) : Option α :=
  match o with
  | .next t => some (f t)
  | _ => none

/-- R208, the worked encoding of f.fma.f32 v5, v6, v7, v8 guarded by p2: 2.0 × 3.0 + 1.0 = 7.0 in lane 0, and lane 1, outside p2,
stays. -/
def fmaGroup : Grp :=
  { Grp.reset with pregs := [(2, 1)],
                   vregs := [(192, { val := 0x40000000, poison := false }), (224, { val := 0x40400000, poison := false }),
                             (225, { val := 0x40400000, poison := false }), (256, { val := 0x3F800000, poison := false })] }
theorem test_fma_worked_encoding :
    after (exec (.fFma 0 0 0x231464001C800000) (running fmaGroup)) (fun t =>
      (((t.grp 0 0).vlane 5 0).val, ((t.grp 0 0).vlane 5 1).val)) = some (0x40E00000, 0) := by decide +kernel

/-- R207, R208, R211, R218: the opcode of a word is its bits [63:56]. The word of zeros is s.add; the two worked words are f.fma.f32
and gt.w32.fixed; 0x2F, 0x33 and 0xA0 are reserved. -/
theorem test_opcodes :
    decodeParux 1 2 0 = some (.sAdd 1 2 0) ∧ decodeParux 0 0 0x231464001C800000 = some (.fFma 0 0 0x1464001C800000) ∧
    decodeParux 0 0 0x503041A03412C000 = some (.gtW 0 0 0x3041A03412C000) ∧ decodeParux 0 0 (0x1D#64 <<< 56) = some (.vBcast 0 0 0) ∧
    decodeParux 0 0 (0x32#64 <<< 56) = some (.cvDec 0 0 0) ∧ decodeParux 0 0 (0x42#64 <<< 56) = some (.ldCq8 0 0 0) ∧
    decodeParux 0 0 (0x63#64 <<< 56) = some (.mxSplit 0 0 0) ∧ decodeParux 0 0 (0x76#64 <<< 56) = some (.call 0 0 0) ∧
    decodeParux 0 0 (0x83#64 <<< 56) = some (.commit 0 0 0) ∧ decodeParux 0 0 (0x91#64 <<< 56) = some (.embSub 0 0 0) ∧
    decodeParux 0 0 (0x2F#64 <<< 56) = none ∧ decodeParux 0 0 (0x33#64 <<< 56) = none ∧ decodeParux 0 0 (0xA0#64 <<< 56) = none := by
  and_intros <;> rfl

/-- R193, R224, the worked encoding of gt.w32.fixed v12, [s4 + v13 << 2], 300: one slot, due at STICK + 300, for the one active
lane. -/
def gatherGroup : Grp :=
  { Grp.reset with sregs := [(4, sclean 8)], mask := 1, vregs := [(416, { val := 3, poison := false })] }
theorem test_gather_worked_encoding :
    after (exec (.gtW 0 0 0x503041A03412C000) (cached gatherGroup)) (fun t =>
      (t.grp 0 0).slots.map fun k => (k.2.reg, k.2.width, k.2.due, k.2.lanes.map (·.va))) = some [(12, 4, 310, [20])] := by decide +kernel

/-- R126, the worked fold of chapter 03: ((c0 + c1) + (c2 + c3)) is 1.0 where the sum in arrival order is 0.0. -/
theorem test_fold_worked_example :
    closeFold (pushNode 0xCB800000 1 (pushNode 0x3F800000 1 (pushNode 0x3F800000 1 (pushNode 0x4B800000 1 [])))) = 0x3F800000 ∧
    addW (addW (addW 0x4B800000 0x3F800000) 0x3F800000) 0xCB800000 = 0 := by decide +kernel

/-- R218: s.add wraps modulo 2^64. -/
theorem test_sAdd_wraps :
    after (exec (.sAdd 0 0 (word 31 1 0 0x10 0 1)) (running { Grp.reset with sregs := [(1, sclean 0xFFFFFFFFFFFFFFFF)] })) (fun t =>
      ((t.grp 0 0).sreg 31).val) = some 0 := by decide +kernel

/-- R172: a write of s0 is ignored. -/
theorem test_sAdd_s0 :
    after (exec (.sAdd 0 0 (word 0 1 0 0x10 0 1)) (running regs1)) (fun t => ((t.grp 0 0).sreg 0).val) = some 0 := by decide +kernel

/-- R211: a reserved bit raises ILLEGAL_INSTRUCTION, the group stops and the end of its job is set. -/
theorem test_illegal_aborts :
    after (exec (.sAdd 0 0 (word 31 1 0 0 0 1)) (running regs1)) (fun t =>
      ((t.job 0).bind fun b => b.ending.map fun e => e.status, (t.grp 0 0).run, ((t.grp 0 0).sreg 31).val)) =
      some (some Status.coreException, .excepted, 0) := by decide +kernel

/-- R418: a wait that the count covers takes it from the count. -/
theorem test_semWait_takes :
    after (exec (.semWait 0 0 (word 0 0 0 0 0 0x000301)) { running regs1 with clusters := [(0, { Cluster.reset with sem := [(1, 5)] })] })
      (fun t => NMap.get (t.cluster 0).sem 1 0) = some 2 := by decide +kernel

/-- R461: CRC-32C of its check message, the nine digits. -/
theorem test_crc32c : crc32c (ascii "123456789") = 0xE3069283 := by decide +kernel

/-- R463: NOP completes with SUCCESS. -/
theorem test_nop :
    after (exec (.nop (cmd 0 1 [])) base) (fun t => (t.queue 20).done.map (·.status)) = some [BitVec.ofNat 16 Status.success] := by decide +kernel

/-- R463: generation 0 completes with another status. -/
theorem test_nop_generation :
    (after (exec (.nop (cmd 0 0 [])) base) fun t => (t.queue 20).done.map (·.status)) ≠ some [BitVec.ofNat 16 Status.success] := by decide +kernel

/-- Log entry 3: on an empty queue a step is a tick. -/
theorem test_tick : after (step base) (·.tick) = some 101 := by decide +kernel

/-- The front command runs and leaves the queue. -/
theorem test_step_front :
    after (step { base with pending := [.nop (cmd 0 1 []), .bootReady] }) (fun t => t.pending) = some [.bootReady] := by decide +kernel

/-- Log entry 21: a packet under another command's row has no effect. -/
theorem test_other_opcode : after (exec (.softReset (cmd 0 1 [])) base) id = some base := by decide +kernel

/-- R23: there is no core 384. -/
theorem test_noSuchUnit : exec (.sAdd 384 0 0) base = .refused .noSuchUnit := by rfl

/-! ### Witnesses of the statements -/

theorem wit_everyStep :
    let s : State := { base with pending := [.bootReady] };
    s.Inv ∧ step s = .next base := by
  refine ⟨⟨?_, ?_⟩, ?_⟩
  · decide +kernel
  · exact fun p => Nat.zero_le _
  · rfl

theorem wit_sArith :
    let s : State := running regs1;
    let c := 0;
    let g := 0;
    let w : IWord := word 31 1 0 0x10 0 0xFFFFFFFF;
    let legal : ℕ → Prop := fun (m : ℕ) => (plainGroup w && regs w 32 32 && lowRI w 32 && modOnly w m) = true;
    s.offers c g [] ∧ legal 16 := by
  try dsimp only
  and_intros <;> first | decide +kernel | (simp only [State.offers, State.cleanSector, exists_some, forall_some, not_core, not_device]; decide +kernel)

theorem wit_sMinU :
    let s : State := running regs1;
    let c := 0;
    let g := 0;
    let w : IWord := word 0 1 0 0x08 0 (rr 2 0);
    let legal : ℕ → Prop := fun (m : ℕ) => (plainGroup w && regs w 32 32 && lowRI w 32 && modOnly w m) = true;
    s.offers c g [] ∧ legal 24 ∧ bit w 39 = true := by
  try dsimp only
  and_intros <;> first | decide +kernel | (simp only [State.offers, State.cleanSector, exists_some, forall_some, not_core, not_device]; decide +kernel)

theorem wit_sMinS :
    let s : State := running regs1;
    let c := 0;
    let g := 0;
    let w : IWord := word 1 31 0 0x10 0 0x80000000;
    let legal : ℕ → Prop := fun (m : ℕ) => (plainGroup w && regs w 32 32 && lowRI w 32 && modOnly w m) = true;
    s.offers c g [] ∧ legal 24 ∧ bit w 39 = false := by
  try dsimp only
  and_intros <;> first | decide +kernel | (simp only [State.offers, State.cleanSector, exists_some, forall_some, not_core, not_device]; decide +kernel)

theorem wit_sCmp :
    let s : State := running regs1;
    let c := 0;
    let g := 0;
    let w : IWord := word 1 1 0 0x10 5 5;
    s.offers c g [] ∧ (decide (fGuard w = 0) && decide (fCond w < 6) && regs w 32 32 && lowRI w 32 && modOnly w 16) = true := by
  try dsimp only
  and_intros <;> first | decide +kernel | (simp only [State.offers, State.cleanSector, exists_some, forall_some, not_core, not_device]; decide +kernel)

theorem wit_sLih :
    let s : State := running regs1;
    let c := 0;
    let g := 0;
    let w : IWord := word 31 0 0 0x10 0 0x80000000;
    s.offers c g [] ∧ (plainGroup w && regs w 32 1 && decide (fMod w = 16)) = true := by
  try dsimp only
  and_intros <;> first | decide +kernel | (simp only [State.offers, State.cleanSector, exists_some, forall_some, not_core, not_device]; decide +kernel)

theorem wit_sId :
    let s : State := running regs1;
    let c := 0;
    let g := 0;
    let w : IWord := word 1 0 0 0x10 0 0x707;
    s.offers c g [] ∧
    (plainGroup w && regs w 32 1 && decide (fMod w = 16) && decide (bf w 31 11 = 0) && decide (bf w 7 0 < 8) && (decide (bf w 7 0
      = 7) || decide (bf w 10 8 = 0))) = true := by
  try dsimp only
  and_intros <;> first | decide +kernel | (simp only [State.offers, State.cleanSector, exists_some, forall_some, not_core, not_device]; decide +kernel)

theorem wit_sFlags :
    let s : State := running regs1;
    let c := 0;
    let g := 0;
    let w : IWord := word 1 0 0 0x10 0 0x1F;
    s.offers c g [] ∧ (plainGroup w && regs w 32 1 && decide (fMod w = 16) && decide (bf w 31 5 = 0)) = true := by
  try dsimp only
  and_intros <;> first | decide +kernel | (simp only [State.offers, State.cleanSector, exists_some, forall_some, not_core, not_device]; decide +kernel)

theorem wit_sVget :
    let s : State := running regs1;
    let c := 0;
    let g := 0;
    let w : IWord := word 1 63 0 0x10 0 31;
    let x : Grp := s.grp c g;
    s.offers c g [] ∧ (plainGroup w && regs w 32 64 && decide (fMod w = 16) && decide (bf w 31 5 = 0)) = true ∧
    x.awaits (fSrc1 w) = false := by
  try dsimp only
  and_intros <;> first | decide +kernel | (simp only [State.offers, State.cleanSector, exists_some, forall_some, not_core, not_device]; decide +kernel)

theorem wit_vInt :
    let s : State := running regs1;
    let c := 0;
    let g := 0;
    let w : IWord := word 63 1 1 0x10 0 0xFFFFFFFF;
    let legal : ℕ → Prop := fun (m : ℕ) => (decide (fCond w = 0) && lowRI w 64 && modOnly w m) = true;
    s.offers c g [fSrc1 w, fSrc2 w, fDst w] ∧ legal 16 := by
  try dsimp only
  and_intros <;> first | decide +kernel | (simp only [State.offers, State.cleanSector, exists_some, forall_some, not_core, not_device]; decide +kernel)

theorem wit_vMinU :
    let s : State := running regs1;
    let c := 0;
    let g := 0;
    let w : IWord := word 1 1 7 0x08 0 (rr 63 0);
    let legal : ℕ → Prop := fun (m : ℕ) => (decide (fCond w = 0) && lowRI w 64 && modOnly w m) = true;
    s.offers c g [fSrc1 w, fSrc2 w, fDst w] ∧ legal 24 ∧ bit w 39 = true := by
  try dsimp only
  and_intros <;> first | decide +kernel | (simp only [State.offers, State.cleanSector, exists_some, forall_some, not_core, not_device]; decide +kernel)

theorem wit_vMinS :
    let s : State := running regs1;
    let c := 0;
    let g := 0;
    let w : IWord := word 1 1 0 0x10 0 0x80000000;
    let legal : ℕ → Prop := fun (m : ℕ) => (decide (fCond w = 0) && lowRI w 64 && modOnly w m) = true;
    s.offers c g [fSrc1 w, fSrc2 w, fDst w] ∧ legal 24 ∧ bit w 39 = false := by
  try dsimp only
  and_intros <;> first | decide +kernel | (simp only [State.offers, State.cleanSector, exists_some, forall_some, not_core, not_device]; decide +kernel)

theorem wit_vSel :
    let s : State := running regs1;
    let c := 0;
    let g := 0;
    let w : IWord := word 1 1 0 0 0 (rr 63 7);
    s.offers c g [fSrc1 w, fSrc2 w, fDst w] ∧ (decide (fCond w = 0) && lowRR w 64 8 && decide (fMod w = 0)) = true := by
  try dsimp only
  and_intros <;> first | decide +kernel | (simp only [State.offers, State.cleanSector, exists_some, forall_some, not_core, not_device]; decide +kernel)

theorem wit_vBcast :
    let s : State := running regs1;
    let c := 0;
    let g := 0;
    let w : IWord := word 1 0 0 0x10 0 31;
    s.offers c g [fSrc1 w, fSrc2 w, fDst w] ∧
    (decide (fCond w = 0) && modOnly w 17 && if fI w = true then !bit w 36 && decide (fSrc1 w = 0) else lowRR w 1 1 && if bit w 36
      = true then decide (fSrc1 w = 0) else decide (fSrc1 w < 32)) = true := by
  try dsimp only
  and_intros <;> first | decide +kernel | (simp only [State.offers, State.cleanSector, exists_some, forall_some, not_core, not_device]; decide +kernel)

theorem wit_vLaneId :
    let s : State := running regs1;
    let c := 0;
    let g := 0;
    let w : IWord := word 1 0 0 0x01 0 0;
    s.offers c g [fSrc1 w, fSrc2 w, fDst w] ∧
    (decide (fCond w = 0) && modOnly w 17 && if fI w = true then !bit w 36 && decide (fSrc1 w = 0) else lowRR w 1 1 && if bit w 36
      = true then decide (fSrc1 w = 0) else decide (fSrc1 w < 32)) = true := by
  try dsimp only
  and_intros <;> first | decide +kernel | (simp only [State.offers, State.cleanSector, exists_some, forall_some, not_core, not_device]; decide +kernel)

theorem wit_vPerm :
    let s : State := running regs1;
    let c := 0;
    let g := 0;
    let w : IWord := word 1 1 1 0 0 (rr 1 0);
    s.offers c g [fSrc1 w, fSrc2 w, fDst w] ∧ (decide (fCond w = 0) && lowRR w 64 1 && decide (fMod w = 0)) = true := by
  try dsimp only
  and_intros <;> first | decide +kernel | (simp only [State.offers, State.cleanSector, exists_some, forall_some, not_core, not_device]; decide +kernel)

theorem wit_vIred :
    let s : State := running regs1;
    let c := 0;
    let g := 0;
    let w : IWord := word 31 1 1 0x04 0 0;
    s.offers c g [fSrc1 w, fSrc2 w, fDst w] ∧
    (decide (fCond w = 0) && decide (fDst w < 32) && lowRR w 1 1 && modOnly w 6 && decide (bf w 38 37 ≠ 3)) = true := by
  try dsimp only
  and_intros <;> first | decide +kernel | (simp only [State.offers, State.cleanSector, exists_some, forall_some, not_core, not_device]; decide +kernel)

theorem wit_vCmp :
    let s : State := running regs1;
    let c := 0;
    let g := 0;
    let w : IWord := word 7 63 0 0x10 5 0xFFFFFFFF;
    let x : Grp := s.grp c g;
    let ls : List ℕ := lanesOf (x.active (fGuard w));
    let a : ℕ → VLane := fun (i : ℕ) => x.vlane (fSrc1 w) i;
    let b : ℕ → VLane := fun (i : ℕ) => x.vecB w i;
    let bad : List ℕ := List.filter (fun (i : ℕ) => (a i).poison || (b i).poison) ls;
    s.offers c g [fSrc1 w, fSrc2 w] ∧ (decide (fCond w < 6) && decide (fDst w < 8) && lowRI w 64 && modOnly w 16) = true ∧
    bad = [] := by
  try dsimp only
  and_intros <;> first | decide +kernel | (simp only [State.offers, State.cleanSector, exists_some, forall_some, not_core, not_device]; decide +kernel)

theorem wit_vCmpPoison :
    let s : State := running regs1;
    let c := 0;
    let g := 0;
    let w : IWord := word 1 1 0 0x10 0 0;
    let x : Grp := s.grp c g;
    let ls : List ℕ := lanesOf (x.active (fGuard w));
    let a : ℕ → VLane := fun (i : ℕ) => x.vlane (fSrc1 w) i;
    let b : ℕ → VLane := fun (i : ℕ) => x.vecB w i;
    let bad : List ℕ := List.filter (fun (i : ℕ) => (a i).poison || (b i).poison) ls;
    s.offers c g [fSrc1 w, fSrc2 w] ∧ (decide (fCond w < 6) && decide (fDst w < 8) && lowRI w 64 && modOnly w 16) = true ∧
    bad ≠ [] := by
  try dsimp only
  and_intros <;> first | decide +kernel | (simp only [State.offers, State.cleanSector, exists_some, forall_some, not_core, not_device]; decide +kernel)

theorem wit_fCmp :
    let s : State := running regs1;
    let c := 0;
    let g := 0;
    let w : IWord := word 1 2 0 0 6 (rr 3 0);
    let x : Grp := s.grp c g;
    let ls : List ℕ := lanesOf (x.active (fGuard w));
    let a : ℕ → VLane := fun (i : ℕ) => x.vlane (fSrc1 w) i;
    let b : ℕ → VLane := fun (i : ℕ) => x.vecB w i;
    let bad : List ℕ := List.filter (fun (i : ℕ) => (a i).poison || (b i).poison) ls;
    s.offers c g [fSrc1 w, fSrc2 w] ∧
    ((decide (fCond w < 4) || decide (fCond w = 6)) && decide (fDst w < 8) && lowRI w 64 && typeLegal w 28) = true ∧ bad = [] := by
  try dsimp only
  and_intros <;> first | decide +kernel | (simp only [State.offers, State.cleanSector, exists_some, forall_some, not_core, not_device]; decide +kernel)

theorem wit_fCmpPoison :
    let s : State := running regs1;
    let c := 0;
    let g := 0;
    let w : IWord := word 1 1 0 0x18 3 0;
    let x : Grp := s.grp c g;
    let ls : List ℕ := lanesOf (x.active (fGuard w));
    let a : ℕ → VLane := fun (i : ℕ) => x.vlane (fSrc1 w) i;
    let b : ℕ → VLane := fun (i : ℕ) => x.vecB w i;
    let bad : List ℕ := List.filter (fun (i : ℕ) => (a i).poison || (b i).poison) ls;
    s.offers c g [fSrc1 w, fSrc2 w] ∧
    ((decide (fCond w < 4) || decide (fCond w = 6)) && decide (fDst w < 8) && lowRI w 64 && typeLegal w 28) = true ∧ bad ≠ [] := by
  try dsimp only
  and_intros <;> first | decide +kernel | (simp only [State.offers, State.cleanSector, exists_some, forall_some, not_core, not_device]; decide +kernel)

theorem wit_fArith :
    let s : State := running regs1;
    let c := 0;
    let g := 0;
    let w : IWord := word 1 1 0 0x10 0 0x3F800000;
    s.offers c g [fSrc1 w, fSrc2 w, fSrc3 w, fDst w] ∧ (decide (fCond w = 0) && lowRI w 64 && typeLegal w 28) = true := by
  try dsimp only
  and_intros <;> first | decide +kernel | (simp only [State.offers, State.cleanSector, exists_some, forall_some, not_core, not_device]; decide +kernel)

theorem wit_fFma :
    let s : State := running regs1;
    let c := 0;
    let g := 0;
    let w : IWord := word 63 1 1 0 0 (rr 63 63);
    s.offers c g [fSrc1 w, fSrc2 w, fSrc3 w, fDst w] ∧ (decide (fCond w = 0) && lowRR w 64 64 && typeLegal w 12) = true := by
  try dsimp only
  and_intros <;> first | decide +kernel | (simp only [State.offers, State.cleanSector, exists_some, forall_some, not_core, not_device]; decide +kernel)

theorem wit_fOne :
    let s : State := running regs1;
    let c := 0;
    let g := 0;
    let w : IWord := word 1 1 0 0 0 0;
    s.offers c g [fSrc1 w, fSrc2 w, fSrc3 w, fDst w] ∧ (decide (fCond w = 0) && lowRR w 1 1 && typeLegal w 12) = true := by
  try dsimp only
  and_intros <;> first | decide +kernel | (simp only [State.offers, State.cleanSector, exists_some, forall_some, not_core, not_device]; decide +kernel)

theorem wit_fFred :
    let s : State := running regs1;
    let c := 0;
    let g := 0;
    let w : IWord := word 31 1 1 0 0 0;
    s.offers c g [fSrc1 w] ∧ (decide (fCond w = 0) && decide (fDst w < 32) && lowRR w 1 1 && decide (fMod w = 0)) = true := by
  try dsimp only
  and_intros <;> first | decide +kernel | (simp only [State.offers, State.cleanSector, exists_some, forall_some, not_core, not_device]; decide +kernel)

theorem wit_fArgmax :
    let s : State := running regs1;
    let c := 0;
    let g := 0;
    let w : IWord := word 31 1 1 0 0 0;
    s.offers c g [fSrc1 w] ∧ (decide (fCond w = 0) && decide (fDst w < 32) && lowRR w 1 1 && typeLegal w 12) = true := by
  try dsimp only
  and_intros <;> first | decide +kernel | (simp only [State.offers, State.cleanSector, exists_some, forall_some, not_core, not_device]; decide +kernel)

theorem wit_cvCvt :
    let s : State := running regs1;
    let c := 0;
    let g := 0;
    let w : IWord := word 1 1 1 0 0 (0 * 65536 + 7 * 4096 + 3 * 1024);
    let src : Elem := Elem.flt fp32;
    let dst : Elem := Elem.int 4;
    s.offers c g [fSrc1 w, fDst w] ∧
    (lowCV w 1 && decide (fFrom w < 8) && decide (fTo w < 8) && decide (fFrom w ≠ fTo w) && (!fRtz w || decide (5 ≤ fTo w))) =
      true ∧ elemOf (fFrom w) = some src ∧ elemOf (fTo w) = some dst := by
  try dsimp only
  and_intros <;> first | decide +kernel | (simp only [State.offers, State.cleanSector, exists_some, forall_some, not_core, not_device]; decide +kernel)

theorem wit_cvEnc :
    let s : State := running regs1;
    let c := 0;
    let g := 0;
    let w : IWord := word 1 1 0 0 0 (rr 31 0 + 2 * 65536 + 8 * 4096 + 2048);
    let src : Elem := Elem.flt bf16;
    s.offers c g [fSrc1 w, fDst w] ∧ (lowCV w 32 && decide (fFrom w < 3) && blockCode (fTo w) && !fRtz w) = true ∧
    elemOf (fFrom w) = some src := by
  try dsimp only
  and_intros <;> first | decide +kernel | (simp only [State.offers, State.cleanSector, exists_some, forall_some, not_core, not_device]; decide +kernel)

theorem wit_cvDec :
    let s : State := running regs1;
    let c := 0;
    let g := 0;
    let w : IWord := word 1 1 0 0 0 (rr 31 0 + 8 * 65536 + 2 * 4096);
    let e : ℕ → FVal := fun i => (decodeElem 8 0 (packPlane 32 ((List.range (planeBytes 8 / 4)).map fun j => ((running regs1).grp
      0 0 |>.vlane 1 j).val.toNat)) i).getD (FVal.fin false 0 0);
    let x : Grp := s.grp c g;
    let v : ℕ → VLane := fun (i : ℕ) => x.vlane (fSrc1 w) i;
    let n := planeBytes (fFrom w) / 4;
    let head := bf (x.sreg (fSrc2 w)).val 7 0;
    let plane := packPlane 32 (List.map (fun (i : ℕ) => BitVec.toNat (v i).val) (List.range n));
    s.offers c g [fSrc1 w, fDst w] ∧
    (lowCV w 32 && blockCode (fFrom w) && (decide (fTo w = 0) || decide (fTo w = 2)) && !fSat w && !fRtz w) = true ∧
    (∀ i < 32, decodeElem (fFrom w) head plane i = some (e i)) ∧ ((mxGrid (fFrom w)).isSome = true ∨ head % 128 ≠ 127) := by
  try dsimp only
  and_intros <;> first | decide +kernel | (simp only [State.offers, State.cleanSector, exists_some, forall_some, not_core, not_device]; decide +kernel)

theorem wit_maskPush :
    let s : State := running { regs1 with stack := List.replicate 15 0 };
    let c := 0;
    let g := 0;
    let w : IWord := word 0 1 0 0 0 0;
    let x : Grp := s.grp c g;
    s.offers c g [] ∧ (lowControl w 1 8 && decide (fImm w = 0)) = true ∧ x.stack.length < 16 := by
  try dsimp only
  and_intros <;> first | decide +kernel | (simp only [State.offers, State.cleanSector, exists_some, forall_some, not_core, not_device]; decide +kernel)

theorem wit_maskFull :
    let s : State := running { regs1 with stack := List.replicate 16 0 };
    let c := 0;
    let g := 0;
    let w : IWord := word 0 7 0 0 0 0;
    let x : Grp := s.grp c g;
    s.offers c g [] ∧ (lowControl w 1 8 && decide (fImm w = 0)) = true ∧ 16 ≤ x.stack.length := by
  try dsimp only
  and_intros <;> first | decide +kernel | (simp only [State.offers, State.cleanSector, exists_some, forall_some, not_core, not_device]; decide +kernel)

theorem wit_maskPop :
    let s : State := running { regs1 with stack := [1] };
    let c := 0;
    let g := 0;
    let w : IWord := word 0 0 0 0 0 0;
    let t : Word32 := (1 : Word32);
    let r : List Word32 := [];
    let x : Grp := s.grp c g;
    s.offers c g [] ∧ (lowControl w 1 1 && decide (fImm w = 0)) = true ∧ x.stack = t :: r := by
  try dsimp only
  and_intros <;> first | decide +kernel | (simp only [State.offers, State.cleanSector, exists_some, forall_some, not_core, not_device]; decide +kernel)

theorem wit_maskEmpty :
    let s : State := running regs1;
    let c := 0;
    let g := 0;
    let w : IWord := word 0 0 0 0 0 0;
    let x : Grp := s.grp c g;
    s.offers c g [] ∧ (lowControl w 1 1 && decide (fImm w = 0)) = true ∧ x.stack = [] := by
  try dsimp only
  and_intros <;> first | decide +kernel | (simp only [State.offers, State.cleanSector, exists_some, forall_some, not_core, not_device]; decide +kernel)

theorem wit_jmp :
    let s : State := running regs1;
    let c := 0;
    let g := 0;
    let w : IWord := word 0 0 0 0 0 7;
    let n := bf w 13 0;
    s.offers c g [] ∧ (lowControl w 1 1 && targetOk w) = true ∧ s.inStream c g n = true := by
  try dsimp only
  and_intros <;> first | decide +kernel | (simp only [State.offers, State.cleanSector, exists_some, forall_some, not_core, not_device]; decide +kernel)

theorem wit_jmpOut :
    let s : State := running regs1;
    let c := 0;
    let g := 0;
    let w : IWord := word 0 0 0 0 0 8;
    let n := bf w 13 0;
    s.offers c g [] ∧ (lowControl w 1 1 && targetOk w) = true ∧ s.inStream c g n = false := by
  try dsimp only
  and_intros <;> first | decide +kernel | (simp only [State.offers, State.cleanSector, exists_some, forall_some, not_core, not_device]; decide +kernel)

theorem wit_brAnyTaken :
    let s : State := running regs1;
    let c := 0;
    let g := 0;
    let w : IWord := word 0 1 0 0 0 7;
    let x : Grp := s.grp c g;
    let pk : Word32 := x.preg (fSrc1 w);
    let n := bf w 13 0;
    s.offers c g [] ∧ (lowControl w 1 8 && targetOk w) = true ∧ decide (x.mask &&& pk ≠ 0) = true ∧ s.inStream c g n = true := by
  try dsimp only
  and_intros <;> first | decide +kernel | (simp only [State.offers, State.cleanSector, exists_some, forall_some, not_core, not_device]; decide +kernel)

theorem wit_brAnyNot :
    let s : State := running regs1;
    let c := 0;
    let g := 0;
    let w : IWord := word 0 2 0 0 0 7;
    let x : Grp := s.grp c g;
    let pk : Word32 := x.preg (fSrc1 w);
    s.offers c g [] ∧ (lowControl w 1 8 && targetOk w) = true ∧ decide (x.mask &&& pk ≠ 0) = false := by
  try dsimp only
  and_intros <;> first | decide +kernel | (simp only [State.offers, State.cleanSector, exists_some, forall_some, not_core, not_device]; decide +kernel)

theorem wit_brAllTaken :
    let s : State := running regs1;
    let c := 0;
    let g := 0;
    let w : IWord := word 0 0 0 0 0 8;
    let x : Grp := s.grp c g;
    let pk : Word32 := x.preg (fSrc1 w);
    let n := bf w 13 0;
    s.offers c g [] ∧ (lowControl w 1 8 && targetOk w) = true ∧ decide (x.mask &&& ~~~pk = 0) = true ∧ s.inStream c g n = false := by
  try dsimp only
  and_intros <;> first | decide +kernel | (simp only [State.offers, State.cleanSector, exists_some, forall_some, not_core, not_device]; decide +kernel)

theorem wit_brAllNot :
    let s : State := running regs1;
    let c := 0;
    let g := 0;
    let w : IWord := word 0 1 0 0 0 8;
    let x : Grp := s.grp c g;
    let pk : Word32 := x.preg (fSrc1 w);
    s.offers c g [] ∧ (lowControl w 1 8 && targetOk w) = true ∧ decide (x.mask &&& ~~~pk = 0) = false := by
  try dsimp only
  and_intros <;> first | decide +kernel | (simp only [State.offers, State.cleanSector, exists_some, forall_some, not_core, not_device]; decide +kernel)

theorem wit_brNoneTaken :
    let s : State := running regs1;
    let c := 0;
    let g := 0;
    let w : IWord := word 0 7 0 0 0 0;
    let x : Grp := s.grp c g;
    let pk : Word32 := x.preg (fSrc1 w);
    let n := bf w 13 0;
    s.offers c g [] ∧ (lowControl w 1 8 && targetOk w) = true ∧ decide (x.mask &&& pk = 0) = true ∧ s.inStream c g n = true := by
  try dsimp only
  and_intros <;> first | decide +kernel | (simp only [State.offers, State.cleanSector, exists_some, forall_some, not_core, not_device]; decide +kernel)

theorem wit_brNoneNot :
    let s : State := running regs1;
    let c := 0;
    let g := 0;
    let w : IWord := word 0 1 0 0 0 0;
    let x : Grp := s.grp c g;
    let pk : Word32 := x.preg (fSrc1 w);
    s.offers c g [] ∧ (lowControl w 1 8 && targetOk w) = true ∧ decide (x.mask &&& pk = 0) = false := by
  try dsimp only
  and_intros <;> first | decide +kernel | (simp only [State.offers, State.cleanSector, exists_some, forall_some, not_core, not_device]; decide +kernel)

theorem wit_brZTaken :
    let s : State := running regs1;
    let c := 0;
    let g := 0;
    let w : IWord := word 0 31 0 0 0 7;
    let x : Grp := s.grp c g;
    let a : SReg := x.sreg (fSrc1 w);
    let n := bf w 13 0;
    s.offers c g [] ∧ (lowControl w 1 32 && targetOk w) = true ∧ a.poison = false ∧ decide (a.val = 0) = true ∧
    s.inStream c g n = true := by
  try dsimp only
  and_intros <;> first | decide +kernel | (simp only [State.offers, State.cleanSector, exists_some, forall_some, not_core, not_device]; decide +kernel)

theorem wit_brZNot :
    let s : State := running regs1;
    let c := 0;
    let g := 0;
    let w : IWord := word 0 1 0 0 0 7;
    let x : Grp := s.grp c g;
    let a : SReg := x.sreg (fSrc1 w);
    s.offers c g [] ∧ (lowControl w 1 32 && targetOk w) = true ∧ a.poison = false ∧ decide (a.val = 0) = false := by
  try dsimp only
  and_intros <;> first | decide +kernel | (simp only [State.offers, State.cleanSector, exists_some, forall_some, not_core, not_device]; decide +kernel)

theorem wit_brNzTaken :
    let s : State := running regs1;
    let c := 0;
    let g := 0;
    let w : IWord := word 0 1 0 0 0 8;
    let x : Grp := s.grp c g;
    let a : SReg := x.sreg (fSrc1 w);
    let n := bf w 13 0;
    s.offers c g [] ∧ (lowControl w 1 32 && targetOk w) = true ∧ a.poison = false ∧ decide (a.val ≠ 0) = true ∧
    s.inStream c g n = false := by
  try dsimp only
  and_intros <;> first | decide +kernel | (simp only [State.offers, State.cleanSector, exists_some, forall_some, not_core, not_device]; decide +kernel)

theorem wit_brNzNot :
    let s : State := running regs1;
    let c := 0;
    let g := 0;
    let w : IWord := word 0 0 0 0 0 7;
    let x : Grp := s.grp c g;
    let a : SReg := x.sreg (fSrc1 w);
    s.offers c g [] ∧ (lowControl w 1 32 && targetOk w) = true ∧ a.poison = false ∧ decide (a.val ≠ 0) = false := by
  try dsimp only
  and_intros <;> first | decide +kernel | (simp only [State.offers, State.cleanSector, exists_some, forall_some, not_core, not_device]; decide +kernel)

theorem wit_brPoison :
    let s : State := running regs1;
    let c := 0;
    let g := 0;
    let w : IWord := word 0 2 0 0 0 7;
    let x : Grp := s.grp c g;
    let a : SReg := x.sreg (fSrc1 w);
    s.offers c g [] ∧ (lowControl w 1 32 && targetOk w) = true ∧ a.poison = true := by
  try dsimp only
  and_intros <;> first | decide +kernel | (simp only [State.offers, State.cleanSector, exists_some, forall_some, not_core, not_device]; decide +kernel)

theorem wit_call :
    let s : State := running regs1;
    let c := 0;
    let g := 0;
    let w : IWord := word 31 0 0 0 0 7;
    let n := bf w 13 0;
    s.offers c g [] ∧ (lowControl w 32 1 && targetOk w) = true ∧ s.inStream c g n = true := by
  try dsimp only
  and_intros <;> first | decide +kernel | (simp only [State.offers, State.cleanSector, exists_some, forall_some, not_core, not_device]; decide +kernel)

theorem wit_callOut :
    let s : State := running regs1;
    let c := 0;
    let g := 0;
    let w : IWord := word 0 0 0 0 0 16383;
    let n := bf w 13 0;
    s.offers c g [] ∧ (lowControl w 32 1 && targetOk w) = true ∧ s.inStream c g n = false := by
  try dsimp only
  and_intros <;> first | decide +kernel | (simp only [State.offers, State.cleanSector, exists_some, forall_some, not_core, not_device]; decide +kernel)

theorem wit_jmpR :
    let s : State := running regs1;
    let c := 0;
    let g := 0;
    let w : IWord := word 0 1 0 0 0 0;
    let x : Grp := s.grp c g;
    let a : SReg := x.sreg (fSrc1 w);
    s.offers c g [] ∧ (lowControl w 1 32 && decide (fImm w = 0)) = true ∧ a.poison = false ∧
    s.inStream c g (BitVec.toNat a.val) = true := by
  try dsimp only
  and_intros <;> first | decide +kernel | (simp only [State.offers, State.cleanSector, exists_some, forall_some, not_core, not_device]; decide +kernel)

theorem wit_jmpROut :
    let s : State := running { regs1 with sregs := [(1, sclean 0x4000)] };
    let c := 0;
    let g := 0;
    let w : IWord := word 0 1 0 0 0 0;
    let x : Grp := s.grp c g;
    let a : SReg := x.sreg (fSrc1 w);
    s.offers c g [] ∧ (lowControl w 1 32 && decide (fImm w = 0)) = true ∧ a.poison = false ∧
    s.inStream c g (BitVec.toNat a.val) = false := by
  try dsimp only
  and_intros <;> first | decide +kernel | (simp only [State.offers, State.cleanSector, exists_some, forall_some, not_core, not_device]; decide +kernel)

theorem wit_jmpRPoison :
    let s : State := running regs1;
    let c := 0;
    let g := 0;
    let w : IWord := word 0 2 0 0 0 0;
    let x : Grp := s.grp c g;
    let a : SReg := x.sreg (fSrc1 w);
    s.offers c g [] ∧ (lowControl w 1 32 && decide (fImm w = 0)) = true ∧ a.poison = true := by
  try dsimp only
  and_intros <;> first | decide +kernel | (simp only [State.offers, State.cleanSector, exists_some, forall_some, not_core, not_device]; decide +kernel)

theorem wit_endCommit :
    let s : State := running regs1;
    let c := 0;
    let g := 0;
    let w : IWord := word 0 0 0 0 0 0;
    s.offers c g [] ∧ (lowControl w 1 1 && decide (fImm w = 0)) = true := by
  try dsimp only
  and_intros <;> first | decide +kernel | (simp only [State.offers, State.cleanSector, exists_some, forall_some, not_core, not_device]; decide +kernel)

theorem wit_cheapBusy :
    let s : State := running
      { regs1 with slots := [(0, { id := 1, kind := .gather, reg := 5, width := 4, fixed := false, lanes := [], due := 0, epoch := 0, arrived := false })] };
    let c := 0;
    let g := 0;
    let w : IWord := word 0 0 0 0 0 0xFFFF;
    s.offers c g [] ∧ (lowControl w 1 1 && decide (bf w 31 16 = 0)) = true ∧ s.busyAtCheap c g = true := by
  try dsimp only
  and_intros <;> first | decide +kernel | (simp only [State.offers, State.cleanSector, exists_some, forall_some, not_core, not_device]; decide +kernel)

theorem wit_cheap :
    let s : State := running regs1;
    let c := 0;
    let g := 0;
    let w : IWord := word 0 0 0 0 0 0xFFFF;
    let j := 0;
    let b : Job := job0;
    let x : Grp := s.grp c g;
    s.offers c g [] ∧ (lowControl w 1 1 && decide (bf w 31 16 = 0)) = true ∧ s.busyAtCheap c g = false ∧ x.job = some j ∧
    s.job j = some b ∧ b.pendCheap ≠ some (bf w 15 0) := by
  try dsimp only
  and_intros <;> first | decide +kernel | (simp only [State.offers, State.cleanSector, exists_some, forall_some, not_core, not_device]; decide +kernel)

theorem wit_cheapStops :
    let s : State := { running regs1 with jobs := [(0, some { job0 with pendCheap := some 3 })] };
    let c := 0;
    let g := 0;
    let w : IWord := word 0 0 0 0 0 3;
    let j := 0;
    let b : Job := { job0 with pendCheap := some 3 };
    let x : Grp := s.grp c g;
    s.offers c g [] ∧ (lowControl w 1 1 && decide (bf w 31 16 = 0)) = true ∧ s.busyAtCheap c g = false ∧ x.job = some j ∧
    s.job j = some b ∧ b.pendCheap = some (bf w 15 0) := by
  try dsimp only
  and_intros <;> first | decide +kernel | (simp only [State.offers, State.cleanSector, exists_some, forall_some, not_core, not_device]; decide +kernel)

theorem wit_ld :
    let s : State := running { regs1 with sregs := [(1, sclean 0x7FF80)] };
    let c := 0;
    let g := 0;
    let w : IWord := word 1 1 0 5 0 (rr 0 0);
    let x : Grp := s.grp c g;
    let ls : List ℕ := lanesOf (x.active (fGuard w));
    let n := 2 ^ bf w 38 37;
    s.offers c g [fSrc2 w, fDst w] ∧
    (lowM w (decide (bf w 40 39 = 1)) && decide (bf w 40 39 ≠ 3) && decide (bf w 38 37 ≠ 3)) = true ∧
    (∀ i ∈ ls, x.laneOffsetPoison w i = false ∧ x.laneOffset w i % n = 0 ∧ x.laneOffset w i + n ≤ 2 ^ 19 ∧ s.cleanSector c
      (x.laneOffset w i)) ∧ s.drainPending c g (List.map (fun (i : ℕ) => (x.laneOffset w i, n)) ls) = false := by
  try dsimp only
  and_intros <;> first | decide +kernel | (simp only [State.offers, State.cleanSector, exists_some, forall_some, not_core, not_device]; decide +kernel)

theorem wit_ldUniform :
    let s : State := running { regs1 with sregs := [(1, sclean 0x7FFFF)] };
    let c := 0;
    let g := 0;
    let w : IWord := word 63 1 0 16 0 (rr 0 0);
    let x : Grp := s.grp c g;
    let ls : List ℕ := lanesOf (x.active (fGuard w));
    let n := 2 ^ bf w 38 37;
    s.offers c g [fSrc2 w, fDst w] ∧
    (lowM w (decide (bf w 40 39 = 1)) && decide (bf w 40 39 ≠ 3) && decide (bf w 38 37 ≠ 3)) = true ∧
    (∀ i ∈ ls, x.laneOffsetPoison w i = false ∧ x.laneOffset w i % n = 0 ∧ x.laneOffset w i + n ≤ 2 ^ 19 ∧ s.cleanSector c
      (x.laneOffset w i)) ∧ s.drainPending c g (List.map (fun (i : ℕ) => (x.laneOffset w i, n)) ls) = false := by
  try dsimp only
  and_intros <;> first | decide +kernel | (simp only [State.offers, State.cleanSector, exists_some, forall_some, not_core, not_device]; decide +kernel)

theorem wit_ldAddress :
    let s : State := running { regs1 with sregs := [(1, sclean 0x7FF84)] };
    let c := 0;
    let g := 0;
    let w : IWord := word 1 1 0 4 0 (rr 0 0);
    let x : Grp := s.grp c g;
    let ls : List ℕ := lanesOf (x.active (fGuard w));
    let n := 2 ^ bf w 38 37;
    s.offers c g [fSrc2 w, fDst w] ∧
    (lowM w (decide (bf w 40 39 = 1)) && decide (bf w 40 39 ≠ 3) && decide (bf w 38 37 ≠ 3)) = true ∧
    ∃ i ∈ ls, x.laneOffsetPoison w i = false ∧ (x.laneOffset w i % n ≠ 0 ∨ 2 ^ 19 < x.laneOffset w i + n) := by
  try dsimp only
  and_intros <;> first | decide +kernel | (simp only [State.offers, State.cleanSector, exists_some, forall_some, not_core, not_device]; decide +kernel)

theorem wit_ldMisaligned :
    let s : State := running regs1;
    let c := 0;
    let g := 0;
    let w : IWord := word 1 1 0 2 0 (rr 0 0);
    let x : Grp := s.grp c g;
    let ls : List ℕ := lanesOf (x.active (fGuard w));
    let n := 2 ^ bf w 38 37;
    s.offers c g [fSrc2 w, fDst w] ∧
    (lowM w (decide (bf w 40 39 = 1)) && decide (bf w 40 39 ≠ 3) && decide (bf w 38 37 ≠ 3)) = true ∧
    ∃ i ∈ ls, x.laneOffsetPoison w i = false ∧ (x.laneOffset w i % n ≠ 0 ∨ 2 ^ 19 < x.laneOffset w i + n) := by
  try dsimp only
  and_intros <;> first | decide +kernel | (simp only [State.offers, State.cleanSector, exists_some, forall_some, not_core, not_device]; decide +kernel)

theorem wit_ldPoison :
    let s : State := running regs1;
    let c := 0;
    let g := 0;
    let w : IWord := word 1 2 0 0 0 (rr 0 0);
    let x : Grp := s.grp c g;
    let ls : List ℕ := lanesOf (x.active (fGuard w));
    let n := 2 ^ bf w 38 37;
    s.offers c g [fSrc2 w, fDst w] ∧
    (lowM w (decide (bf w 40 39 = 1)) && decide (bf w 40 39 ≠ 3) && decide (bf w 38 37 ≠ 3)) = true ∧
    (∀ i ∈ ls, x.laneOffsetPoison w i = false → x.laneOffset w i % n = 0 ∧ x.laneOffset w i + n ≤ 2 ^ 19) ∧
    ∃ i ∈ ls, x.laneOffsetPoison w i = true := by
  try dsimp only
  and_intros <;> first | decide +kernel | (simp only [State.offers, State.cleanSector, exists_some, forall_some, not_core, not_device]; decide +kernel)

theorem wit_ldCq8 :
    let s : State := running { regs1 with sregs := [(1, sclean 0x78000)] };
    let c := 0;
    let g := 0;
    let w : IWord := word 1 1 0 0 0 (rr 63 0);
    let x : Grp := s.grp c g;
    let ls : List ℕ := lanesOf (x.active (fGuard w));
    let k := 4 * 2 ^ bf w 38 37;
    let cq8 : ℕ → ℕ := fun (i : ℕ) => BitVec.toNat ((x.sreg (fSrc1 w)).val + fOffset w + BitVec.ofNat 64 (i / k * (512 * k) + bf
      (x.vlane (fSrc2 w) i).val 7 0 * (2 * k) + 2 * (i % k)));
    s.offers c g [fSrc2 w, fDst w] ∧ (lowM w true && decide (bf w 40 39 = 0) && !bit w 36 && decide (bf w 38 37 ≠ 3)) = true ∧
    (∀ i ∈ ls, (fun (i : ℕ) => (x.sreg (fSrc1 w)).poison || (x.vlane (fSrc2 w) i).poison) i = false ∧ cq8 i % 2 = 0 ∧ cq8 i + 2 ≤
      2 ^ 19 ∧ s.cleanSector c (cq8 i)) ∧ s.drainPending c g (List.map (fun (i : ℕ) => (cq8 i, 2)) ls) = false := by
  try dsimp only
  and_intros <;> first | decide +kernel | (simp only [State.offers, State.cleanSector, exists_some, forall_some, not_core, not_device]; decide +kernel)

theorem wit_ldCq8Address :
    let s : State := running regs1;
    let c := 0;
    let g := 0;
    let w : IWord := word 1 1 0 2 0 (rr 1 0);
    let x : Grp := s.grp c g;
    let ls : List ℕ := lanesOf (x.active (fGuard w));
    let k := 4 * 2 ^ bf w 38 37;
    let cq8 : ℕ → ℕ := fun (i : ℕ) => BitVec.toNat ((x.sreg (fSrc1 w)).val + fOffset w + BitVec.ofNat 64 (i / k * (512 * k) + bf
      (x.vlane (fSrc2 w) i).val 7 0 * (2 * k) + 2 * (i % k)));
    s.offers c g [fSrc2 w, fDst w] ∧ (lowM w true && decide (bf w 40 39 = 0) && !bit w 36 && decide (bf w 38 37 ≠ 3)) = true ∧
    ∃ i ∈ ls, (fun (i : ℕ) => (x.sreg (fSrc1 w)).poison || (x.vlane (fSrc2 w) i).poison) i = false ∧
    (cq8 i % 2 ≠ 0 ∨ 2 ^ 19 < cq8 i + 2) := by
  try dsimp only
  and_intros <;> first | decide +kernel | (simp only [State.offers, State.cleanSector, exists_some, forall_some, not_core, not_device]; decide +kernel)

theorem wit_ldCq8Poison :
    let s : State := running regs1;
    let c := 0;
    let g := 0;
    let w : IWord := word 1 2 0 0 0 (rr 1 0);
    let x : Grp := s.grp c g;
    let ls : List ℕ := lanesOf (x.active (fGuard w));
    let k := 4 * 2 ^ bf w 38 37;
    let cq8 : ℕ → ℕ := fun (i : ℕ) => BitVec.toNat ((x.sreg (fSrc1 w)).val + fOffset w + BitVec.ofNat 64 (i / k * (512 * k) + bf
      (x.vlane (fSrc2 w) i).val 7 0 * (2 * k) + 2 * (i % k)));
    s.offers c g [fSrc2 w, fDst w] ∧ (lowM w true && decide (bf w 40 39 = 0) && !bit w 36 && decide (bf w 38 37 ≠ 3)) = true ∧
    (∀ i ∈ ls, (fun (i : ℕ) => (x.sreg (fSrc1 w)).poison || (x.vlane (fSrc2 w) i).poison) i = false → cq8 i % 2 = 0 ∧ cq8 i + 2 ≤
      2 ^ 19) ∧ ∃ i ∈ ls, (fun (i : ℕ) => (x.sreg (fSrc1 w)).poison || (x.vlane (fSrc2 w) i).poison) i = true := by
  try dsimp only
  and_intros <;> first | decide +kernel | (simp only [State.offers, State.cleanSector, exists_some, forall_some, not_core, not_device]; decide +kernel)

theorem wit_st :
    let s : State := running { regs1 with sregs := [(1, sclean 0x7FF80)] };
    let c := 0;
    let g := 0;
    let w : IWord := word 1 1 0 4 0 (rr 0 0);
    let x : Grp := s.grp c g;
    let ls : List ℕ := lanesOf (x.active (fGuard w));
    let n := 2 ^ bf w 38 37;
    let addr : ℕ → ℕ := x.laneOffset w;
    let bad : ℕ → Bool := x.laneOffsetPoison w;
    s.offers c g [fSrc2 w, fDst w] ∧
    (lowM w (decide (bf w 40 39 = 1)) && decide (bf w 40 39 ≠ 3) && decide (bf w 38 37 ≠ 3) && !bit w 36) = true ∧
    ∀ i ∈ ls, bad i = false ∧ addr i % n = 0 ∧ addr i + n ≤ 2 ^ 19 ∧ s.cleanSector c (addr i) := by
  try dsimp only
  and_intros <;> first | decide +kernel | (simp only [State.offers, State.cleanSector, exists_some, forall_some, not_core, not_device]; decide +kernel)

theorem wit_stUniform :
    let s : State := running { regs1 with sregs := [(1, sclean 0x7FFFE)] };
    let c := 0;
    let g := 0;
    let w : IWord := word 1 1 1 18 0 (rr 0 0);
    let x : Grp := s.grp c g;
    let ls : List ℕ := lanesOf (x.active (fGuard w));
    let n := 2 ^ bf w 38 37;
    let addr : ℕ → ℕ := x.laneOffset w;
    let bad : ℕ → Bool := x.laneOffsetPoison w;
    s.offers c g [fSrc2 w, fDst w] ∧
    (lowM w (decide (bf w 40 39 = 1)) && decide (bf w 40 39 ≠ 3) && decide (bf w 38 37 ≠ 3) && !bit w 36) = true ∧
    ∀ i ∈ ls, bad i = false ∧ addr i % n = 0 ∧ addr i + n ≤ 2 ^ 19 ∧ s.cleanSector c (addr i) := by
  try dsimp only
  and_intros <;> first | decide +kernel | (simp only [State.offers, State.cleanSector, exists_some, forall_some, not_core, not_device]; decide +kernel)

theorem wit_stAddress :
    let s : State := running { regs1 with sregs := [(1, sclean 0x7FFE1)] };
    let c := 0;
    let g := 0;
    let w : IWord := word 1 1 0 0 0 (rr 0 0);
    let x : Grp := s.grp c g;
    let ls : List ℕ := lanesOf (x.active (fGuard w));
    let n := 2 ^ bf w 38 37;
    let addr : ℕ → ℕ := x.laneOffset w;
    let bad : ℕ → Bool := x.laneOffsetPoison w;
    s.offers c g [fSrc2 w, fDst w] ∧
    (lowM w (decide (bf w 40 39 = 1)) && decide (bf w 40 39 ≠ 3) && decide (bf w 38 37 ≠ 3) && !bit w 36) = true ∧
    ∃ i ∈ ls, bad i = false ∧ (addr i % n ≠ 0 ∨ 2 ^ 19 < addr i + n) := by
  try dsimp only
  and_intros <;> first | decide +kernel | (simp only [State.offers, State.cleanSector, exists_some, forall_some, not_core, not_device]; decide +kernel)

theorem wit_gather :
    let s : State := cached (oneLane 0xFFFC);
    let c := 0;
    let g := 0;
    let w : IWord := word 63 1 0 24 0 (rr 62 0 + 4096 * 0x3FFF);
    let x : Grp := s.grp c g;
    let ls : List ℕ := lanesOf (x.active (fGuard w));
    let n := 2 ^ bf w 39 38;
    let part := partOf (x.job.getD 0);
    let cached : Bool → ℕ → Prop := fun (write : Bool) (va : ℕ) => va < 2 ^ 52 ∧ x.unmapped.contains (pageOf va) = false ∧ ∃ (l :
      Leaf), s.tlbFind c part va = some l ∧ (write = true → l.writable = true) ∧ ¬(l.kind = 2 ∧ l.prot = true);
    s.offers c g [fSrc2 w, fDst w] ∧ List.length x.slots < 64 ∧ lowG w = true ∧ ∀ i ∈ ls, x.laneVaPoison w i = false ∧
    x.laneVa w i % n = 0 ∧ cached false (x.laneVa w i) := by
  try dsimp only
  and_intros <;> first | decide +kernel | (simp only [State.offers, State.cleanSector, exists_some, forall_some, not_core, not_device]; decide +kernel)

theorem wit_scatter :
    let s : State := cached (oneLane 0xFFFF);
    let c := 0;
    let g := 0;
    let w : IWord := word 63 1 0 0 0 (rr 62 0 + 4096);
    let x : Grp := s.grp c g;
    let ls : List ℕ := lanesOf (x.active (fGuard w));
    let n := 2 ^ bf w 39 38;
    let part := partOf (x.job.getD 0);
    let cached : Bool → ℕ → Prop := fun (write : Bool) (va : ℕ) => va < 2 ^ 52 ∧ x.unmapped.contains (pageOf va) = false ∧ ∃ (l :
      Leaf), s.tlbFind c part va = some l ∧ (write = true → l.writable = true) ∧ ¬(l.kind = 2 ∧ l.prot = true);
    s.offers c g [fSrc2 w, fDst w] ∧ List.length x.slots < 64 ∧ lowG w = true ∧ bit w 40 = false ∧
    noDup (List.map (x.laneVa w) ls) = true ∧ ∀ i ∈ ls, x.laneVaPoison w i = false ∧ x.laneVa w i % n = 0 ∧
    cached true (x.laneVa w i) := by
  try dsimp only
  and_intros <;> first | decide +kernel | (simp only [State.offers, State.cleanSector, exists_some, forall_some, not_core, not_device]; decide +kernel)

theorem wit_dkZero :
    let s : State := cached (oneLane 0xFFFF);
    let c := 0;
    let g := 0;
    let w : IWord := word 0 1 0 0 0 0;
    let x : Grp := s.grp c g;
    let part := partOf (x.job.getD 0);
    let cached : Bool → ℕ → Prop := fun (write : Bool) (va : ℕ) => va < 2 ^ 52 ∧ x.unmapped.contains (pageOf va) = false ∧ ∃ (l :
      Leaf), s.tlbFind c part va = some l ∧ (write = true → l.writable = true) ∧ ¬(l.kind = 2 ∧ l.prot = true);
    let a : SReg := x.sreg (fSrc1 w);
    s.offers c g [fSrc2 w, fDst w] ∧ List.length x.slots < 64 ∧
    (plainGroup w && decide (fMod w = 0) && decide (fDst w = 0) && decide (fSrc1 w < 32) && decide (fImm w = 0)) = true ∧
    a.poison = false ∧ cached true (BitVec.toNat a.val) := by
  try dsimp only
  and_intros <;> first | decide +kernel | (simp only [State.offers, State.cleanSector, exists_some, forall_some, not_core, not_device]; decide +kernel)

theorem wit_gathered :
    let s : State := withSlot (slotOf .gather true (.hbm 0) (.hbm 32));
    let c := 0;
    let g := 0;
    let i := 5;
    let k : Slot := slotOf .gather true (.hbm 0) (.hbm 32);
    let x : Grp := s.grp c g;
    c < 384 ∧ g < 16 ∧ s.clocksStopped = false ∧ (s.grp c g).slot i = some k ∧
    noDup (List.map (fun (x : LaneReq) => x.lane) k.lanes) = true ∧ k.kind = SlotKind.gather ∧ k.arrived = true ∧
    (k.fixed = false ∨ k.due ≤ s.grpNow x) := by
  dsimp only
  decide +kernel

theorem wit_gatherHost :
    let s : State := withSlot (slotOf .gather false (.host 28) (.host 64));
    let c := 0;
    let g := 0;
    let i := 5;
    let k : Slot := slotOf .gather false (.host 28) (.host 64);
    let e : GatherData := ⟨[], 0xFFFFFFFF⟩;
    let x : Grp := s.grp c g;
    c < 384 ∧ g < 16 ∧ s.clocksStopped = false ∧ (s.grp c g).slot i = some k ∧
    noDup (List.map (fun (x : LaneReq) => x.lane) k.lanes) = true ∧ k.kind = SlotKind.gather ∧ k.arrived = false ∧
    x.blocked k = false ∧ k.fixed = false ∧ (∀ r ∈ k.lanes, r.target.isHost = true ∧ r.got = false ∧ bit e.lanes r.lane = true) ∧
    s.crossErr = [] := by
  dsimp only
  decide +kernel

theorem wit_scatterHost :
    let s : State := withSlot (slotOf .scatter false (.host 28) (.host 64));
    let c := 0;
    let g := 0;
    let i := 5;
    let k : Slot := slotOf .scatter false (.host 28) (.host 64);
    let j := 0;
    let b : Job := job0;
    let x : Grp := s.grp c g;
    c < 384 ∧ g < 16 ∧ s.clocksStopped = false ∧ (s.grp c g).slot i = some k ∧
    noDup (List.map (fun (x : LaneReq) => x.lane) k.lanes) = true ∧ k.kind = SlotKind.scatter ∧ x.blocked k = false ∧
    (∀ r ∈ k.lanes, r.target.isHost = true) ∧ x.job = some j ∧ s.job j = some b := by
  dsimp only
  decide +kernel

theorem wit_gatherEnds :
    let s : State := withSlot (slotOf .gather false (.hbm 0) (.deck 64));
    let c := 0;
    let g := 0;
    let i := 5;
    let k : Slot := slotOf .gather false (.hbm 0) (.deck 64);
    let e : GatherData := ⟨[], 0xFFFFFFFF⟩;
    let x : Grp := s.grp c g;
    c < 384 ∧ g < 16 ∧ s.clocksStopped = false ∧ (s.grp c g).slot i = some k ∧ k.kind = SlotKind.gather ∧ x.blocked k = false ∧
    k.fixed = false ∧ ∀ r ∈ k.lanes, r.got = true ∨ bit e.lanes r.lane = true := by
  dsimp only
  decide +kernel

theorem wit_scatterEnds :
    let s : State := withSlot (slotOf .scatter false (.hbm 0) (.deck 64));
    let c := 0;
    let g := 0;
    let i := 5;
    let k : Slot := slotOf .scatter false (.hbm 0) (.deck 64);
    let x : Grp := s.grp c g;
    c < 384 ∧ g < 16 ∧ s.clocksStopped = false ∧ (s.grp c g).slot i = some k ∧ k.kind = SlotKind.scatter ∧ x.blocked k = false := by
  dsimp only
  decide +kernel

theorem wit_zeroEnds :
    let s : State := withSlot (slotOf .zero false (.hbm 0) (.deck 64));
    let c := 0;
    let g := 0;
    let i := 5;
    let k : Slot := slotOf .zero false (.hbm 0) (.deck 64);
    c < 384 ∧ g < 16 ∧ s.clocksStopped = false ∧ (s.grp c g).slot i = some k ∧ k.kind = SlotKind.zero := by
  dsimp only
  decide +kernel

theorem wit_mxCfg :
    let s : State := running { regs1 with sregs := [(1, sclean 0xB800000000000000)] };
    let c := 0;
    let g := 0;
    let w : IWord := word 0 1 0 0 0 0;
    let x : Grp := s.grp c g;
    let v : SReg := x.sreg (fSrc1 w);
    s.offers c g [] ∧ (s.core c).arr.pendSplit = none ∧
    (plainGroup w && decide (fMod w = 0) && regs w 1 32 && decide (fImm w = 0)) = true ∧ v.poison = false ∧ cfgOk v.val = false := by
  try dsimp only
  and_intros <;> first | decide +kernel | (simp only [State.offers, State.cleanSector, exists_some, forall_some, not_core, not_device]; decide +kernel)

theorem wit_mxCfgOk :
    let s : State := running { regs1 with sregs := [(1, sclean 0xBC20000000000000)] };
    let c := 0;
    let g := 0;
    let w : IWord := word 0 1 0 0 0 0;
    let x : Grp := s.grp c g;
    let k : Core := s.core c;
    let a : Arr := k.arr;
    let v : SReg := x.sreg (fSrc1 w);
    s.offers c g [] ∧ (s.core c).arr.pendSplit = none ∧
    (plainGroup w && decide (fMod w = 0) && regs w 1 32 && decide (fImm w = 0)) = true ∧ v.poison = false ∧ cfgOk v.val = true ∧
    a.modeOk (cfgTarget v.val) = true ∧ a.ownerOk (cfgTarget v.val) g = true := by
  try dsimp only
  and_intros <;> first | decide +kernel | (simp only [State.offers, State.cleanSector, exists_some, forall_some, not_core, not_device]; decide +kernel)

theorem wit_mxCfgMode :
    let s : State := running { regs1 with sregs := [(1, sclean 0x0040080000000000)] };
    let c := 0;
    let g := 0;
    let w : IWord := word 0 1 0 0 0 0;
    let x : Grp := s.grp c g;
    let k : Core := s.core c;
    let a : Arr := k.arr;
    let v : SReg := x.sreg (fSrc1 w);
    s.offers c g [] ∧ (s.core c).arr.pendSplit = none ∧
    (plainGroup w && decide (fMod w = 0) && regs w 1 32 && decide (fImm w = 0)) = true ∧ v.poison = false ∧ cfgOk v.val = true ∧
    a.modeOk (cfgTarget v.val) = false := by
  try dsimp only
  and_intros <;> first | decide +kernel | (simp only [State.offers, State.cleanSector, exists_some, forall_some, not_core, not_device]; decide +kernel)

theorem wit_mxCfgOwner :
    let s : State := withArr { regs1 with sregs := [(1, sclean 0x0040080000000000)] }
      { Arr.reset with split := true, own0 := 15 };
    let c := 0;
    let g := 0;
    let w : IWord := word 0 1 0 0 0 0;
    let x : Grp := s.grp c g;
    let k : Core := s.core c;
    let a : Arr := k.arr;
    let v : SReg := x.sreg (fSrc1 w);
    s.offers c g [] ∧ (s.core c).arr.pendSplit = none ∧
    (plainGroup w && decide (fMod w = 0) && regs w 1 32 && decide (fImm w = 0)) = true ∧ v.poison = false ∧ cfgOk v.val = true ∧
    a.modeOk (cfgTarget v.val) = true ∧ a.ownerOk (cfgTarget v.val) g = false := by
  try dsimp only
  and_intros <;> first | decide +kernel | (simp only [State.offers, State.cleanSector, exists_some, forall_some, not_core, not_device]; decide +kernel)

theorem wit_mxRun :
    let s : State := withArr { regs1 with sregs := [(1, sclean 0x7F000)] }
      { Arr.reset with queues := [(0, [.run runOp true, .run runOp false, .run runOp false])] };
    let c := 0;
    let g := 0;
    let w : IWord := word 0 1 0 6 0 (rr 0 0);
    let x : Grp := s.grp c g;
    let k : Core := s.core c;
    let a : Arr := k.arr;
    let t := fTarget w;
    let v : SReg := x.sreg (fSrc1 w);
    let u : SReg := x.sreg (fSrc2 w);
    let ra : List (ℕ × ℕ) := rowsA (a.cfgOf t) (bf v.val 18 0) (bf v.val 50 32);
    let rb : List (ℕ × ℕ) := rowsB (a.cfgOf t) t (bf u.val 18 0) (bf u.val 50 32);
    s.offers c g [] ∧ (s.core c).arr.pendSplit = none ∧
    (plainGroup w && regs w 1 32 && lowRR w 32 1 && decide (t ≠ 3) && !bit w 36) = true ∧ v.poison = false ∧ u.poison = false ∧
    cfgOk (a.cfgOf t) = true ∧ a.modeOk t = true ∧ a.ownerOk t g = true ∧ bf v.val 18 0 % 32 = 0 ∧ bf u.val 18 0 % 32 = 0 ∧
    (hasScale (cfgFmtA (a.cfgOf t)) = true → bf v.val 50 32 % 32 = 0) ∧
    (hasScale (cfgFmtB (a.cfgOf t)) = true → bf u.val 50 32 % 32 = 0) ∧ (∀ r ∈ ra ++ rb, r.1 + r.2 ≤ 2 ^ 19) ∧
    (a.queue t).length < 4 := by
  try dsimp only
  and_intros <;> first | decide +kernel | (simp only [State.offers, State.cleanSector, exists_some, forall_some, not_core, not_device]; decide +kernel)

theorem wit_mxRunFull :
    let s : State := withArr regs1
      { Arr.reset with queues := [(0, [.run runOp true, .run runOp false, .run runOp false, .drain drainOp false])] };
    let c := 0;
    let g := 0;
    let w : IWord := word 0 0 0 0 0 (rr 0 0);
    let x : Grp := s.grp c g;
    let k : Core := s.core c;
    let a : Arr := k.arr;
    let t := fTarget w;
    let v : SReg := x.sreg (fSrc1 w);
    let u : SReg := x.sreg (fSrc2 w);
    let ra : List (ℕ × ℕ) := rowsA (a.cfgOf t) (bf v.val 18 0) (bf v.val 50 32);
    let rb : List (ℕ × ℕ) := rowsB (a.cfgOf t) t (bf u.val 18 0) (bf u.val 50 32);
    s.offers c g [] ∧ (s.core c).arr.pendSplit = none ∧
    (plainGroup w && regs w 1 32 && lowRR w 32 1 && decide (t ≠ 3) && !bit w 36) = true ∧ v.poison = false ∧ u.poison = false ∧
    cfgOk (a.cfgOf t) = true ∧ a.modeOk t = true ∧ a.ownerOk t g = true ∧ bf v.val 18 0 % 32 = 0 ∧ bf u.val 18 0 % 32 = 0 ∧
    (hasScale (cfgFmtA (a.cfgOf t)) = true → bf v.val 50 32 % 32 = 0) ∧
    (hasScale (cfgFmtB (a.cfgOf t)) = true → bf u.val 50 32 % 32 = 0) ∧ (∀ r ∈ ra ++ rb, r.1 + r.2 ≤ 2 ^ 19) ∧
    4 ≤ (a.queue t).length := by
  try dsimp only
  and_intros <;> first | decide +kernel | (simp only [State.offers, State.cleanSector, exists_some, forall_some, not_core, not_device]; decide +kernel)

theorem wit_mxDrain :
    let s : State := running { regs1 with sregs := [(1, sclean 0x000000800007F000)] };
    let c := 0;
    let g := 0;
    let w : IWord := word 0 1 0 4 0 0;
    let x : Grp := s.grp c g;
    let k : Core := s.core c;
    let a : Arr := k.arr;
    let t := fTarget w;
    let v : SReg := x.sreg (fSrc1 w);
    s.offers c g [] ∧ (s.core c).arr.pendSplit = none ∧
    (plainGroup w && regs w 1 32 && lowRR w 1 1 && decide (t ≠ 3) && decide (bf w 37 36 = 0)) = true ∧ v.poison = false ∧
    a.modeOk t = true ∧ a.ownerOk t g = true ∧ bf v.val 18 0 % 32 = 0 ∧ bf v.val 50 32 % 32 = 0 ∧
    4 * targetCols t ≤ bf v.val 50 32 ∧ bf v.val 18 0 + 31 * bf v.val 50 32 + 4 * targetCols t ≤ 2 ^ 19 ∧ (a.queue t).length < 4 := by
  try dsimp only
  and_intros <;> first | decide +kernel | (simp only [State.offers, State.cleanSector, exists_some, forall_some, not_core, not_device]; decide +kernel)

theorem wit_mxSplit :
    let s : State := running regs1;
    let c := 0;
    let g := 0;
    let w : IWord := word 0 0 0 0x10 0 0;
    let k : Core := s.core c;
    let a : Arr := k.arr;
    s.offers c g [] ∧ (s.core c).arr.pendSplit = none ∧
    (plainGroup w && regs w 1 1 && modOnly w 16 && decide (bf w 7 4 = 0) && decide (bf w 31 12 = 0)) = true ∧
    (bit w 40 = true → (s.grp c (bf w 3 0)).job.isSome = true ∧ (s.grp c (bf w 11 8)).job.isSome = true) ∧ a.queues = [] := by
  try dsimp only
  and_intros <;> first | decide +kernel | (simp only [State.offers, State.cleanSector, exists_some, forall_some, not_core, not_device]; decide +kernel)

theorem wit_runStart :
    let s : State := withArr regs1 { Arr.reset with queues := [(2, [.run runOp false])] };
    let c := 0;
    let t := 2;
    let rest : List ArrOp := [];
    let r : RunOp := runOp;
    let k : Core := s.core c;
    c < 384 ∧ t < 3 ∧ s.coreAlive c = true ∧ k.bulk = 0 ∧ k.arr.queue t = ArrOp.run r false :: rest ∧ s.slipped r.job = false := by
  dsimp only
  decide +kernel

theorem wit_drainStart :
    let s : State := withArr regs1 { Arr.reset with queues := [(0, [.drain drainOp false])] };
    let c := 0;
    let t := 0;
    let rest : List ArrOp := [];
    let d : DrainOp := drainOp;
    let k : Core := s.core c;
    c < 384 ∧ t < 3 ∧ s.coreAlive c = true ∧ k.bulk = 0 ∧ k.arr.queue t = ArrOp.drain d false :: rest ∧ s.slipped d.job = false := by
  dsimp only
  decide +kernel

theorem wit_runEndAdd :
    let s : State := withArr regs1 { Arr.reset with queues := [(0, [.run { runOp with add := true } true])] };
    let c := 0;
    let t := 0;
    let rest : List ArrOp := [];
    let r : RunOp := { runOp with add := true };
    let k : Core := s.core c;
    c < 384 ∧ t < 3 ∧ s.coreAlive c = true ∧ k.bulk = 0 ∧ k.arr.queue t = ArrOp.run r true :: rest := by
  dsimp only
  decide +kernel

theorem wit_runEnd :
    let s : State := withArr regs1 { Arr.reset with queues := [(0, [.run runOp true])] };
    let c := 0;
    let t := 0;
    let rest : List ArrOp := [];
    let r : RunOp := runOp;
    let k : Core := s.core c;
    c < 384 ∧ t < 3 ∧ s.coreAlive c = true ∧ k.bulk = 0 ∧ k.arr.queue t = ArrOp.run r true :: rest := by
  dsimp only
  decide +kernel

theorem wit_drainEnd :
    let s : State := withArr regs1 { Arr.reset with queues := [(0, [.drain drainOp true, .run runOp false])] };
    let c := 0;
    let t := 0;
    let rest : List ArrOp := [.run runOp false];
    let d : DrainOp := drainOp;
    let k : Core := s.core c;
    c < 384 ∧ t < 3 ∧ s.coreAlive c = true ∧ k.bulk = 0 ∧ k.arr.queue t = ArrOp.drain d true :: rest ∧
    4 * targetCols t ≤ d.stride ∧ d.base % 32 = 0 ∧ d.stride % 32 = 0 ∧ d.base + 31 * d.stride + 4 * targetCols t ≤ 2 ^ 19 := by
  dsimp only
  decide +kernel

theorem wit_splitEffect :
    let s : State := withArr regs1 { Arr.reset with pendSplit := some { group := 0, split := true, own0 := 0, own1 := 15 } };
    let c := 0;
    let t := 0;
    let p : PendSplit := { group := 0, split := true, own0 := 0, own1 := 15 };
    let k : Core := s.core c;
    c < 384 ∧ t < 3 ∧ s.clocksStopped = false ∧ k.arr.pendSplit = some p ∧ k.arr.queues = [] := by
  dsimp only
  decide +kernel

theorem wit_bulkEnd :
    let c := 383;
    let t := 2;
    c < 384 ∧ t < 3 := by
  dsimp only
  decide +kernel

theorem wit_semWait :
    let s : State := withCluster { Cluster.reset with sem := [(255, 0xFFFF)] } |> fun s =>
      { s with cores := (running regs1).cores };
    let c := 0;
    let g := 0;
    let w : IWord := word 0 0 0 0 0 0xFFFFFF;
    let x : Grp := s.grp c g;
    let j := x.job.getD 0;
    let cl := s.idCore j c / 8;
    let k : Cluster := s.cluster cl;
    let n := fSem w;
    let cnt := BitVec.toNat (k.sem.get n 0);
    let q : List SemWait := k.semQ.get n [];
    s.offers c g [] ∧ (lowControl w 1 1 && semOk w) = true ∧ q = [] ∧ fCount w ≤ cnt := by
  try dsimp only
  and_intros <;> first | decide +kernel | (simp only [State.offers, State.cleanSector, exists_some, forall_some, not_core, not_device]; decide +kernel)

theorem wit_semWaits :
    let s : State := running regs1;
    let c := 0;
    let g := 0;
    let w : IWord := word 0 0 0 0 0 0x100;
    let x : Grp := s.grp c g;
    let j := x.job.getD 0;
    let cl := s.idCore j c / 8;
    let k : Cluster := s.cluster cl;
    let n := fSem w;
    let cnt := BitVec.toNat (k.sem.get n 0);
    let q : List SemWait := k.semQ.get n [];
    s.offers c g [] ∧ (lowControl w 1 1 && semOk w) = true ∧ (q ≠ [] ∨ cnt < fCount w) := by
  try dsimp only
  and_intros <;> first | decide +kernel | (simp only [State.offers, State.cleanSector, exists_some, forall_some, not_core, not_device]; decide +kernel)

theorem wit_semPost :
    let s : State := running regs1;
    let c := 0;
    let g := 0;
    let w : IWord := word 0 0 0 0 0 0xFFFFFF;
    let d := 0;
    let x : Grp := s.grp c g;
    let j := x.job.getD 0;
    let cl := s.idCore j c / 8;
    let a : SReg := x.sreg (fSrc1 w);
    s.offers c g [] ∧ (lowControl w 1 32 && semOk w) = true ∧ a.poison = false ∧ s.postTarget j cl a.val = PostTarget.own d := by
  try dsimp only
  and_intros <;> first | decide +kernel | (simp only [State.offers, State.cleanSector, exists_some, forall_some, not_core, not_device]; decide +kernel)

theorem wit_semPostBad :
    let s : State := running regs1;
    let c := 0;
    let g := 0;
    let w : IWord := word 0 1 0 0 0 0x100;
    let x : Grp := s.grp c g;
    let j := x.job.getD 0;
    let cl := s.idCore j c / 8;
    let a : SReg := x.sreg (fSrc1 w);
    s.offers c g [] ∧ (lowControl w 1 32 && semOk w) = true ∧ a.poison = false ∧ s.postTarget j cl a.val = PostTarget.bad := by
  try dsimp only
  and_intros <;> first | decide +kernel | (simp only [State.offers, State.cleanSector, exists_some, forall_some, not_core, not_device]; decide +kernel)

theorem wit_semPostPoison :
    let s : State := running regs1;
    let c := 0;
    let g := 0;
    let w : IWord := word 0 2 0 0 0 0x100;
    let x : Grp := s.grp c g;
    let a : SReg := x.sreg (fSrc1 w);
    s.offers c g [] ∧ (lowControl w 1 32 && semOk w) = true ∧ a.poison = true := by
  try dsimp only
  and_intros <;> first | decide +kernel | (simp only [State.offers, State.cleanSector, exists_some, forall_some, not_core, not_device]; decide +kernel)

theorem wit_tickWait :
    let s : State := running regs1;
    let c := 0;
    let g := 0;
    let w : IWord := word 0 1 0 0 0 5;
    let x : Grp := s.grp c g;
    let a : SReg := x.sreg (fSrc1 w);
    s.offers c g [] ∧ lowControl w 1 32 = true ∧ a.poison = false ∧ BitVec.toNat (a.val + imm64 w) ≤ s.grpNow x := by
  try dsimp only
  and_intros <;> first | decide +kernel | (simp only [State.offers, State.cleanSector, exists_some, forall_some, not_core, not_device]; decide +kernel)

theorem wit_tickWaits :
    let s : State := running regs1;
    let c := 0;
    let g := 0;
    let w : IWord := word 0 1 0 0 0 6;
    let x : Grp := s.grp c g;
    let a : SReg := x.sreg (fSrc1 w);
    s.offers c g [] ∧ lowControl w 1 32 = true ∧ a.poison = false ∧ s.grpNow x < BitVec.toNat (a.val + imm64 w) := by
  try dsimp only
  and_intros <;> first | decide +kernel | (simp only [State.offers, State.cleanSector, exists_some, forall_some, not_core, not_device]; decide +kernel)

theorem wit_postSent :
    let s : State := running { regs1 with posts := [{ dev := 0, cluster := 1, sem := 255, count := 0xFFFF, waits := [] }] };
    let c := 0;
    let g := 0;
    let i := 0;
    let p : Post := { dev := 0, cluster := 1, sem := 255, count := 0xFFFF, waits := [] };
    let j := 0;
    let x : Grp := s.grp c g;
    c < 384 ∧ g < 16 ∧ s.clocksStopped = false ∧ x.posts[i]? = some p ∧ x.job = some j ∧ p.waits = [] ∧
    (p.dev ≠ s.device ∨ p.cluster ≠ s.idCore j c / 8) := by
  dsimp only
  decide +kernel

theorem wit_postEffect :
    let s : State := running { regs1 with posts := [{ dev := 0, cluster := 0, sem := 255, count := 0xFFFF, waits := [] }] };
    let c := 0;
    let g := 0;
    let i := 0;
    let p : Post := { dev := 0, cluster := 0, sem := 255, count := 0xFFFF, waits := [] };
    let j := 0;
    let x : Grp := s.grp c g;
    let sum := BitVec.toNat ((s.cluster p.cluster).sem.get p.sem 0) + p.count;
    c < 384 ∧ g < 16 ∧ s.clocksStopped = false ∧ x.posts[i]? = some p ∧ x.job = some j ∧ p.waits = [] ∧ p.dev = s.device ∧
    p.cluster = s.idCore j c / 8 ∧ (s.cluster p.cluster).semQ.get p.sem [] = [] ∧ sum < 2 ^ 32 := by
  dsimp only
  decide +kernel

theorem wit_postOverflow :
    let s : State :=
      { running { regs1 with posts := [{ dev := 0, cluster := 0, sem := 255, count := 1, waits := [] }] } with clusters := [(0, { Cluster.reset with sem := [(255, 0xFFFFFFFF)] })] };
    let c := 0;
    let g := 0;
    let i := 0;
    let p : Post := { dev := 0, cluster := 0, sem := 255, count := 1, waits := [] };
    let j := 0;
    let b : Job := job0;
    let x : Grp := s.grp c g;
    let sum := BitVec.toNat ((s.cluster p.cluster).sem.get p.sem 0) + p.count;
    c < 384 ∧ g < 16 ∧ s.clocksStopped = false ∧ x.posts[i]? = some p ∧ x.job = some j ∧ p.waits = [] ∧ p.dev = s.device ∧
    p.cluster = s.idCore j c / 8 ∧ (s.cluster p.cluster).semQ.get p.sem [] = [] ∧ 2 ^ 32 ≤ sum ∧ s.job j = some b ∧
    b.onUnits = true ∧ b.ending = none := by
  dsimp only
  decide +kernel

theorem wit_tickReached :
    let s : State :=
      { busy with cores := [(0, { Core.reset with groups := [(0, { regs1 with job := some 0, run := .parked (.tick 10) })] })] };
    let c := 0;
    let g := 0;
    let v : Word64 := 10;
    let x : Grp := s.grp c g;
    c < 384 ∧ g < 16 ∧ s.clocksStopped = false ∧ x.run = RunState.parked (Park.tick v) ∧ BitVec.toNat v ≤ s.grpNow x := by
  dsimp only
  decide +kernel

theorem wit_dmaEnq :
    let s : State := withBlock (running { regs1 with sregs := [(1, sclean 64)] }) descWords;
    let c := 0;
    let g := 0;
    let w : IWord := word 0 1 0 0 0 0;
    let x : Grp := s.grp c g;
    let j := x.job.getD 0;
    let sc := s.idCore j c;
    let k : Cluster := s.cluster (sc / 8);
    let a : SReg := x.sreg (fSrc1 w);
    let o := BitVec.toNat a.val;
    let q := bf w 1 0;
    let ds : List Desc := k.dma.get q [];
    let ws : List (BitVec 64) := List.map (fun (i : ℕ) => BitVec.ofNat 64 (fromLe (s.storeBytes c (o + 8 * i) 8))) (List.range 8);
    s.offers c g [] ∧ a.poison = false ∧ o % 32 = 0 ∧ o + 64 ≤ 2 ^ 19 ∧ s.drainPending c g [(o, 64)] = false ∧ s.cleanSector c o ∧
    s.cleanSector c (o + 32) ∧ (lowControl w 1 32 && decide (bf w 31 2 = 0)) = true ∧ s.ownsQueue j (sc / 8) q = true ∧
    s.descOk (partOf j) ws = true ∧ ds.length < 64 := by
  try dsimp only
  and_intros <;> first | decide +kernel | (simp only [State.offers, State.cleanSector, exists_some, forall_some, not_core, not_device]; decide +kernel)

theorem wit_dmaEnqFull :
    let s : State := withBlock
      { running { regs1 with sregs := [(1, sclean 64)] } with clusters := [(0, { Cluster.reset with dma := [(0, List.replicate 64 desc0)] })] }
      descWords;
    let c := 0;
    let g := 0;
    let w : IWord := word 0 1 0 0 0 0;
    let x : Grp := s.grp c g;
    let j := x.job.getD 0;
    let sc := s.idCore j c;
    let k : Cluster := s.cluster (sc / 8);
    let a : SReg := x.sreg (fSrc1 w);
    let o := BitVec.toNat a.val;
    let q := bf w 1 0;
    let ds : List Desc := k.dma.get q [];
    let ws : List (BitVec 64) := List.map (fun (i : ℕ) => BitVec.ofNat 64 (fromLe (s.storeBytes c (o + 8 * i) 8))) (List.range 8);
    s.offers c g [] ∧ a.poison = false ∧ o % 32 = 0 ∧ o + 64 ≤ 2 ^ 19 ∧ s.drainPending c g [(o, 64)] = false ∧ s.cleanSector c o ∧
    s.cleanSector c (o + 32) ∧ (lowControl w 1 32 && decide (bf w 31 2 = 0)) = true ∧ s.ownsQueue j (sc / 8) q = true ∧
    s.descOk (partOf j) ws = true ∧ 64 ≤ ds.length := by
  try dsimp only
  and_intros <;> first | decide +kernel | (simp only [State.offers, State.cleanSector, exists_some, forall_some, not_core, not_device]; decide +kernel)

theorem wit_embSub :
    let s : State := withBlock (running { regs1 with sregs := [(1, sclean 0x7FFC0)] }) [];
    let c := 0;
    let g := 0;
    let w : IWord := word 0 1 0 0 0 0;
    let x : Grp := s.grp c g;
    let j := x.job.getD 0;
    let sc := s.idCore j c;
    let k : Cluster := s.cluster (sc / 8);
    let a : SReg := x.sreg (fSrc1 w);
    let o := BitVec.toNat a.val;
    let r : List Word64 → LookReq := fun (u : List Word64) =>
      { source := LookupSource.prog j sc g (bf w 11 0), part := partOf j, words := u, epoch := s.grpEpoch x };
    s.offers c g [] ∧ a.poison = false ∧ o % 32 = 0 ∧ o + 64 ≤ 2 ^ 19 ∧ s.drainPending c g [(o, 64)] = false ∧ s.cleanSector c o ∧
    s.cleanSector c (o + 32) ∧ (lowControl w 1 32 && decide (bf w 31 12 = 0)) = true ∧ (s.template j (bf w 11 0)).isSome = true ∧
    (∀ y ∈ k.lookWait, y ≠ r []) ∧ k.lookups.length + k.lookWait.length < 8 := by
  try dsimp only
  and_intros <;> first | decide +kernel | (simp only [State.offers, State.cleanSector, exists_some, forall_some, not_core, not_device]; decide +kernel)

theorem wit_dmaAccept :
    let s : State := withDesc desc0;
    let cl := 0;
    let q := 3;
    let i := 0;
    let d : Desc := desc0;
    let b : Job := job0;
    let ls : List Leaf := [];
    let ld : List Leaf := [page 0 0xC400000000010000];
    let ds : List Desc := (s.cluster cl).dma.get q [];
    let src : Endpoint := s.descSrc cl d;
    let dst : Endpoint := s.descDst cl d;
    let n := s.destLength src dst d.length;
    cl < 48 ∧ q < 4 ∧ ds[i]? = some d ∧ d.accepted = false ∧ (∀ x ∈ List.take i ds, x.accepted = true) ∧ s.clocksStopped = false ∧
    s.job d.job = some b ∧ s.slipped d.job = false ∧ (s.endServed cl src d.length && s.endServed cl dst n) = true ∧
    s.endLeaves cl src d.length false = Except.ok ls ∧ s.endLeaves cl dst n true = Except.ok ld ∧
    s.rev2Refusal (ls ++ ld) = none ∧
    (ld.any Leaf.isHost = true → d.fixed = false → BitVec.toNat ((s.cluster cl).sem.get d.sem 0) + 1 < 2 ^ 32) := by
  dsimp only
  decide +kernel

theorem wit_dmaRefused :
    let s : State := withDesc { desc0 with words := [0x8000000, 0x1000000000000000, 0x00000020FF000001, 0, 0, 0, 0, 0] };
    let cl := 0;
    let q := 3;
    let i := 0;
    let d : Desc := { desc0 with words := [0x8000000, 0x1000000000000000, 0x00000020FF000001, 0, 0, 0, 0, 0] };
    let b : Job := job0;
    let e : Refuse × ℕ := ((Refuse.unmapped, 0x8000000) : Refuse × Nat);
    let ds : List Desc := (s.cluster cl).dma.get q [];
    let src : Endpoint := s.descSrc cl d;
    let dst : Endpoint := s.descDst cl d;
    let n := s.destLength src dst d.length;
    cl < 48 ∧ q < 4 ∧ ds[i]? = some d ∧ d.accepted = false ∧ (∀ x ∈ List.take i ds, x.accepted = true) ∧ s.clocksStopped = false ∧
    s.job d.job = some b ∧ s.slipped d.job = false ∧ (s.endServed cl src d.length && s.endServed cl dst n) = true ∧
    s.endLeaves cl src d.length false = Except.error e := by
  dsimp only
  decide +kernel

theorem wit_dmaComplete :
    let s : State := withDesc { desc0 with accepted := true };
    let cl := 0;
    let q := 3;
    let i := 0;
    let d : Desc := { desc0 with accepted := true };
    let b : Job := job0;
    let ds : List Desc := (s.cluster cl).dma.get q [];
    let dst : Endpoint := s.descDst cl d;
    let far : Option (ℕ × ℕ × ℕ) := (s.under d.leaves).remoteDst dst;
    let n : Word32 := (s.cluster cl).sem.get d.sem 0;
    cl < 48 ∧ q < 4 ∧ ds[i]? = some d ∧ d.accepted = true ∧ d.held = false ∧ d.moved = false ∧ d.stream = none ∧
    s.clocksStopped = false ∧ s.job d.job = some b ∧ d.fixed = false ∧ BitVec.toNat n + 1 < 2 ^ 32 ∧
    (far.isSome = true → d.elastic = false) := by
  dsimp only
  decide +kernel

theorem wit_dmaKept :
    let s : State := withDesc { desc0 with accepted := true, due := 11, words := listSet descWords 3 4 };
    let cl := 0;
    let q := 3;
    let i := 0;
    let d : Desc := { desc0 with accepted := true, due := 11, words := listSet descWords 3 4 };
    let b : Job := job0;
    let ds : List Desc := (s.cluster cl).dma.get q [];
    let dst : Endpoint := s.descDst cl d;
    let far : Option (ℕ × ℕ × ℕ) := (s.under d.leaves).remoteDst dst;
    cl < 48 ∧ q < 4 ∧ ds[i]? = some d ∧ d.accepted = true ∧ d.held = false ∧ d.moved = false ∧ d.stream = none ∧
    s.clocksStopped = false ∧ s.job d.job = some b ∧ d.fixed = true ∧ b.now < d.due ∧ far = none := by
  dsimp only
  decide +kernel

theorem wit_lookAccept :
    let s : State := withCluster
      { Cluster.reset with lookWait := [{ source := .prog 0 0 0 0, part := 0, words := [0], epoch := 0 }] };
    let cl := 0;
    let r : LookReq := { source := .prog 0 0 0 0, part := 0, words := [0], epoch := 0 };
    let k : Cluster := s.cluster cl;
    cl < 48 ∧ s.clocksStopped = false ∧ List.find? (fun (y : LookReq) => !s.reqSlips y) k.lookWait = some r ∧ r.words ≠ [] ∧
    k.lookups.length < 8 ∧ s.walkStopped (Engine.emb cl) = false := by
  dsimp only
  decide +kernel

theorem wit_lookSort :
    let s : State := withLookup (lookup0 .sorting);
    let cl := 0;
    let i := 0;
    let l : Lookup := lookup0 .sorting;
    let k : Cluster := s.cluster cl;
    cl < 48 ∧ s.clocksStopped = false ∧ k.sortingIndex = some i ∧ k.lookups[i]? = some l ∧ l.sortEnd / 11 ≤ s.tick := by
  dsimp only
  decide +kernel

theorem wit_lookRow :
    let s : State :=
      { withLookup { lookup0 .pooling with todo := [(5, 15)], source := .host (cmd 0 1 []), pins := [{ table := 5, version := 1, ce := 0, slot := 0 }] } with tables := [(5, some table0)] };
    let cl := 0;
    let i := 0;
    let l : Lookup :=
      { lookup0 .pooling with todo := [(5, 15)], source := .host (cmd 0 1 []), pins := [{ table := 5, version := 1, ce := 0, slot := 0 }] };
    let p : Pin := { table := 5, version := 1, ce := 0, slot := 0 };
    let tb : Table := table0;
    let table := 5;
    let index := 15;
    let k : Cluster := s.cluster cl;
    cl < 48 ∧ s.clocksStopped = false ∧ k.lookups[i]? = some l ∧ l.phase = LookupPhase.pooling ∧ (table, index) ∈ l.todo ∧
    (∀ y ∈ k.lookups, y.id = l.id → noDup y.todo = true) ∧ s.isDefault (table, index) = false ∧ l.arrived (table, index) = none ∧
    s.pinnedTable (s.lookupPins l) table = some (p, tb) ∧ tb.owns s.device index = false := by
  dsimp only
  decide +kernel

theorem wit_lookDone :
    let s : State := withLookup (lookup0 .pooling);
    let cl := 0;
    let l : Lookup := lookup0 .pooling;
    let k : Cluster := s.cluster cl;
    cl < 48 ∧ s.clocksStopped = false ∧
    List.find? (fun (y : Lookup) => decide (y.phase = LookupPhase.pooling)) k.lookups = some l ∧ l.todo = [] ∧ l.fixed = false := by
  dsimp only
  decide +kernel

theorem wit_lookKept :
    let s : State := withLookup { lookup0 .pooling with words := [0, 0x0000000100000001, 8] };
    let cl := 0;
    let l : Lookup := { lookup0 .pooling with words := [0, 0x0000000100000001, 8] };
    let k : Cluster := s.cluster cl;
    cl < 48 ∧ s.clocksStopped = false ∧
    List.find? (fun (y : Lookup) => decide (y.phase = LookupPhase.pooling)) k.lookups = some l ∧ l.todo = [] ∧ l.fixed = true ∧
    s.lookupNow l < l.due := by
  dsimp only
  decide +kernel

theorem wit_shard :
    let s : State := { base with tables := [(5, some table0)] };
    let table := 5;
    let index := 14;
    let tb : Table := table0;
    s.clocksStopped = false ∧ s.table table = some tb ∧ tb.owns s.device index = true ∧ index < tb.rows := by
  dsimp only
  decide +kernel

theorem wit_wcetSlot :
    let s : State := withSlot { slotOf .gather false (.hbm 0) (.hbm 32) with due := 10 };
    let c := 0;
    let g := 0;
    let i := 5;
    let k : Slot := { slotOf .gather false (.hbm 0) (.hbm 32) with due := 10 };
    c < 384 ∧ g < 16 ∧ (s.grp c g).slot i = some k ∧ k.kind = SlotKind.gather ∧ k.due ≤ s.grpNow (s.grp c g) ∧
    noDup (List.map (fun (x : LaneReq) => x.lane) k.lanes) = true := by
  dsimp only
  decide +kernel

theorem wit_wcetDma :
    let s : State := withDesc { desc0 with accepted := true, moved := true, due := 10 };
    let cl := 0;
    let q := 3;
    let i := 0;
    let d : Desc := { desc0 with accepted := true, moved := true, due := 10 };
    let b : Job := job0;
    cl < 48 ∧ q < 4 ∧ ((s.cluster cl).dma.get q [])[i]? = some d ∧ s.job d.job = some b ∧ d.accepted = true ∧ d.held = false ∧
    d.moved = true ∧ d.due ≤ b.now ∧ BitVec.toNat ((s.cluster cl).sem.get d.sem 0) + 1 < 2 ^ 32 := by
  dsimp only
  decide +kernel

theorem wit_wcetLook :
    let s : State := withLookup { lookup0 .written with due := 10, words := [0, 0x0000000100000001, 0x10000000000] };
    let cl := 0;
    let i := 0;
    let l : Lookup := { lookup0 .written with due := 10, words := [0, 0x0000000100000001, 0x10000000000] };
    cl < 48 ∧ (s.cluster cl).lookups[i]? = some l ∧ l.wcet ≠ 0 ∧ l.due ≤ s.lookupNow l := by
  dsimp only
  decide +kernel

theorem wit_commitPoint :
    let s : State := withJob { job0 with stick := 500 };
    let j := 0;
    let t := 500;
    let b : Job := { job0 with stick := 500 };
    let img : Image := image0;
    s.job j = some b ∧ s.jobImage b = some img ∧ closeTick img b.epoch = some t ∧ b.inStep = true ∧ b.replayTick = none ∧
    t ≤ b.stick ∧ b.stopAt = none ∧ s.dueReport b = none := by
  dsimp only
  decide +kernel

theorem wit_commitStops :
    let s : State := withJob { job0 with stick := 500, stopAt := some (500, 1) };
    let j := 0;
    let t := 500;
    let b : Job := { job0 with stick := 500, stopAt := some (500, 1) };
    let img : Image := image0;
    let at_ := 500;
    let st := 1;
    s.job j = some b ∧ s.jobImage b = some img ∧ closeTick img b.epoch = some t ∧ b.inStep = true ∧ b.replayTick = none ∧
    t ≤ b.stick ∧ b.stopAt = some (at_, st) ∧ at_ ≤ t := by
  dsimp only
  decide +kernel

theorem wit_slip0 :
    let s : State := withJob { job0 with stick := 600 };
    let j := 0;
    let b : Job := { job0 with stick := 600 };
    let img : Image := image0;
    let t := 600;
    let v := 0;
    s.job j = some b ∧ s.jobImage b = some img ∧ img.slipPoints[b.slipIdx]? = some t ∧ b.inStep = true ∧ t ≤ b.stick ∧
    b.slipSets.get (b.slipIdx % 256) 0 = v ∧ v = 0 := by
  dsimp only
  decide +kernel

theorem wit_slip1 :
    let s : State := withJob { job0 with stick := 600, slipSets := [(0, 1)] };
    let j := 0;
    let b : Job := { job0 with stick := 600, slipSets := [(0, 1)] };
    let img : Image := image0;
    let t := 600;
    let v := 1;
    s.job j = some b ∧ s.jobImage b = some img ∧ img.slipPoints[b.slipIdx]? = some t ∧ b.inStep = true ∧ t ≤ b.stick ∧
    b.slipSets.get (b.slipIdx % 256) 0 = v ∧ v = 1 := by
  dsimp only
  decide +kernel

theorem wit_slip5 :
    let s : State := withJob { job0 with stick := 600, slipSets := [(0, 5)] };
    let j := 0;
    let b : Job := { job0 with stick := 600, slipSets := [(0, 5)] };
    let img : Image := image0;
    let t := 600;
    let v := 5;
    s.job j = some b ∧ s.jobImage b = some img ∧ img.slipPoints[b.slipIdx]? = some t ∧ b.inStep = true ∧ t ≤ b.stick ∧
    b.slipSets.get (b.slipIdx % 256) 0 = v ∧ 2 ≤ v ∧ v ≤ 5 ∧ b.slips = [] := by
  dsimp only
  decide +kernel

theorem wit_slipEnd :
    let s : State := withJob { job0 with slips := [{ kind := .squall, left := 0 }] };
    let j := 0;
    let b : Job := { job0 with slips := [{ kind := .squall, left := 0 }] };
    let img : Image := image0;
    let rest : List Slip := [];
    s.job j = some b ∧ s.jobImage b = some img ∧ b.slips = { kind := SlipKind.squall, left := 0 } :: rest := by
  dsimp only
  decide +kernel

theorem wit_maintEnd :
    let s : State := withJob { job0 with slips := [{ kind := .maintenance 11, left := 0 }] };
    let j := 0;
    let b : Job := { job0 with slips := [{ kind := .maintenance 11, left := 0 }] };
    let img : Image := image0;
    let n := 11;
    let rest : List Slip := [];
    s.job j = some b ∧ s.jobImage b = some img ∧ b.slips = { kind := SlipKind.maintenance n, left := 0 } :: rest := by
  dsimp only
  decide +kernel

theorem wit_replayEnd :
    let s : State := withJob { job0 with slips := [{ kind := .replay 0, left := 0 }], epoch := 0 };
    let j := 0;
    let b : Job := { job0 with slips := [{ kind := .replay 0, left := 0 }], epoch := 0 };
    let img : Image := image0;
    let g : Word32 := 0;
    let rest : List Slip := [];
    s.job j = some b ∧ s.jobImage b = some img ∧ b.slips = { kind := SlipKind.replay g, left := 0 } :: rest ∧
    s.replayArrayBusy j b img = false := by
  dsimp only
  decide +kernel

theorem wit_window :
    let s : State := withImage { image0 with windows := [{ tick := 10, stack := 11, length := 50 }] } job0;
    let j := 0;
    let b : Job := job0;
    let img : Image := { image0 with windows := [{ tick := 10, stack := 11, length := 50 }] };
    let i := 0;
    let w : WindowImg := { tick := 10, stack := 11, length := 50 };
    s.job j = some b ∧ s.jobImage b = some img ∧ img.windows[i]? = some w ∧ b.inStep = true ∧ b.stick = w.tick ∧
    (b.slips.any fun (x : Slip) => decide (x.kind = SlipKind.maintenance w.stack)) = false := by
  dsimp only
  decide +kernel

theorem wit_slipSend :
    let s : State := withJob { job0 with stick := 600 };
    let j := 0;
    let t := 600;
    let b : Job := { job0 with stick := 600 };
    let img : Image := image0;
    s.job j = some b ∧ s.jobImage b = some img ∧ img.slipPoints[b.slipIdx]? = some t ∧ s.isRoot img = true ∧
    t ≤ b.stick + s.jobDepth img ∧ b.slipSets.get (b.slipIdx % 256) 0 = 0 := by
  dsimp only
  decide +kernel

theorem wit_slipSet :
    let s : State := busy;
    let port := 15;
    let j := 0;
    let t : Word64 := 0x000001000100E000;
    let b : Job := job0;
    port < 16 ∧ s.jobNumbered (BitVec.ofNat 32 (bf t 55 24)) = some j ∧ s.job j = some b := by
  dsimp only
  decide +kernel

theorem wit_releaseFail :
    let s : State := withJob (released false true);
    let j := 0;
    let t := 100;
    let epoch : Word32 := 0;
    let b : Job := released false true;
    let img : Image := image0;
    s.job j = some b ∧ s.jobImage b = some img ∧ t ≤ s.tick ∧ (b.ceil epoch).applied = false ∧
    (b.ceil epoch).release = some (t, false, true) := by
  dsimp only
  decide +kernel

theorem wit_releaseSuspect :
    let s : State :=
      { withImage { image0 with devices := [0, 1] } (released true false) with ceil := { CeilTree.reset with root := 1 } };
    let j := 0;
    let t := 100;
    let epoch : Word32 := 0;
    let b : Job := released true false;
    let img : Image := { image0 with devices := [0, 1] };
    s.job j = some b ∧ s.jobImage b = some img ∧ t ≤ s.tick ∧ (b.ceil epoch).applied = false ∧
    (b.ceil epoch).release = some (t, true, false) ∧ b.rerun = [] := by
  dsimp only
  decide +kernel

theorem wit_release :
    let s : State := withJob (released false false);
    let j := 0;
    let t := 100;
    let epoch : Word32 := 0;
    let b : Job := released false false;
    let img : Image := image0;
    s.job j = some b ∧ s.jobImage b = some img ∧ t ≤ s.tick ∧ (b.ceil epoch).applied = false ∧
    (b.ceil epoch).release = some (t, false, false) ∧ b.nextCommit = epoch ∧ (b.ceil (epoch + 1)).release = none ∧
    b.ending = none ∧ (img.gen.isSome = true → ∀ (st : StepImg), img.steps[BitVec.toNat epoch]? = some st → st.boundary = false) := by
  dsimp only
  decide +kernel

theorem wit_jobLate :
    let s : State := onImage pair both ({ job0 with phase := .starting, launchTick := 99 });
    let j := 0;
    let b : Job := { job0 with phase := .starting, launchTick := 99 };
    let img : Image := both;
    let able : Bool := s.coresReady (s.jobFootprint j) && s.awake img;
    s.job j = some b ∧ s.jobImage b = some img ∧ b.phase = JobPhase.starting ∧ b.launchTick ≤ s.tick ∧ s.soleDevice img = false ∧
    (able = false ∨ b.launchTick < s.tick) := by
  dsimp only
  decide +kernel

theorem wit_jobStart :
    let s : State := withJob { job0 with phase := .starting, launchTick := 100 };
    let j := 0;
    let b : Job := { job0 with phase := .starting, launchTick := 100 };
    let img : Image := image0;
    let able : Bool := s.coresReady (s.jobFootprint j) && s.awake img;
    s.job j = some b ∧ s.jobImage b = some img ∧ b.phase = JobPhase.starting ∧ b.launchTick ≤ s.tick ∧ able = true ∧
    (s.soleDevice img = true ∨ b.launchTick = s.tick) := by
  dsimp only
  decide +kernel

theorem wit_jobStartFar :
    let s : State := onImage pair both ({ job0 with phase := .starting, launchTick := 100 });
    let j := 0;
    let b : Job := { job0 with phase := .starting, launchTick := 100 };
    let img : Image := both;
    let able : Bool := s.coresReady (s.jobFootprint j) && s.awake img;
    s.job j = some b ∧ s.jobImage b = some img ∧ b.phase = JobPhase.starting ∧ b.launchTick ≤ s.tick ∧ able = true ∧
    (s.soleDevice img = true ∨ b.launchTick = s.tick) := by
  dsimp only
  decide +kernel

theorem wit_jobDone :
    let s : State := { idleGroups with jobs := [(0, some { job0 with nextCommit := 1 })] };
    let j := 0;
    let b : Job := { job0 with nextCommit := 1 };
    let img : Image := image0;
    s.job j = some b ∧ s.jobImage b = some img ∧ b.phase = JobPhase.running ∧ b.ending = none ∧ s.jobIdle j = true ∧
    img.steps.length ≤ BitVec.toNat b.nextCommit := by
  dsimp only
  decide +kernel

theorem wit_peerEnd :
    let s : State := onImage pair both { job0 with ending := some ending0 };
    let j := 0;
    let b : Job := { job0 with ending := some ending0 };
    let img : Image := both;
    s.job j = some b ∧ s.jobImage b = some img := by
  dsimp only
  decide +kernel

theorem wit_overrun :
    let s : State := withJob { job0 with stick := 10000000 };
    let j := 0;
    let b : Job := { job0 with stick := 10000000 };
    let img : Image := image0;
    s.job j = some b ∧ s.jobImage b = some img ∧ s.overrun j b img = true ∧ b.ending = none := by
  dsimp only
  decide +kernel

theorem wit_endDue :
    let s : State := withJob { job0 with ending := some ending0 };
    let j := 0;
    let b : Job := { job0 with ending := some ending0 };
    let img : Image := image0;
    let e : Ending := ending0;
    s.job j = some b ∧ s.jobImage b = some img ∧ b.ending = some e ∧
    (b.phase = JobPhase.running ∨ s.aboutToRun j b = true → e.tick ≤ b.stick) := by
  dsimp only
  decide +kernel

theorem wit_quantum :
    let s : State := sliced image0 { job0 with stick := 50000 };
    let j := 0;
    let b : Job := { job0 with stick := 50000 };
    let img : Image := image0;
    s.job j = some b ∧ s.jobImage b = some img ∧ b.phase = JobPhase.running ∧ (s.part (partOf j)).saveUnits ≠ 0 ∧
    b.pendCheap = none ∧ b.sliceStart + (s.part (partOf j)).quantum ≤ b.stick ∧
    (∃ x ∈ s.jobGroups j, (s.grp x.1 x.2).run ≠ RunState.ended) ∧ s.contended j = false := by
  dsimp only
  decide +kernel

theorem wit_preempt :
    let s : State :=
      { sliced { image0 with cheaps := [cheap0] } { job0 with stick := 50000 } with jobs := [(0, some { job0 with stick := 50000 }), (7, some { job0 with phase := .waiting, number := 0x10002 })] };
    let j := 0;
    let b : Job := { job0 with stick := 50000 };
    let img : Image := { image0 with cheaps := [cheap0] };
    let c : CheapImg := cheap0;
    s.job j = some b ∧ s.jobImage b = some img ∧ b.phase = JobPhase.running ∧ (s.part (partOf j)).saveUnits ≠ 0 ∧
    b.pendCheap = none ∧ b.sliceStart + (s.part (partOf j)).quantum ≤ b.stick ∧
    (∃ x ∈ s.jobGroups j, (s.grp x.1 x.2).run ≠ RunState.ended) ∧ s.contended j = true ∧ s.soleDevice img = true ∧
    cheapFrom img (max (b.sliceStart + (s.part (partOf j)).quantum) (b.stick + 2 * s.ceil.diam + 256)) = some c := by
  dsimp only
  decide +kernel

theorem wit_saveEnd :
    let s : State := withImage { image0 with cheaps := [cheap0] } { job0 with phase := .saving 7 };
    let j := 0;
    let b : Job := { job0 with phase := .saving 7 };
    let img : Image := { image0 with cheaps := [cheap0] };
    let n := 7;
    let c : CheapImg := cheap0;
    s.job j = some b ∧ s.jobImage b = some img ∧ b.phase = JobPhase.saving n ∧
    List.find? (fun (y : CheapImg) => decide (y.index = n)) img.cheaps = some c := by
  dsimp only
  decide +kernel

theorem wit_restoreEnd :
    let s : State := withJob { job0 with phase := .restoring };
    let j := 0;
    let b : Job := { job0 with phase := .restoring };
    let img : Image := image0;
    s.job j = some b ∧ s.jobImage b = some img ∧ b.phase = JobPhase.restoring ∧ s.coresReady (s.jobFootprint j) = true ∧
    s.soleDevice img = true := by
  dsimp only
  decide +kernel

theorem wit_exception :
    let s : State := busy;
    let c := 0;
    let g := 0;
    let code := 255;
    let j := 0;
    let b : Job := job0;
    (s.grp c g).job = some j ∧ s.job j = some b ∧ b.ending = none ∧ code < 256 ∧ g < 16 := by
  dsimp only
  decide +kernel

theorem wit_exceptionRecord :
    let c := 0;
    let g := 15;
    let e : Word32 := 0;
    let l : List (ℕ × ℕ × Word32) := [(1, 0, 0), (0, 15, 0)];
    (c, g, e) ∈ l ∧ (∀ y ∈ l, y.2.1 < 16) ∧ ∀ y ∈ l, y ≠ (c, g, e) → 16 * c + g < 16 * y.1 + y.2.1 := by
  dsimp only
  decide +kernel

theorem wit_sensorRepeat :
    let s : State := { linked up with tick := 2000, sensors := [(16, { Sensor.reset with sev := 4, noticed := [(4, 0)] })] };
    let i := 16;
    let x : ℕ × ℕ := (4, 0);
    i < 17 ∧ (s.sensor i).sev ≠ 0 ∧ (s.sensor i).noticed.getLast? = some x ∧ x.2 + 2000 ≤ s.tick := by
  dsimp only
  decide +kernel

theorem wit_squall :
    let port := 15;
    port < 16 := by
  dsimp only
  decide +kernel

theorem wit_failed :
    let s : State := onImage (linked up) both job0;
    let port := 15;
    let t : Word64 := mcTok 1 0 0;
    let age := bf t 37 22 + (s.port port).dCtrl;
    let seen : Bool := s.failedSeen.contains (bf t 55 46, bf t 45 38, s.tick - age);
    port < 16 ∧ bf t 55 46 ≠ s.device ∧ seen = false := by
  dsimp only
  decide +kernel

theorem wit_failedAgain :
    let s : State := onImage (linked up) both job0;
    let port := 15;
    let t : Word64 := mcTok 0 0 0;
    let age := bf t 37 22 + (s.port port).dCtrl;
    let seen : Bool := s.failedSeen.contains (bf t 55 46, bf t 45 38, s.tick - age);
    port < 16 ∧ (bf t 55 46 = s.device ∨ seen = true) := by
  dsimp only
  decide +kernel

theorem wit_mismatch :
    let s : State := onImage (linked up) both job0;
    let cl := 47;
    cl < 48 ∧ (s.cluster cl).seqStopped = false := by
  dsimp only
  decide +kernel

theorem wit_clockLoss :
    let s : State := linked up;
    s.framesStopped = false := by
  dsimp only
  decide +kernel

theorem wit_frameLoss :
    let s : State := onImage (linked up) { both with slots := [slot0] } job0;
    let p := 0;
    let cause := 2;
    p < 16 ∧ (s.port p).st = PortSt.up ∧ cause < 3 := by
  dsimp only
  decide +kernel

theorem wit_ceilPass :
    let s : State := linked up;
    let port := 15;
    let t : Word64 := jobTok 0xFFFFFF;
    port < 16 ∧ s.jobNumbered (BitVec.ofNat 32 (bf t 55 24)) = none ∧ s.ceil.root ≠ s.device ∧
    (s.port s.ceil.parent).st = PortSt.up := by
  dsimp only
  decide +kernel

theorem wit_ceilArrive :
    let s : State := onImage (rooted up) both { job0 with ceils := [(255, { Ceil.reset with own := true })] };
    let port := 0;
    let t : Word64 := jobTok 0xFF0001;
    let j := 0;
    let b : Job := { job0 with ceils := [(255, { Ceil.reset with own := true })] };
    let img : Image := both;
    port < 16 ∧ s.jobNumbered (BitVec.ofNat 32 (bf t 55 24)) = some j ∧ s.job j = some b ∧ s.jobImage b = some img := by
  dsimp only
  decide +kernel

theorem wit_ceilArriveFailed :
    let s : State := onImage (rooted up) both { job0 with failed := true };
    let port := 0;
    let t : Word64 := jobTok 0xFF0001;
    let j := 0;
    let b : Job := { job0 with failed := true };
    let img : Image := both;
    port < 16 ∧ s.jobNumbered (BitVec.ofNat 32 (bf t 55 24)) = some j ∧ s.job j = some b ∧ s.jobImage b = some img ∧
    s.isRoot img = true ∧ b.failed = true := by
  dsimp only
  decide +kernel

theorem wit_ceilRelease :
    let port := 0;
    port < 16 := by
  dsimp only
  decide +kernel

theorem wit_ceilReleaseJob :
    let s : State := onImage (linked up) both job0;
    let port := 0;
    let t : Word64 := jobTok 0xFF000C;
    let j := 0;
    let b : Job := job0;
    port < 16 ∧ s.jobNumbered (BitVec.ofNat 32 (bf t 55 24)) = some j ∧ s.job j = some b ∧ (s.port port).dCtrl ≤ bf t 15 2 := by
  dsimp only
  decide +kernel

theorem wit_ceilReleaseLate :
    let s : State := onImage (linked up) both job0;
    let port := 0;
    let t : Word64 := jobTok 0xFF0008;
    let j := 0;
    let b : Job := job0;
    port < 16 ∧ s.jobNumbered (BitVec.ofNat 32 (bf t 55 24)) = some j ∧ s.job j = some b ∧ bf t 15 2 < (s.port port).dCtrl := by
  dsimp only
  decide +kernel

theorem wit_revoke :
    let port := 0;
    port < 16 := by
  dsimp only
  decide +kernel

theorem wit_mcRequest :
    let s : State := linked up;
    let port := 15;
    port < 16 ∧ s.ceil.root ≠ s.device ∧ (s.port s.ceil.parent).st = PortSt.up := by
  dsimp only
  decide +kernel

theorem wit_mcQueued :
    let s : State := { rooted up with mcRoot := List.replicate 64 (root0 (some 5)) };
    let port := 0;
    let x : McRoot := root0 (some 5);
    let rest : List McRoot := List.replicate 63 (root0 (some 5));
    port < 16 ∧ s.ceil.root = s.device ∧ s.mcRoot = x :: rest ∧ x.start.isSome = true ∧ s.mcRoot.length < 65 := by
  dsimp only
  decide +kernel

theorem wit_mcFull :
    let s : State := { rooted up with mcRoot := List.replicate 65 (root0 (some 5)) };
    let port := 0;
    let t : Word64 := mcTok 1 7 0x01000000;
    let o := 0;
    port < 16 ∧ s.ceil.root = s.device ∧ 65 ≤ s.mcRoot.length ∧ tokCoord t ≠ s.device ∧ s.portToward (tokCoord t) 0 = some o := by
  dsimp only
  decide +kernel

theorem wit_mcPrepare :
    let s : State := linked up;
    let port := 0;
    let t : Word64 := mcTok 1 7 0x01000000;
    port < 16 ∧ s.ceil.root ≠ s.device ∧ tokCoord t ≠ s.device ∧ s.prepOf (tokCoord t) (tokChange t) = none := by
  dsimp only
  decide +kernel

theorem wit_mcAck :
    let s : State := { linked up with mcPrep := [prep0 install7 none] };
    let port := 0;
    let t : Word64 := mcTok 1 7 0x20000000;
    let p : McPrep := prep0 install7 none;
    port < 16 ∧ s.ceil.root ≠ s.device ∧ s.prepOf (tokCoord t) (tokChange t) = some p := by
  dsimp only
  decide +kernel

theorem wit_mcCommit :
    let port := 0;
    port < 16 := by
  dsimp only
  decide +kernel

theorem wit_mcAbort :
    let port := 0;
    port < 16 := by
  dsimp only
  decide +kernel

theorem wit_mcOutcome :
    let s : State := linked up;
    let port := 0;
    let t : Word64 := mcTok 1 7 0;
    let o := 0;
    port < 16 ∧ tokCoord t ≠ s.device ∧ s.portToward (tokCoord t) 0 = some o := by
  dsimp only
  decide +kernel

theorem wit_mcOutcomeTaken :
    let s : State := linked up;
    let port := 0;
    let t : Word64 := mcTok 0 7 0;
    port < 16 ∧ tokCoord t = s.device ∧ bf t 29 28 = 0 ∧
    ∀ (p : McPrep), s.prepOf (tokCoord t) (tokChange t) = some p → p.commit.isSome = true := by
  dsimp only
  decide +kernel

theorem wit_mcOutcomeNotes :
    let s : State := { linked up with mcPrep := [{ prep0 install7 none with coord := 0 }] };
    let port := 0;
    let t : Word64 := mcTok 0 7 (3 * 2 ^ 2);
    let p : McPrep := { prep0 install7 none with coord := 0 };
    let c : McContent := install7;
    port < 16 ∧ tokCoord t = s.device ∧ bf t 29 28 = 0 ∧ s.prepOf (tokCoord t) (tokChange t) = some p ∧ p.commit = none ∧
    p.content = some c ∧ (s.port port).dCtrl ≤ bf t 17 2 := by
  dsimp only
  decide +kernel

theorem wit_mcOutcomeHome :
    let s : State := { linked up with mcCoord := [{ change := 7, kind := 1, content := install7, cmds := [] }] };
    let port := 0;
    let t : Word64 := mcTok 0 7 0x10000000;
    port < 16 ∧ tokCoord t = s.device ∧ bf t 29 28 ≠ 0 := by
  dsimp only
  decide +kernel

theorem wit_mcTimeout :
    let s : State := { rooted up with tick := 206, mcRoot := [root0 (some 0)] };
    let port := 0;
    let x : McRoot := root0 (some 0);
    let rest : List McRoot := [];
    let b := 0;
    port < 16 ∧ s.mcRoot = x :: rest ∧ x.start = some b ∧ b + 2 * s.ceil.diam + 200 ≤ s.tick := by
  dsimp only
  decide +kernel

theorem wit_applyInstall :
    let s : State :=
      { linked up with groups := [(7, { GroupEntry.reset with st := .resolving })], mcPrep := [prep0 install7 (some 100)] };
    let coord := 1;
    let change := 7;
    let at_ := 100;
    let p : McPrep := prep0 install7 (some 100);
    let c : McContent := install7;
    let n := 7;
    let home := 1;
    let cores : List (ℕ × ℕ) := [(0, 0), (1, 383)];
    let depth := 1;
    let pf : Bool := false;
    let ms : List Word32 := [];
    let ok : Option ℕ := (s.dropPrep coord change).checkChange true c;
    s.prepOf coord change = some p ∧ p.commit = some at_ ∧ p.content = some c ∧ at_ ≤ s.tick ∧
    c = McContent.groupInstall n home cores depth pf ms ∧ ok = none ∧
    (home = s.device ∨ (cores.any fun (x : ℕ × ℕ) => decide (x.1 = s.device)) = true) := by
  dsimp only
  decide +kernel

theorem wit_applyClear :
    let s : State := { linked up with mcPrep := [prep0 (.groupClear 7) (some 100)] };
    let coord := 1;
    let change := 7;
    let at_ := 100;
    let p : McPrep := prep0 (.groupClear 7) (some 100);
    let c : McContent := .groupClear 7;
    let n := 7;
    let ok : Option ℕ := (s.dropPrep coord change).checkChange true c;
    s.prepOf coord change = some p ∧ p.commit = some at_ ∧ p.content = some c ∧ at_ ≤ s.tick ∧ c = McContent.groupClear n ∧
    ok = none := by
  dsimp only
  decide +kernel

theorem wit_applyPreempt :
    let s : State := { onImage (linked up) both job0 with mcPrep := [prep0 (.preempt 0 0x10001 7) (some 100)] };
    let coord := 1;
    let change := 7;
    let at_ := 100;
    let p : McPrep := prep0 (.preempt 0 0x10001 7) (some 100);
    let c : McContent := .preempt 0 0x10001 7;
    let q := 0;
    let n : Word32 := 0x10001;
    let i := 7;
    let j := 0;
    let b : Job := job0;
    let ok : Option ℕ := (s.dropPrep coord change).checkChange true c;
    s.prepOf coord change = some p ∧ p.commit = some at_ ∧ p.content = some c ∧ at_ ≤ s.tick ∧ c = McContent.preempt q n i ∧
    ok = none ∧ s.partJob q n = some (j, b) := by
  dsimp only
  decide +kernel

theorem wit_applyResume :
    let s : State :=
      { onImage (linked up) both { job0 with phase := .reserved } with mcPrep := [prep0 (.resume 0 0x10001) (some 100)] };
    let coord := 1;
    let change := 7;
    let at_ := 100;
    let p : McPrep := prep0 (.resume 0 0x10001) (some 100);
    let c : McContent := .resume 0 0x10001;
    let q := 0;
    let n : Word32 := 0x10001;
    let j := 0;
    let b : Job := { job0 with phase := .reserved };
    let ok : Option ℕ := (s.dropPrep coord change).checkChange true c;
    s.prepOf coord change = some p ∧ p.commit = some at_ ∧ p.content = some c ∧ at_ ≤ s.tick ∧ c = McContent.resume q n ∧
    ok = none ∧ s.partJob q n = some (j, b) ∧ b.phase = JobPhase.reserved := by
  dsimp only
  decide +kernel

theorem wit_applyLocks :
    let s : State := { linked up with groups := [(7, group7)], mcPrep := [prep0 install7 (some 100)] };
    let coord := 1;
    let change := 7;
    let at_ := 100;
    let p : McPrep := prep0 install7 (some 100);
    let c : McContent := install7;
    let n := 7;
    let home := 1;
    let cores : List (ℕ × ℕ) := [(0, 0), (1, 383)];
    let depth := 1;
    let pf : Bool := false;
    let ms : List Word32 := [];
    let ok : Option ℕ := (s.dropPrep coord change).checkChange true c;
    s.prepOf coord change = some p ∧ p.commit = some at_ ∧ p.content = some c ∧ at_ ≤ s.tick ∧
    c = McContent.groupInstall n home cores depth pf ms ∧ ok ≠ none := by
  dsimp only
  decide +kernel

theorem wit_applyFlip :
    let s : State := { linked up with tables := [(5, some table0)], mcPrep := [prep0 (.flip 5 2) (some 100)] };
    let coord := 1;
    let change := 7;
    let at_ := 100;
    let p : McPrep := prep0 (.flip 5 2) (some 100);
    let c : McContent := .flip 5 2;
    let n := 5;
    let v : Byte := 2;
    let ok : Option ℕ := (s.dropPrep coord change).checkChange true c;
    s.prepOf coord change = some p ∧ p.commit = some at_ ∧ p.content = some c ∧ at_ ≤ s.tick ∧ c = McContent.flip n v ∧ ok ≠ none := by
  dsimp only
  decide +kernel

theorem wit_frameIdle :
    let s : State := { linked up with framesStopped := true };
    let p := 0;
    p < 16 ∧ (s.framesStopped = true ∨ (s.port p).frameDue s.tick = false ∨ (s.port p).st.talks = false) := by
  dsimp only
  decide +kernel

theorem wit_frameSend :
    let s : State := linked keyedUp;
    let p := 0;
    p < 16 ∧ s.framesStopped = false ∧ (s.port p).frameDue s.tick = true ∧ (s.port p).st = PortSt.up ∧
    (s.port p).switchAt = none ∧ (s.port p).txCount < 2 ^ 40 := by
  dsimp only
  decide +kernel

theorem wit_frameSpent :
    let s : State := linked { keyedUp with txCount := 2 ^ 40 };
    let p := 0;
    p < 16 ∧ s.framesStopped = false ∧ (s.port p).frameDue s.tick = true ∧
    ((s.port p).st ≠ PortSt.up ∨ (s.port p).keysSpent = true) ∧ (s.port p).st.talks = true := by
  dsimp only
  decide +kernel

theorem wit_frameSwitch :
    let s : State := linked { keyedUp with switchAt := some 5, txCount := 5, txNext := some keys0 };
    let p := 0;
    let v := 5;
    let y : KeySet := keys0;
    p < 16 ∧ s.framesStopped = false ∧ (s.port p).frameDue s.tick = true ∧ (s.port p).st = PortSt.up ∧
    (s.port p).switchAt = some v ∧ (s.port p).txNext = some y ∧ v ≤ (s.port p).txCount := by
  dsimp only
  decide +kernel

theorem wit_frameControl :
    let s : State := linked { Port.reset with st := .keying };
    let p := 0;
    p < 16 ∧ s.framesStopped = false ∧ (s.port p).frameDue s.tick = true ∧
    ((s.port p).st ≠ PortSt.up ∨ (s.port p).keysSpent = true) ∧ (s.port p).st.talks = true := by
  dsimp only
  decide +kernel

theorem wit_frameBad :
    let s : State := linked up;
    let p := 0;
    let d : Wire := wrongAt 1240 17;
    p < 16 ∧ (s.port p).st = PortSt.up ∧ 16 < wrongSymbols d 1024 := by
  dsimp only
  decide +kernel

theorem wit_frameFalse :
    let s : State := linked up;
    let p := 0;
    let d : Wire := wrongAt 1240 16;
    let ph : Bool := bit (BitVec.ofNat 8 (fromLe (List.take 1 (List.drop 8 d.message)))) 0;
    let c := if ph = (s.port p).rxPhase then (s.port p).rxCount else 0;
    p < 16 ∧ (s.port p).st = PortSt.up ∧ wrongSymbols d 1024 ≤ 16 ∧
    (((s.port p).rxKeys ph).bind fun (y : KeySet) => openFrame y c d.message) = none := by
  dsimp only
  decide +kernel

theorem wit_frameSlot :
    let s : State := onImage (linked up) { both with slots := [slot0] } job0;
    let p := 0;
    let d : Wire := wrongAt 1240 17;
    let j := 0;
    let b : Job := job0;
    let x : SlotImg := slot0;
    let cr := 0;
    let off := 0x7FFE0;
    let ph : Bool := bit (BitVec.ofNat 8 (fromLe (List.take 1 (List.drop 8 d.message)))) 0;
    let c := if ph = (s.port p).rxPhase then (s.port p).rxCount else 0;
    p < 16 ∧ (s.port p).st = PortSt.up ∧ s.slotNow p true = some (j, b, x) ∧ x.places = [SlotDest.store cr off] ∧
    (16 < wrongSymbols d 1024 ∨ (((s.port p).rxKeys ph).bind fun (y : KeySet) => openFrame y c d.message) = none) := by
  dsimp only
  decide +kernel

theorem wit_controlBad :
    let s : State := linked up;
    let p := 0;
    let w : Wire := wrongAt 150 5;
    p < 16 ∧ (s.port p).st = PortSt.up ∧ 4 < wrongSymbols w 128 := by
  dsimp only
  decide +kernel

theorem wit_frameSilent :
    let s : State := linked up;
    let p := 15;
    p < 16 ∧ (s.port p).st.talks = false := by
  dsimp only
  decide +kernel

theorem wit_bringUp :
    let s : State := linked calibrated;
    let p := 0;
    let b : BringUp := good;
    let l : FabLink := link0;
    let isA : Bool := true;
    let k : Port := came;
    let step : Except (ℕ × Bool) Port := bringUp (s.port p) l isA (s.idOf (l.far isA).1) (ownChain s.secret s.fwImage) (kemSeed
      s.secret) b;
    p < 16 ∧ (s.port p).st.rising = true ∧ s.fabric.linkAt s.device p = some (l, isA) ∧ step = Except.ok k := by
  dsimp only
  decide +kernel

theorem wit_bringUpFails :
    let s : State := linked { Port.reset with st := .training };
    let p := 0;
    let b : BringUp := { good with laneTrained := false };
    let l : FabLink := link0;
    let isA : Bool := true;
    let n := 1;
    let delay : Bool := false;
    let step : Except (ℕ × Bool) Port := bringUp (s.port p) l isA (s.idOf (l.far isA).1) (ownChain s.secret s.fwImage) (kemSeed
      s.secret) b;
    p < 16 ∧ (s.port p).st.rising = true ∧ s.fabric.linkAt s.device p = some (l, isA) ∧ step = Except.error (n, delay) := by
  dsimp only
  decide +kernel

theorem wit_renewal :
    let s : State := linked { up with cfg := 0x0000000000C81001, txCount := 2 ^ 28 };
    let p := 0;
    p < 16 ∧ (s.port p).st = PortSt.up ∧ (s.port p).switchAt = none ∧ (s.port p).share = none ∧
    2 ^ (28 + bf (s.port p).cfg 7 4) ≤ (s.port p).txCount ∧ (s.port p).txCount < 2 ^ 40 := by
  dsimp only
  decide +kernel

theorem wit_fragment :
    let s : State := linked up;
    let p := 15;
    let w : BitVec 64 := 0x00FFFF0000000001;
    let n := max (s.port p).fragments.length (5 * bf w 55 40 + 5);
    p < 16 ∧ ((s.port p).st ≠ PortSt.up ∨ n < 1576) := by
  dsimp only
  decide +kernel

theorem wit_fragmentShare :
    let s : State := linked { Port.reset with st := .keying };
    let p := 0;
    let w : BitVec 64 := 0x00FFFF0000000001;
    let n := max (s.port p).fragments.length (5 * bf w 55 40 + 5);
    p < 16 ∧ (s.port p).st = PortSt.keying ∧ (s.port p).share = none ∧ chainBytes ≤ n := by
  dsimp only
  decide +kernel

theorem wit_fragmentRenews :
    let s : State := linked up;
    let p := 0;
    let w : BitVec 64 := 0x00FFFF0000000001;
    let n := max (s.port p).fragments.length (5 * bf w 55 40 + 5);
    p < 16 ∧ (s.port p).st = PortSt.up ∧ 1576 ≤ n := by
  dsimp only
  decide +kernel

theorem wit_echoReply :
    let p := 0;
    let w : BitVec 64 := 0x0080000000000000;
    p < 16 ∧ bit w 55 = true := by
  dsimp only
  decide +kernel

theorem wit_echoAsk :
    let p := 0;
    let w : BitVec 64 := 0;
    p < 16 ∧ bit w 55 = false := by
  dsimp only
  decide +kernel

theorem wit_portOff :
    let s : State := linked up;
    let p := 0;
    let v : Word64 := 0x0000000000C81000;
    p < 16 ∧ s.portUsed p = false ∧ portCfgOk v = true ∧ s.on = true ∧ bit v 0 = false := by
  dsimp only
  decide +kernel

theorem wit_portOn :
    let s : State := linked Port.reset;
    let p := 0;
    let v : Word64 := 0x00000000FFFF91C1;
    p < 16 ∧ s.portUsed p = false ∧ portCfgOk v = true ∧ s.on = true ∧ bit v 0 = true ∧ (s.port p).st ≠ PortSt.up := by
  dsimp only
  decide +kernel

theorem wit_portStays :
    let s : State := linked up;
    let p := 0;
    let v : Word64 := 0x0000000000C81001;
    p < 16 ∧ s.portUsed p = false ∧ portCfgOk v = true ∧ s.on = true ∧ bit v 0 = true ∧ (s.port p).st = PortSt.up := by
  dsimp only
  decide +kernel

theorem wit_portUsed :
    let s : State := onImage (linked up) { both with slots := [slot0] } job0;
    let p := 0;
    p < 16 ∧ s.portUsed p = true := by
  dsimp only
  decide +kernel

theorem wit_credit :
    let p := 15;
    p < 16 := by
  dsimp only
  decide +kernel

theorem wit_frameLost :
    let s : State := linked
      { up with txCount := 6, sent := [{ keys := 0, counter := 5, src := 0, stream := 9, offset := 0, count := 36 }] };
    let p := 0;
    p < 16 ∧ (s.port p).st = PortSt.up := by
  dsimp only
  decide +kernel

theorem wit_account :
    let s : State := { linked up with quiet := true };
    let p := 0;
    let w0 : BitVec 64 := mcTok 1 9 (36 * 2 ^ 24);
    p < 16 ∧ bf w0 29 24 ≠ 0 ∧ s.quiet = true := by
  dsimp only
  decide +kernel

theorem wit_accountNone :
    let p := 0;
    let w0 : BitVec 64 := mcTok 1 9 0;
    p < 16 ∧ bf w0 29 24 = 0 := by
  dsimp only
  decide +kernel

theorem wit_mcastTimeout :
    let s : State := { linked { up with txStreams := [tx0], cfg := 0x0000000000011041 } with tick := 100 };
    let p := 0;
    let src := 0;
    let stream := 0xFFFF;
    let x : TxStream := tx0;
    p < 16 ∧
    List.find? (fun (y : TxStream) => decide (y.mcast = true ∧ y.src = some src ∧ y.stream = stream)) (s.port p).txStreams = some
      x ∧ (s.port p).credits = 0 ∧ x.sectors ≠ [] ∧ (s.port p).mcastSince + 100 * bf (s.port p).cfg 31 16 ≤ s.tick := by
  dsimp only
  decide +kernel

theorem wit_streamOpen :
    let s : State := linked up;
    let p := 0;
    let w0 : BitVec 64 := mcTok 0 0xFFFF (255 * 2 ^ 22);
    p < 16 ∧ bit w0 21 = false ∧ bf w0 55 46 = s.device := by
  dsimp only
  decide +kernel

theorem wit_streamPass :
    let s : State := linked up;
    let p := 0;
    let w0 : BitVec 64 := mcTok 1 0xFFFF 0;
    let o := 0;
    p < 16 ∧ bit w0 21 = false ∧ bf w0 55 46 ≠ s.device ∧ s.portToward (bf w0 55 46) (bf w0 45 30) = some o := by
  dsimp only
  decide +kernel

theorem wit_streamMcast :
    let s : State := onImage (linked up) { both with mcasts := [mcast0] } job0;
    let p := 0;
    let w0 : BitVec 64 := mcTok 3 9 (2 ^ 21);
    let w1 : BitVec 64 := jobTok 0;
    let m : McastImg := mcast0;
    p < 16 ∧ bit w0 21 = true ∧ s.mcastOf (BitVec.ofNat 32 (bf w1 55 24)) (bf w0 55 46) = some m := by
  dsimp only
  decide +kernel

theorem wit_streamDrop :
    let s : State := { linked up with rxStreams := [rx0] };
    let p := 0;
    let w : BitVec 64 := mcTok 1 0xFFFF 0;
    let r : RxStream := rx0;
    p < 16 ∧ s.rxOf p (bf w 55 46) (bf w 45 30) none = some r := by
  dsimp only
  decide +kernel

theorem wit_postToken :
    let s : State := linked up;
    let p := 0;
    let w0 : BitVec 64 := BitVec.ofNat 64 (1 * 2 ^ 40 + 255 * 2 ^ 32 + 0xFFFF * 2 ^ 16);
    p < 16 ∧ bf w0 55 46 = s.device := by
  dsimp only
  decide +kernel

theorem wit_postLands :
    let s : State := onImage (linked up) both job0;
    let p := 0;
    let y : PostDue :=
      { due := 100, dev := 0, cluster := 1, sem := 255, count := 0xFFFF, number := 0x10001, src := 1, core := none };
    let holder : Option (ℕ × Job) := (s.clusterPart y.cluster).bind fun (n : ℕ) => s.partJob n y.number;
    let sum := BitVec.toNat ((s.cluster y.cluster).sem.get y.sem 0) + y.count;
    p < 16 ∧ y.dev = s.device ∧ holder.isSome = true ∧ sum < 2 ^ 32 ∧ (s.cluster y.cluster).semQ.get y.sem [] = [] := by
  dsimp only
  decide +kernel

theorem wit_postGone :
    let s : State := onImage (linked up) both job0;
    let p := 0;
    let y : PostDue :=
      { due := 100, dev := 0, cluster := 1, sem := 255, count := 0xFFFF, number := 0x20001, src := 1, core := none };
    let o := 0;
    let holder : Option (ℕ × Job) := (s.clusterPart y.cluster).bind fun (n : ℕ) => s.partJob n y.number;
    p < 16 ∧ y.dev = s.device ∧ holder = none ∧ y.src ≠ s.device ∧ s.portToward y.src 0 = some o := by
  dsimp only
  decide +kernel

theorem wit_postPass :
    let s : State := linked up;
    let p := 0;
    let w0 : BitVec 64 := mcTok 1 0 0;
    let o := 0;
    p < 16 ∧ bf w0 55 46 ≠ s.device ∧ s.portToward (bf w0 55 46) 0 = some o := by
  dsimp only
  decide +kernel

theorem wit_refuse :
    let s : State := onImage (linked up) both job0;
    let p := 0;
    let w : BitVec 64 := BitVec.ofNat 64 (0x10001 * 2 ^ 14);
    let j := 0;
    let b : Job := job0;
    p < 16 ∧ bf w 55 46 = s.device ∧ s.jobNumbered (BitVec.ofNat 32 (bf w 45 14)) = some j ∧ s.job j = some b ∧ b.ending = none ∧
    (b.onUnits = true ∨ b.active = true ∧ s.spans b = true) := by
  dsimp only
  decide +kernel

theorem wit_refuseWaiting :
    let s : State := onImage (linked up) both { job0 with phase := .waiting };
    let p := 0;
    let w : BitVec 64 := BitVec.ofNat 64 (0x10001 * 2 ^ 14);
    let j := 0;
    let b : Job := { job0 with phase := .waiting };
    p < 16 ∧ bf w 55 46 = s.device ∧ s.jobNumbered (BitVec.ofNat 32 (bf w 45 14)) = some j ∧ s.job j = some b ∧ b.ending = none ∧
    b.onUnits = false ∧ (b.active = false ∨ s.spans b = false) := by
  dsimp only
  decide +kernel

theorem wit_refusePass :
    let s : State := linked up;
    let p := 0;
    let w : BitVec 64 := mcTok 1 0 0;
    let o := 0;
    p < 16 ∧ bf w 55 46 ≠ s.device ∧ s.portToward (bf w 55 46) 0 = some o := by
  dsimp only
  decide +kernel

theorem wit_walkDone :
    let s : State := missing 0xFFFF false 10;
    let c := 383;
    let part := 0;
    let va := 0xFFFF;
    let g := 15;
    let l : Leaf := page 0 0xC400000000010000;
    c < 384 ∧ s.walkStopped (Engine.core c) = false ∧ s.clocksStopped = false ∧ (s.grp c g).missing part va = true ∧
    s.leafAt part va = some l ∧ l.owner = part := by
  dsimp only
  decide +kernel

theorem wit_walkNone :
    let s : State := missing (2 ^ 52 - 1) true 10;
    let c := 383;
    let part := 0;
    let va := 2 ^ 52 - 1;
    let g := 15;
    c < 384 ∧ s.walkStopped (Engine.core c) = false ∧ s.clocksStopped = false ∧ (s.grp c g).missing part va = true ∧
    ∀ (l : Leaf), s.leafAt part va = some l → l.owner ≠ part := by
  dsimp only
  decide +kernel

theorem wit_walkStopped :
    let s : State := { base with clusters := [(47, { Cluster.reset with seqStopped := true })] };
    let e : Engine := .emb 47;
    s.walkStopped e = true := by
  dsimp only
  decide +kernel

theorem wit_walkEngine :
    let s : State := base;
    let e : Engine := .place 1;
    let part := 0;
    let va := 0;
    let l : Leaf := page 0 0xC400000000010000;
    (∀ (c : ℕ), e ≠ Engine.core c) ∧ s.walkStopped e = false ∧ (s.clocksStopped = false ∨ Engine.inCluster e = false) ∧
    s.leafAt part va = some l ∧ l.owner = part := by
  try dsimp only
  and_intros <;> first | decide +kernel | (simp only [State.offers, State.cleanSector, exists_some, forall_some, not_core, not_device]; decide +kernel) | exact ⟨_, rfl⟩ | rfl | exact Or.inl (by decide +kernel) | exact Or.inr (by decide +kernel) | (intro j hj; simp only [exists_some]; revert j; decide +kernel) | (intros; simp_all)

theorem wit_parkEnds :
    let s : State := missing 0xFFFF true 205;
    let c := 383;
    let g := 15;
    let part := 0;
    let va := 0xFFFF;
    let since := 5;
    c < 384 ∧ g < 16 ∧ (s.grp c g).run = RunState.parked (Park.miss part va since) ∧ (s.core c).fixed = true ∧
    since + 200 ≤ s.grpNow (s.grp c g) := by
  dsimp only
  decide +kernel

theorem wit_parkGoesOn :
    let s : State := missing 0xFFFF true 204;
    let c := 383;
    let g := 15;
    let part := 0;
    let va := 0xFFFF;
    let since := 5;
    c < 384 ∧ g < 16 ∧ (s.grp c g).run = RunState.parked (Park.miss part va since) ∧ s.grpNow (s.grp c g) < since + 200 := by
  dsimp only
  decide +kernel

theorem wit_ack :
    let s : State := { base with invals := [inval0 [.core 0, .emb 47]] };
    let e : Engine := .emb 47;
    let i := 0;
    let v : Inval := inval0 [.core 0, .emb 47];
    s.invals[i]? = some v ∧ e ∈ v.waiting ∧ v.noticed = true ∧ s.engineBusy e v = false ∧ v.waiting.erase e ≠ [] := by
  dsimp only
  decide +kernel

theorem wit_ackLast :
    let s : State := { base with invals := [inval0 [.place 0]] };
    let e : Engine := .place 0;
    let i := 0;
    let v : Inval := inval0 [.place 0];
    let k := cmd 0x21 2 [];
    s.invals[i]? = some v ∧ e ∈ v.waiting ∧ v.noticed = true ∧ s.engineBusy e v = false ∧ v.waiting = [e] ∧ v.cmd = some k ∧
    (s.queue k.queue).st = QueueSt.running ∧ (s.queue k.queue).orphans = [] := by
  dsimp only
  decide +kernel

theorem wit_ackTimeout :
    let s : State := { base with tick := 10000, invals := [inval0 [.place 0]] };
    let e : Engine := .place 0;
    let i := 0;
    let v : Inval := inval0 [.place 0];
    s.invals[i]? = some v ∧ e ∈ v.waiting ∧ v.start + 10000 ≤ s.tick := by
  dsimp only
  decide +kernel

theorem wit_clusterIdle :
    let s : State := base;
    let cl := 47;
    cl < 48 ∧ (s.cluster cl).pwr = Power.run ∧ s.groupsIdle cl = true ∧ s.enginesIdle cl = true := by
  dsimp only
  decide +kernel

theorem wit_clusterWake :
    let s : State := { base with clusters := [(47, { Cluster.reset with pwr := .idle })] };
    let cl := 47;
    cl < 48 ∧ (s.cluster cl).pwr = Power.idle := by
  dsimp only
  decide +kernel

theorem wit_batchDeadline :
    let s : State := { batching [request] with tick := 10000000 };
    let p := 0;
    let r : BatchReq := request;
    let rest : List BatchReq := [];
    p < 16 ∧ (s.part p).batchQ = r :: rest ∧ 0 < (s.part p).fill ∧ r.accepted + (s.part p).deadline ≤ s.tick := by
  dsimp only
  decide +kernel

theorem wit_testBegins :
    let s : State := { base with cores := [(383, { Core.reset with suspect := true })] };
    let c := 383;
    c < 384 ∧ s.testing = false ∧ s.nextTest = some c ∧ s.flash.scanOk = true := by
  dsimp only
  decide +kernel

theorem wit_testNoContent :
    let s : State :=
      { base with cores := [(383, { Core.reset with suspect := true })], flash := { base.flash with scanOk := false } };
    let c := 383;
    c < 384 ∧ s.testing = false ∧ s.nextTest = some c ∧ s.flash.scanOk = false := by
  dsimp only
  decide +kernel

theorem wit_testSegment :
    let s : State := inTest;
    let c := 383;
    let x : TestRun := { until_ := 100, active := true, cmds := [] };
    c < 384 ∧ (s.core c).test = some x ∧ x.active = true ∧ x.until_ ≤ s.tick := by
  dsimp only
  decide +kernel

theorem wit_testPasses :
    let s : State := inTest;
    let c := 383;
    let x : TestRun := { until_ := 100, active := true, cmds := [] };
    let r : TestResult := { passed := true, signature := 0 };
    c < 384 ∧ (s.core c).test = some x ∧ x.active = true ∧ x.until_ ≤ s.tick ∧ r.passed = true := by
  dsimp only
  decide +kernel

theorem wit_testFails :
    let s : State := inTest;
    let c := 383;
    let x : TestRun := { until_ := 100, active := true, cmds := [] };
    let r : TestResult := { passed := false, signature := 0 };
    c < 384 ∧ (s.core c).test = some x ∧ x.active = true ∧ x.until_ ≤ s.tick ∧ r.passed = false := by
  dsimp only
  decide +kernel

theorem wit_scrubQueue :
    let s : State := withStack { Stack.reset with corrQ := [0xB80000000] };
    let n := 11;
    let i := 0xB80000000;
    let rest : List ℕ := [];
    n < 12 ∧ (s.stack n).lost = false ∧ (s.stack n).selfRefresh = false ∧ s.quiet = false ∧ (s.stack n).corrQ = i :: rest := by
  dsimp only
  decide +kernel

theorem wit_scrubNext :
    let s : State := withStack { Stack.reset with scrubAt := 2 ^ 31 - 2 };
    let n := 11;
    n < 12 ∧ (s.stack n).lost = false ∧ (s.stack n).selfRefresh = false ∧ s.quiet = false ∧ (s.stack n).corrQ = [] ∧
    (s.stack n).scrubAt + 1 < 2 ^ 31 := by
  dsimp only
  decide +kernel

theorem wit_scrubLast :
    let s : State := withStack { Stack.reset with scrubAt := 2 ^ 31 - 1 };
    let n := 11;
    n < 12 ∧ (s.stack n).lost = false ∧ (s.stack n).selfRefresh = false ∧ s.quiet = false ∧ (s.stack n).corrQ = [] ∧
    (s.stack n).scrubAt + 1 = 2 ^ 31 := by
  dsimp only
  decide +kernel

theorem wit_scrubCorrects :
    let s : State := { base with hbm := { cells := [], tags := [], chk := [(11 * 2 ^ 31, 1)] } };
    let n := 11;
    let spares := 1;
    let i := 11 * 2 ^ 31;
    n < 12 ∧ (s.stack n).lost = false ∧ (s.stack n).selfRefresh = false ∧ s.quiet = false ∧ i = n * 2 ^ 31 + (s.stack n).scrubAt ∧
    (s.stack n).corrQ = [] ∧ (s.stack n).scrubAt < 2 ^ 31 ∧ spares ≠ 0 ∧ (s.hbm.sector i).corrected = true := by
  dsimp only
  decide +kernel

theorem wit_retrain :
    let s : State := base;
    let n := 11;
    let m : Maintenance := { calm with drift := true };
    n < 12 ∧ s.jobsOnStack n = [] ∧ (s.stack n).lost = false ∧ m.drift = true ∧ m.trained = true := by
  dsimp only
  decide +kernel

theorem wit_retrainLost :
    let s : State := base;
    let n := 11;
    let m : Maintenance := { calm with drift := true, trained := false };
    n < 12 ∧ s.jobsOnStack n = [] ∧ (s.stack n).lost = false ∧ m.drift = true ∧ m.trained = false := by
  dsimp only
  decide +kernel

theorem wit_repair :
    let s : State := withStack { Stack.reset with repairs := [5] };
    let n := 11;
    let m : Maintenance := { calm with spares := 63 };
    let r := 5;
    n < 12 ∧ s.jobsOnStack n = [] ∧ (s.stack n).lost = false ∧ m.drift = false ∧ (s.stack n).repairs = [r] := by
  dsimp only
  decide +kernel

theorem wit_holdExpires :
    let s : State := { base with tick := 10000, errHold := [(0, errRec0)] };
    let i := 0;
    let t0 := 0;
    let r : ErrRec := errRec0;
    s.errHold[i]? = some (t0, r) ∧ t0 + 10000 ≤ s.tick := by
  dsimp only
  decide +kernel

theorem wit_holdStays :
    let s : State := { base with tick := 9999, errHold := [(0, errRec0)] };
    let i := 0;
    let t0 := 0;
    let r : ErrRec := errRec0;
    s.errHold[i]? = some (t0, r) ∧ s.tick < t0 + 10000 := by
  dsimp only
  decide +kernel

theorem wit_traceWrite :
    let s : State := { base with parts := [(0, traced)] };
    let die := 5;
    let p := 0;
    let r : BitVec 256 := 1;
    let rest : List (BitVec 256) := [];
    let x : Trace := (s.part p).trace;
    die < 6 ∧ p < 16 ∧ x.running = true ∧ x.frozen = false ∧ x.full = false ∧ x.staged.get die [] = r :: rest := by
  dsimp only
  decide +kernel

theorem wit_pageDead :
    let s : State := base;
    let q := 20;
    let b : Doorbell := { fn := 2, queue := 20 };
    q < 1024 ∧ b.queue = q ∧ b.fn < 17 ∧ b.fn ≠ 0 ∧ (s.queue q).part + 1 ≠ b.fn := by
  dsimp only
  decide +kernel

theorem wit_tailMoves :
    let s : State := base;
    let q := 20;
    let v : Word32 := 15;
    let b : Doorbell := { fn := 1, queue := 20 };
    q < 1024 ∧ b.queue = q ∧ b.fn < 17 ∧ (b.fn = 0 ∨ (s.queue q).part + 1 = b.fn) ∧ (s.queue q).st = QueueSt.running ∧
    bf v 15 0 ≠ (s.queue q).tail ∧ bf v 15 0 < ringSlots (s.queue q).sq := by
  dsimp only
  decide +kernel

theorem wit_tailBeyond :
    let s : State := base;
    let q := 20;
    let v : Word32 := 16;
    let b : Doorbell := { fn := 0, queue := 20 };
    q < 1024 ∧ b.queue = q ∧ b.fn < 17 ∧ (b.fn = 0 ∨ (s.queue q).part + 1 = b.fn) ∧ (s.queue q).st = QueueSt.running ∧
    bf v 15 0 ≠ (s.queue q).tail ∧ ringSlots (s.queue q).sq ≤ bf v 15 0 := by
  dsimp only
  decide +kernel

theorem wit_tailStopped :
    let s : State := with21 { queue0 with st := .stopped };
    let q := 21;
    let b : Doorbell := { fn := 0, queue := 21 };
    q < 1024 ∧ b.queue = q ∧ b.fn < 17 ∧ (b.fn = 0 ∨ (s.queue q).part + 1 = b.fn) ∧ (s.queue q).st = QueueSt.stopped := by
  dsimp only
  decide +kernel

theorem wit_fetch :
    let s : State := with21 { queue0 with tail := 1, expect := 0 };
    let q := 21;
    let slot : BitVec 512 := packet 0;
    let x : BitVec 512 := packet 0;
    let u : State := with21 { queue0 with tail := 1, expect := 0 };
    q < 1024 ∧ s.fetches q = true ∧ s.slotBits q slot = (some x, u) ∧ (s.queue q).refetch = 0 ∧ slotValid (s.queue q) x = true ∧
    opcodes.contains (packetOf q x).opcode.toNat = true := by
  dsimp only
  decide +kernel

theorem wit_fetchUnknown :
    let s : State := with21 { queue0 with tail := 1, expect := 0 };
    let q := 21;
    let slot : BitVec 512 := packet 0xFFFF;
    let x : BitVec 512 := packet 0xFFFF;
    let u : State := with21 { queue0 with tail := 1, expect := 0 };
    q < 1024 ∧ s.fetches q = true ∧ s.slotBits q slot = (some x, u) ∧ (s.queue q).refetch = 0 ∧ slotValid (s.queue q) x = true ∧
    opcodes.contains (packetOf q x).opcode.toNat = false ∧ (packetOf q x).gen ≠ 0 ∧ (s.queue q).orphans = [] := by
  dsimp only
  decide +kernel

theorem wit_fetchStale :
    let s : State := with21 { queue0 with tail := 1, expect := 1 };
    let q := 21;
    let slot : BitVec 512 := packet 0;
    let x : BitVec 512 := packet 0;
    let u : State := with21 { queue0 with tail := 1, expect := 1 };
    q < 1024 ∧ s.fetches q = true ∧ s.slotBits q slot = (some x, u) ∧ (s.queue q).refetch = 0 ∧ slotValid (s.queue q) x = false := by
  dsimp only
  decide +kernel

theorem wit_refetch :
    let s : State := with21 { queue0 with tail := 1, refetch := 8 };
    let q := 21;
    let slot : BitVec 512 := packet 0;
    let x : BitVec 512 := packet 0;
    let u : State := with21 { queue0 with tail := 1, refetch := 8 };
    q < 1024 ∧ s.fetches q = true ∧ s.slotBits q slot = (some x, u) ∧ (s.queue q).refetch ≠ 0 ∧
    (s.queue q).fetchTick + 100 ≤ s.tick ∧ slotValid (s.queue q) x = true ∧ opcodes.contains (packetOf q x).opcode.toNat = true := by
  dsimp only
  decide +kernel

theorem wit_refetchAgain :
    let s : State := with21 { queue0 with tail := 1, refetch := 7 };
    let q := 21;
    let slot : BitVec 512 := (0 : BitVec 512);
    let x : BitVec 512 := (0 : BitVec 512);
    let u : State := with21 { queue0 with tail := 1, refetch := 7 };
    q < 1024 ∧ s.fetches q = true ∧ s.slotBits q slot = (some x, u) ∧ (s.queue q).refetch ≠ 0 ∧
    (s.queue q).fetchTick + 100 ≤ s.tick ∧ slotValid (s.queue q) x = false ∧ (s.queue q).refetch < 8 := by
  dsimp only
  decide +kernel

theorem wit_refetchStale :
    let s : State := with21 { queue0 with tail := 1, refetch := 8 };
    let q := 21;
    let slot : BitVec 512 := (0 : BitVec 512);
    let x : BitVec 512 := (0 : BitVec 512);
    let u : State := with21 { queue0 with tail := 1, refetch := 8 };
    q < 1024 ∧ s.fetches q = true ∧ s.slotBits q slot = (some x, u) ∧ (s.queue q).refetch ≠ 0 ∧
    (s.queue q).fetchTick + 100 ≤ s.tick ∧ slotValid (s.queue q) x = false ∧ 8 ≤ (s.queue q).refetch := by
  dsimp only
  decide +kernel

theorem wit_fetchUnread :
    let s : State := with21 { queue0 with tail := 1, sq := 0xFFFFFFFFFFFFF804 };
    let q := 21;
    let slot : BitVec 512 := (0 : BitVec 512);
    let u : State := with21 { queue0 with tail := 1, sq := 0xFFFFFFFFFFFFF804 };
    q < 1024 ∧ s.fetches q = true ∧ s.slotBits q slot = (none, u) ∧ (s.queue q).refetch = 0 := by
  dsimp only
  decide +kernel

theorem wit_post :
    let s : State := with21 { queue0 with done := [queueEntry queue0 Status.queueState 0], cqTail := 15, cqHead := 1 };
    let q := 21;
    let e : Completion := queueEntry queue0 Status.queueState 0;
    let rest : List Completion := [];
    q < 1024 ∧ (s.queue q).done = e :: rest ∧ (s.queue q).st ≠ QueueSt.absent ∧ ringSlots (s.queue q).cq ≠ 0 ∧
    (s.queue q).ringFull = false := by
  dsimp only
  decide +kernel

theorem wit_postSignals :
    let s : State :=
      { with21 { queue0 with done := [queueEntry queue0 Status.queueState 0], cqTail := 15, cqHead := 1 } with msix := [(0, { Msix.reset with enable := true, unmasked := [0] })] };
    let q := 21;
    let e : Completion := queueEntry queue0 Status.queueState 0;
    let rest : List Completion := [];
    let f := (s.queue q).fn;
    let v := (s.queue q).vector;
    let m : Msix := s.msixOf f;
    q < 1024 ∧ (s.queue q).done = e :: rest ∧ (s.queue q).st ≠ QueueSt.absent ∧ ringSlots (s.queue q).cq ≠ 0 ∧
    (s.queue q).ringFull = false ∧ e.noint = false ∧ v < msixVectors f ∧ m.enable = true ∧ m.functionMask = false ∧ v ∈ m.unmasked := by
  dsimp only
  decide +kernel

theorem wit_postPends :
    let s : State :=
      { with21 { queue0 with done := [queueEntry queue0 Status.queueState 0], cqTail := 15, cqHead := 1 } with msix := [(0, { Msix.reset with enable := true })] };
    let q := 21;
    let e : Completion := queueEntry queue0 Status.queueState 0;
    let rest : List Completion := [];
    let f := (s.queue q).fn;
    let v := (s.queue q).vector;
    let m : Msix := s.msixOf f;
    q < 1024 ∧ (s.queue q).done = e :: rest ∧ (s.queue q).st ≠ QueueSt.absent ∧ ringSlots (s.queue q).cq ≠ 0 ∧
    (s.queue q).ringFull = false ∧ e.noint = false ∧ v < msixVectors f ∧ m.enable = true ∧
    (m.functionMask = true ∨ v ∉ m.unmasked) := by
  dsimp only
  decide +kernel

theorem wit_postFull :
    let s : State := with21 { queue0 with done := [queueEntry queue0 Status.queueState 0], cqTail := 15 };
    let q := 21;
    q < 1024 ∧ (s.queue q).ringFull = true := by
  dsimp only
  decide +kernel

theorem wit_cqHead :
    let s : State := base;
    let q := 20;
    let b : Doorbell := { fn := 1, queue := 20 };
    q < 1024 ∧ b.queue = q ∧ b.fn < 17 ∧ (b.fn = 0 ∨ (s.queue q).part + 1 = b.fn) ∧ (s.queue q).st ≠ QueueSt.absent := by
  dsimp only
  decide +kernel

theorem wit_adminOn :
    let s : State := { base with admin := [(16, { sq := 0x100010, cq := 0x200001, ctrl := 0 })] };
    let f := 16;
    let v : Word64 := 0xFFFFFFFF00000001;
    f < 17 ∧ s.on = true ∧ bit v 0 = true ∧ (s.recovery = false ∨ f = 0) ∧ ringSlots (s.adminOf f).sq ≠ 0 ∧
    ringSlots (s.adminOf f).cq ≠ 0 := by
  dsimp only
  decide +kernel

theorem wit_adminNoRing :
    let s : State := base;
    let f := 16;
    let v : Word64 := 1;
    f < 17 ∧ s.on = true ∧ bit v 0 = true ∧ (ringSlots (s.adminOf f).sq = 0 ∨ ringSlots (s.adminOf f).cq = 0) := by
  dsimp only
  decide +kernel

theorem wit_adminOff :
    let s : State := { base with queues := [(16, queue0)] };
    let f := 16;
    let v : Word64 := 0xFFFFFFFFFFFFFFFE;
    f < 17 ∧ s.on = true ∧ bit v 0 = false ∧ (s.queue f).st ≠ QueueSt.absent := by
  dsimp only
  decide +kernel

theorem wit_errRing :
    let s : State := base;
    let v : Word64 := 0x100010;
    s.on = true ∧ log2Ok v = true ∧ bf v 4 0 ≠ 0 := by
  dsimp only
  decide +kernel

theorem wit_errRingNone :
    let s : State := base;
    let v : BitVec 64 := 0x100000;
    s.on = true ∧ bf v 4 0 = 0 := by
  dsimp only
  decide +kernel

theorem wit_timestamp :
    let s : State := { base with tsLatch := [(16, some 7)] };
    let f := 16;
    let x : Word32 := 7;
    s.on = true ∧ f < 17 ∧ s.tsLatch.get f none = some x := by
  dsimp only
  decide +kernel

theorem wit_hbmControl :
    let s : State := base;
    let v : Word64 := 0x4001800;
    s.on = true ∧ hbmCtlOk v = true := by
  dsimp only
  decide +kernel

theorem wit_adminSq :
    let s : State := base;
    let f := 16;
    let v : Word64 := 0x100010;
    s.on = true ∧ f < 17 ∧ log2Ok v = true := by
  dsimp only
  decide +kernel

theorem wit_coreFlags :
    let s : State := busy;
    let c := 383;
    let g := 15;
    s.on = true ∧ c < 384 ∧ g < 16 := by
  dsimp only
  decide +kernel

theorem wit_coreRegister :
    let s : State := busy;
    let reg := 2;
    let c := 383;
    let g := 15;
    s.on = true ∧ reg < 3 ∧ c < 384 ∧ g < 16 := by
  dsimp only
  decide +kernel

theorem wit_bar2Read :
    let s : State := { base with parts := [(0, part0)] };
    let off := 0x20;
    let len := 32;
    let a := s.bar2Addr off;
    s.on = true ∧ s.inBar2 off len = true ∧ s.quiet = false ∧ 1 ≤ len ∧ a % 32 + len ≤ 32 ∧ s.bar2Live (a / 32 * 32) = true := by
  dsimp only
  decide +kernel

theorem wit_bar2Dead :
    let s : State := { base with bar2Base := 768 };
    let off := 1;
    let len := 31;
    let a := s.bar2Addr off;
    s.on = true ∧ s.inBar2 off len = true ∧ s.quiet = false ∧ 1 ≤ len ∧ a % 32 + len ≤ 32 ∧ s.bar2Live (a / 32 * 32) = false := by
  dsimp only
  decide +kernel

theorem wit_bar2Quiet :
    let s : State := { base with quiet := true };
    let off := 0x20;
    let len := 64;
    s.on = true ∧ s.inBar2 off len = true ∧ s.quiet = true := by
  dsimp only
  decide +kernel

theorem wit_bar2Outside :
    let s : State := base;
    let off := 2 ^ 30;
    let len := 1;
    s.on = true ∧ s.inBar2 off len = false := by
  dsimp only
  decide +kernel

theorem wit_bar2Write :
    let s : State := base;
    let off := 0x1F;
    let b : List Byte := [1];
    let a := s.bar2Addr off;
    let x : Sector := s.hbm.sector (a / 32);
    s.on = true ∧ s.inBar2 off b.length = true ∧ s.quiet = false ∧ b ≠ [] ∧ a % 32 + b.length ≤ 32 ∧ s.bar2Live a = true ∧
    (b.length = 32 ∨ x.poison = false ∧ x.corrected = false) := by
  dsimp only
  decide +kernel

theorem wit_bar2WriteOutside :
    let s : State := base;
    let off := 2 ^ 30 - 1;
    let b : List Byte := [1, 2];
    s.on = true ∧ s.inBar2 off b.length = false := by
  dsimp only
  decide +kernel

theorem wit_checks :
    let s : State := base;
    let k := cmd 0 0 [];
    let row : OpRow := { op := 0, gen := 1 };
    let unit : Bool := true;
    let params : Bool := true;
    let st := Status.invalidParameter;
    k.opcode.toNat = row.op ∧ s.on = true ∧ s.mustWait k = false ∧ (s.queue k.queue).st = QueueSt.running ∧
    (s.queue k.queue).orphans = [] ∧
    (firstFail [(decide (k.gen ≠ 0), Status.invalidParameter), (decide (row.gen ≤ k.gen), Status.invalidOpcode), (headerOk k row,
      Status.invalidParameter), (s.functionMay k row && unit, Status.notPermitted), (params, Status.invalidParameter)] = some st ∨
      0 < k.gen ∧ row.gen ≤ k.gen ∧ headerOk k row = true ∧ s.functionMay k row = true ∧ unit = true ∧ params = true ∧
      s.moduleCheck k row = some st) := by
  dsimp only
  decide +kernel

theorem wit_checksModule :
    let s : State := { base with recovery := true };
    let k := cmd 0x601 2 [];
    let row : OpRow := { op := 0x601, gen := 2 };
    let unit : Bool := true;
    let params : Bool := true;
    let st := Status.deviceFailed;
    k.opcode.toNat = row.op ∧ s.on = true ∧ s.mustWait k = false ∧ (s.queue k.queue).st = QueueSt.running ∧
    (s.queue k.queue).orphans = [] ∧
    (firstFail [(decide (k.gen ≠ 0), Status.invalidParameter), (decide (row.gen ≤ k.gen), Status.invalidOpcode), (headerOk k row,
      Status.invalidParameter), (s.functionMay k row && unit, Status.notPermitted), (params, Status.invalidParameter)] = some st ∨
      0 < k.gen ∧ row.gen ≤ k.gen ∧ headerOk k row = true ∧ s.functionMay k row = true ∧ unit = true ∧ params = true ∧
      s.moduleCheck k row = some st) := by
  dsimp only
  decide +kernel

theorem wit_nop :
    let s : State := base;
    let k := cmd 0 1 [];
    s.accepts k { op := 0, gen := 1, fw := false } = true ∧ k.zeroFrom 0 = true := by
  dsimp only
  decide +kernel

theorem wit_qcCreate :
    let s : State := base;
    let k := cmd 2 1 [0x0100001500000005, 0x300004, 0x400010, 0x3F0];
    let q := qcQueue k;
    s.accepts k { op := 2, gen := 1, fw := false } = true ∧ qcAction k = 1 ∧
    (decide (s.cmdFn k = 0) || decide (bf (k.par 3) 3 0 + 1 = s.cmdFn k)) = true ∧ qcOk k = true ∧ 17 ≤ q ∧
    ringOk (k.par 1) true = true ∧ ringOk (k.par 2) false = true ∧ (s.cmdFn k = 0 ∨ bf (k.par 3) 14 4 < 64) ∧
    (s.queue q).st = QueueSt.absent := by
  dsimp only
  decide +kernel

theorem wit_qcCreateUsed :
    let s : State := with21 queue0;
    let k := cmd 2 1 [0x0100001500000005, 0x300004, 0x400010, 0x3F0];
    let q := qcQueue k;
    s.accepts k { op := 2, gen := 1, fw := false } = true ∧ qcAction k = 1 ∧
    (decide (s.cmdFn k = 0) || decide (bf (k.par 3) 3 0 + 1 = s.cmdFn k)) = true ∧ qcOk k = true ∧ 17 ≤ q ∧
    ringOk (k.par 1) true = true ∧ ringOk (k.par 2) false = true ∧ (s.cmdFn k = 0 ∨ bf (k.par 3) 14 4 < 64) ∧
    (s.queue q).st ≠ QueueSt.absent := by
  dsimp only
  decide +kernel

theorem wit_qcDestroy :
    let s : State := with21 queue0;
    let k := cmd 2 1 [0x0200001500000000];
    let q := qcQueue k;
    s.accepts k { op := 2, gen := 1, fw := false } = true ∧ qcAction k = 2 ∧ qcOk k = true ∧ 17 ≤ q ∧ q ≠ k.queue ∧
    s.ownQueue k q = true ∧ (s.queue q).destroying = none ∧ (s.queue q).accepted = [] ∧ (s.queue q).running = [] ∧
    (s.queue q).done = [] := by
  dsimp only
  decide +kernel

theorem wit_qcDestroyWaits :
    let s : State := with21 { queue0 with running := [cmd 1 1 []] };
    let k := cmd 2 1 [0x0200001500000000];
    let q := qcQueue k;
    s.accepts k { op := 2, gen := 1, fw := false } = true ∧ qcAction k = 2 ∧ qcOk k = true ∧ 17 ≤ q ∧ q ≠ k.queue ∧
    s.ownQueue k q = true ∧ (s.queue q).destroying = none ∧
    ((s.queue q).accepted ≠ [] ∨ (s.queue q).done ≠ [] ∨ ∃ x ∈ (s.queue q).running, x ≠ k) := by
  dsimp only
  decide +kernel

theorem wit_qcStop :
    let s : State := with21 queue0;
    let k := cmd 2 1 [0x0300001500000000];
    let q := qcQueue k;
    s.accepts k { op := 2, gen := 1, fw := false } = true ∧ qcAction k = 3 ∧ qcOk k = true ∧ s.ownQueue k q = true := by
  dsimp only
  decide +kernel

theorem wit_qcResumeLate :
    let s : State := with21 { queue0 with st := .stopped, destroying := some (cmd 2 1 []) };
    let k := cmd 2 1 [0x0400001500000000];
    let q := qcQueue k;
    s.accepts k { op := 2, gen := 1, fw := false } = true ∧ qcAction k = 4 ∧ qcOk k = true ∧ s.ownQueue k q = true ∧
    (s.queue q).destroying.isSome = true := by
  dsimp only
  decide +kernel

theorem wit_qcResume :
    let s : State := with21 { queue0 with st := .stopped, cause := 1 };
    let k := cmd 2 1 [0x0400001500000000];
    let q := qcQueue k;
    s.accepts k { op := 2, gen := 1, fw := false } = true ∧ qcAction k = 4 ∧ qcOk k = true ∧ s.ownQueue k q = true ∧
    (s.queue q).destroying = none ∧ (s.queue q).tail < ringSlots (s.queue q).sq := by
  dsimp only
  decide +kernel

theorem wit_qcReserved :
    let s : State := base;
    let k := cmd 2 1 [0x0500001500000005];
    s.accepts k { op := 2, gen := 1, fw := false } = true ∧ (qcAction k = 0 ∨ 5 ≤ qcAction k) := by
  dsimp only
  decide +kernel

theorem wit_resync :
    let s : State := { base with queues := [(1, queue0)] };
    let k : Cmd := { cmd 1 1 [] with queue := 1 };
    s.accepts k { op := 1, gen := 1 } = true ∧ k.zeroFrom 0 = true ∧ k.queue < 17 := by
  dsimp only
  decide +kernel

theorem wit_partConfig :
    let s : State := withRecord base [0x3, 0x0000FFFF00000000, 0x80000010];
    let k := cmd 4 2 [0x1000];
    let p := s.cmdPart k;
    let r : List Word64 := s.hostWords (BitVec.toNat (k.par 0)) 10;
    s.accepts k { op := 4, gen := 2, pf := true } = true ∧ aligned32 (k.par 0) = true ∧ k.zeroFrom 1 = true ∧
    s.recFits p r = true ∧ recClusters r ≠ 0 ∧ s.partIdle p r = true := by
  dsimp only
  decide +kernel

theorem wit_partDelete :
    let s : State := withRecord { base with leaves := [] } [];
    let k := cmd 4 2 [0x1000];
    let p := s.cmdPart k;
    let r : List Word64 := s.hostWords (BitVec.toNat (k.par 0)) 10;
    s.accepts k { op := 4, gen := 2, pf := true } = true ∧ aligned32 (k.par 0) = true ∧ k.zeroFrom 1 = true ∧
    s.recFits p r = true ∧ recClusters r = 0 ∧ s.partIdle p Part.reset.recWords = true := by
  dsimp only
  decide +kernel

theorem wit_partBusy :
    let s : State := withRecord busy [0x3, 0x0000FFFF00000000, 0x80000010];
    let k := cmd 4 2 [0x1000];
    let p := s.cmdPart k;
    let r : List Word64 := s.hostWords (BitVec.toNat (k.par 0)) 10;
    s.accepts k { op := 4, gen := 2, pf := true } = true ∧ aligned32 (k.par 0) = true ∧ k.zeroFrom 1 = true ∧
    s.recFits p r = true ∧ recClusters r ≠ 0 ∧ s.partIdle p r = false := by
  dsimp only
  decide +kernel

theorem wit_partReset :
    let s : State := withJob { job0 with phase := .waiting };
    let k := cmd 5 2 [];
    let p := s.cmdPart k;
    s.accepts k { op := 5, gen := 2, pf := true } = true ∧ k.zeroFrom 0 = true ∧
    ∀ (j : ℕ) (b : Job), partOf j = p → s.job j = some b → b.onUnits = false ∧ (b.active = false ∨ s.spans b = false) ∧
    b.ending = none := by
  refine ⟨by decide +kernel, by decide +kernel, fun j b _ e => ?_⟩
  exact all_jobs _ (fun b => b.onUnits = false ∧ (b.active = false ∨ (withJob { job0 with phase := .waiting }).spans b = false) ∧ b.ending = none) (by decide +kernel) j b e

theorem wit_partResetWaits :
    let s : State := busy;
    let k := cmd 5 2 [];
    let p := s.cmdPart k;
    s.accepts k { op := 5, gen := 2, pf := true } = true ∧ k.zeroFrom 0 = true ∧
    (∀ (j : ℕ) (b : Job), partOf j = p → s.job j = some b → (b.onUnits = true ∨ b.active = true ∧ s.spans b = true) ∧ b.ending =
      none) ∧ s.partJobs p ≠ [] ∧ (s.part p).joins = [] ∧ (s.part p).batchQ = [] := by
  refine ⟨by decide +kernel, by decide +kernel, fun j b _ e => ?_, by decide +kernel, by decide +kernel, by decide +kernel⟩
  exact all_jobs _ (fun b => (b.onUnits = true ∨ (b.active = true ∧ busy.spans b = true)) ∧ b.ending = none) (by decide +kernel) j b e

theorem wit_groupSet :
    let s : State := withRecord base [0x0000080000000000];
    let k := cmd 6 3 [0x100000000 + 7, 0x1000];
    let n := 7;
    let far : List (ℕ × FarGroup) := [];
    let ms : List (BitVec 32) := List.map (fun (i : ℕ) => BitVec.ofNat 32 (fromLe (s.hostRead (BitVec.toNat (k.par 1) + 4 * i)
      4))) (List.range (bf (k.par 0) 41 32 + 1));
    n = bf (k.par 0) 15 0 ∧ n ≠ 65535 ∧ s.accepts k { op := 6, gen := 3, pf := true } = true ∧ bf (k.par 0) 63 42 = 0 ∧
    bf (k.par 0) 31 16 = 0 ∧ aligned32 (k.par 1) = true ∧ k.zeroFrom 2 = true ∧ s.groupSetFail far n ms = none ∧
    s.lockedGroups.contains n = false ∧ ((s.resolved far ms).all fun (x : ℕ × ℕ) => decide (x.1 = s.device)) = true := by
  dsimp only
  decide +kernel

theorem wit_groupSetFails :
    let s : State := withRecord grouped [0x0000080000000000];
    let k := cmd 6 3 [0x100000000 + 7, 0x1000];
    let n := 7;
    let far : List (ℕ × FarGroup) := [];
    let a : Answer := { status := Status.groupExists };
    let ms : List (BitVec 32) := List.map (fun (i : ℕ) => BitVec.ofNat 32 (fromLe (s.hostRead (BitVec.toNat (k.par 1) + 4 * i)
      4))) (List.range (bf (k.par 0) 41 32 + 1));
    n = bf (k.par 0) 15 0 ∧ n ≠ 65535 ∧ s.accepts k { op := 6, gen := 3, pf := true } = true ∧ bf (k.par 0) 63 42 = 0 ∧
    bf (k.par 0) 31 16 = 0 ∧ aligned32 (k.par 1) = true ∧ k.zeroFrom 2 = true ∧ s.groupSetFail far n ms = some a := by
  dsimp only
  decide +kernel

theorem wit_groupSetFar :
    let s : State := withRecord pair [0x0010000000000000];
    let k := cmd 6 3 [0x100000000 + 0xFFFE, 0x1000];
    let n := 0xFFFE;
    let far : List (ℕ × FarGroup) := [];
    let ms : List (BitVec 32) := List.map (fun (i : ℕ) => BitVec.ofNat 32 (fromLe (s.hostRead (BitVec.toNat (k.par 1) + 4 * i)
      4))) (List.range (bf (k.par 0) 41 32 + 1));
    n = bf (k.par 0) 15 0 ∧ n ≠ 65535 ∧ s.accepts k { op := 6, gen := 3, pf := true } = true ∧ bf (k.par 0) 63 42 = 0 ∧
    bf (k.par 0) 31 16 = 0 ∧ aligned32 (k.par 1) = true ∧ k.zeroFrom 2 = true ∧ s.groupSetFail far n ms = none ∧
    s.lockedGroups.contains n = false ∧ ((s.resolved far ms).all fun (x : ℕ × ℕ) => decide (x.1 = s.device)) = false ∧
    s.failedDevs.contains s.ceil.root = false ∧ (s.ceil.root = s.device → s.mcRoot.length < 65) := by
  dsimp only
  decide +kernel

theorem wit_groupQuery :
    let s : State := grouped;
    let k := cmd 7 3 [7, 0x1000, 0x1000];
    let n := 7;
    let b : List Byte := (s.started k).groupBytes n ++ if (s.groupE n).home = s.device then List.flatMap (fun (m : Word32) =>
      leBytes 4 (BitVec.toNat m)) (s.groupE n).members else [];
    n = bf (k.par 0) 15 0 ∧ n ≠ 65535 ∧ s.accepts k { op := 7, gen := 3 } = true ∧ k.topZero 0 16 = true ∧
    aligned32 (k.par 1) = true ∧ k.topZero 2 32 = true ∧ k.zeroFrom 3 = true ∧ s.lockedGroups.contains n = false ∧
    (s.groupE n).st = GroupSt.defined ∧ b.length ≤ BitVec.toNat (k.par 2) := by
  dsimp only
  decide +kernel

theorem wit_groupQueryShort :
    let s : State := grouped;
    let k := cmd 7 3 [7, 0x1000, 0];
    let n := 7;
    let b : List Byte := (s.started k).groupBytes n ++ if (s.groupE n).home = s.device then List.flatMap (fun (m : Word32) =>
      leBytes 4 (BitVec.toNat m)) (s.groupE n).members else [];
    n = bf (k.par 0) 15 0 ∧ n ≠ 65535 ∧ s.accepts k { op := 7, gen := 3 } = true ∧ k.topZero 0 16 = true ∧
    aligned32 (k.par 1) = true ∧ k.topZero 2 32 = true ∧ k.zeroFrom 3 = true ∧ s.lockedGroups.contains n = false ∧
    (s.groupE n).st = GroupSt.defined ∧ BitVec.toNat (k.par 2) < b.length := by
  dsimp only
  decide +kernel

theorem wit_groupClear :
    let s : State := grouped;
    let k := cmd 8 3 [7];
    let n := 7;
    let far : List (ℕ × FarGroup) := [];
    n = bf (k.par 0) 15 0 ∧ n ≠ 65535 ∧ s.accepts k { op := 8, gen := 3, pf := true } = true ∧ k.topZero 0 16 = true ∧
    k.zeroFrom 1 = true ∧ s.lockedGroups.contains n = false ∧ (s.groupE n).home = s.device ∧ (s.groupE n).st = GroupSt.defined ∧
    (∀ x ∈ s.groups, x.2.st = GroupSt.free ∨ n ∉ x.2.inner) ∧ (∀ x ∈ far, n ∉ (s.fabricGroup far x.1).inner) ∧
    (s.started k).outstanding n = 0 ∧ ((s.groupE n).cores.all fun (x : ℕ × ℕ) => decide (x.1 = s.device)) = true := by
  dsimp only
  decide +kernel

theorem wit_groupClearFar :
    let s : State := pair;
    let k := cmd 8 3 [9];
    let n := 9;
    let far : List (ℕ × FarGroup) := [(9, far9)];
    n = bf (k.par 0) 15 0 ∧ n ≠ 65535 ∧ s.accepts k { op := 8, gen := 3, pf := true } = true ∧ k.topZero 0 16 = true ∧
    k.zeroFrom 1 = true ∧ s.lockedGroups.contains n = false ∧ (s.fabricGroup far n).st ≠ GroupSt.free ∧
    (s.fabricGroup far n).home ≠ s.device := by
  dsimp only
  decide +kernel

theorem wit_groupClearSpread :
    let s : State := { pair with groups := [(7, { group7 with cores := [(0, 0), (1, 0)] })] };
    let k := cmd 8 3 [7];
    let n := 7;
    let far : List (ℕ × FarGroup) := [];
    n = bf (k.par 0) 15 0 ∧ n ≠ 65535 ∧ s.accepts k { op := 8, gen := 3, pf := true } = true ∧ k.topZero 0 16 = true ∧
    k.zeroFrom 1 = true ∧ s.lockedGroups.contains n = false ∧ (s.groupE n).home = s.device ∧ (s.groupE n).st = GroupSt.defined ∧
    (∀ x ∈ s.groups, x.2.st = GroupSt.free ∨ n ∉ x.2.inner) ∧ (∀ x ∈ far, n ∉ (s.fabricGroup far x.1).inner) ∧
    (s.started k).outstanding n = 0 ∧ ((s.groupE n).cores.all fun (x : ℕ × ℕ) => decide (x.1 = s.device)) = false ∧
    s.failedDevs.contains s.ceil.root = false ∧ (s.ceil.root = s.device → s.mcRoot.length < 65) := by
  dsimp only
  decide +kernel

theorem wit_groupClearUsed :
    let s : State := { grouped with groups := [(7, group7), (8, { group7 with members := [0xC0000007] })] };
    let k := cmd 8 3 [7];
    let n := 7;
    let far : List (ℕ × FarGroup) := [];
    n = bf (k.par 0) 15 0 ∧ n ≠ 65535 ∧ s.accepts k { op := 8, gen := 3, pf := true } = true ∧ k.topZero 0 16 = true ∧
    k.zeroFrom 1 = true ∧ s.lockedGroups.contains n = false ∧ (s.groupE n).home = s.device ∧ (s.groupE n).st = GroupSt.defined ∧
    ((∃ x ∈ s.groups, x.2.st ≠ GroupSt.free ∧ n ∈ x.2.inner) ∨ ∃ x ∈ far, n ∈ (s.fabricGroup far x.1).inner) := by
  dsimp only
  decide +kernel

theorem wit_groupClearBusy :
    let s : State := { grouped with jobs := [(0, some { job0 with unit := 0xC0000007 })] };
    let k := cmd 8 3 [7];
    let n := 7;
    let far : List (ℕ × FarGroup) := [];
    n = bf (k.par 0) 15 0 ∧ n ≠ 65535 ∧ s.accepts k { op := 8, gen := 3, pf := true } = true ∧ k.topZero 0 16 = true ∧
    k.zeroFrom 1 = true ∧ s.lockedGroups.contains n = false ∧ (s.groupE n).home = s.device ∧ (s.groupE n).st = GroupSt.defined ∧
    (∀ x ∈ s.groups, x.2.st = GroupSt.free ∨ n ∉ x.2.inner) ∧ (∀ x ∈ far, n ∉ (s.fabricGroup far x.1).inner) ∧
    (s.started k).outstanding n ≠ 0 := by
  dsimp only
  decide +kernel

theorem wit_map :
    let s : State := base;
    let k := cmd 0x100 1 [0xFFFFFFFFF0000, 0xC400000000030000, 2];
    let p := s.cmdPart k;
    let va := BitVec.toNat (k.par 0);
    let e : Word64 := k.par 1;
    let n := bf (k.par 2) 20 1;
    let size := if bit (k.par 2) 0 = true then 2 ^ 28 else 2 ^ 16;
    let a := bf e 51 16 * 65536;
    s.accepts k { op := 256, gen := 1 } = true ∧ k.topZero 0 52 = true ∧ k.topZero 2 21 = true ∧ k.zeroFrom 3 = true ∧ 1 ≤ n ∧
    va % size = 0 ∧ bit e 63 = true ∧ bit e 58 = true ∧ bf e 53 52 = 0 ∧ bf e 15 0 = 0 ∧ va + n * size ≤ 2 ^ 52 ∧ bf e 57 54 = p ∧
    a + (n - 1) * size < 2 ^ 52 ∧ (bf e 60 59 = 3 → windowRun a n size = true) ∧
    (∀ i < n, s.targetOk p (bf e 60 59) (a + i * size) size = true) ∧
    (∀ l ∈ s.leaves, l.part = p → l.meets va (n * size) = false) ∧ tablesUsed (s.leaves ++ mapLeaves p va n size e) ≤ 32768 := by
  dsimp only
  decide +kernel

theorem wit_mapExists :
    let s : State := base;
    let k := cmd 0x100 1 [0x20000, 0xC400000000030000, 2];
    let p := s.cmdPart k;
    let va := BitVec.toNat (k.par 0);
    let e : Word64 := k.par 1;
    let n := bf (k.par 2) 20 1;
    let size := if bit (k.par 2) 0 = true then 2 ^ 28 else 2 ^ 16;
    let a := bf e 51 16 * 65536;
    s.accepts k { op := 256, gen := 1 } = true ∧ k.topZero 0 52 = true ∧ k.topZero 2 21 = true ∧ k.zeroFrom 3 = true ∧ 1 ≤ n ∧
    va % size = 0 ∧ bit e 63 = true ∧ bit e 58 = true ∧ bf e 53 52 = 0 ∧ bf e 15 0 = 0 ∧ va + n * size ≤ 2 ^ 52 ∧ bf e 57 54 = p ∧
    a + (n - 1) * size < 2 ^ 52 ∧ (bf e 60 59 = 3 → windowRun a n size = true) ∧
    (∀ i < n, s.targetOk p (bf e 60 59) (a + i * size) size = true) ∧ ∃ l ∈ s.leaves, l.part = p ∧ l.meets va (n * size) = true := by
  dsimp only
  decide +kernel

theorem wit_unmap :
    let s : State := base;
    let k := cmd 0x101 1 [0x10000, 0x20000];
    let p := s.cmdPart k;
    let va := BitVec.toNat (k.par 0);
    let dst := BitVec.toNat (k.par 1);
    let hit : Leaf → Bool := fun (l : Leaf) => decide (l.part = p) && l.meets va dst;
    s.accepts k { op := 257, gen := 1 } = true ∧ rangeOk k = true ∧ ∀ l ∈ s.leaves, hit l = true → va ≤ l.va ∧
    l.va + l.size ≤ va + dst := by
  dsimp only
  decide +kernel

theorem wit_unmapCuts :
    let s : State := { base with leaves := [{ part := 0, va := 0, big := true, entry := 0x8400000000000000 }] };
    let k := cmd 0x101 1 [0, 0x10000];
    let p := s.cmdPart k;
    let va := BitVec.toNat (k.par 0);
    let dst := BitVec.toNat (k.par 1);
    let hit : Leaf → Bool := fun (l : Leaf) => decide (l.part = p) && l.meets va dst;
    s.accepts k { op := 257, gen := 1 } = true ∧ rangeOk k = true ∧ ∃ l ∈ s.leaves, hit l = true ∧
    (l.va < va ∨ va + dst < l.va + l.size) := by
  dsimp only
  decide +kernel

theorem wit_invalidate :
    let s : State := base;
    let k := cmd 0x102 1 [0xFFFFFFFFF0000, 0x10000];
    s.accepts k { op := 258, gen := 1 } = true ∧ rangeOk k = true := by
  dsimp only
  decide +kernel

theorem wit_windowTaken :
    let s : State := { base with windows := [(255, { w0 := 0x8000000000000000, w1 := 1, open_ := 0 })] };
    let k := cmd 0x103 2 [255, 0x8000000000000000, 262144];
    let p := s.cmdPart k;
    let va := BitVec.toNat (k.par 0);
    let len := BitVec.toNat (k.par 2);
    s.accepts k { op := 259, gen := 2 } = true ∧ k.topZero 0 8 = true ∧ k.zeroFrom 3 = true ∧ bit (k.par 1) 63 = true ∧
    bf (k.par 1) 57 52 = 0 ∧ bf (k.par 1) 15 0 = 0 ∧ 1 ≤ len ∧ len ≤ 262144 ∧ bf (k.par 1) 61 58 = p ∧
    bit (s.window va).w0 63 = true := by
  dsimp only
  decide +kernel

theorem wit_windowClear :
    let s : State := { base with windows := [(255, { w0 := 0x8000000000000000, w1 := 1, open_ := 0 })] };
    let k := cmd 0x104 2 [255];
    let p := s.cmdPart k;
    let va := BitVec.toNat (k.par 0);
    s.accepts k { op := 260, gen := 2 } = true ∧ k.topZero 0 8 = true ∧ k.zeroFrom 1 = true ∧ bit (s.window va).w0 63 = true ∧
    bf (s.window va).w0 61 58 = p ∧ (s.window va).open_ = 0 := by
  dsimp only
  decide +kernel

theorem wit_windowBusy :
    let s : State := { base with windows := [(255, { w0 := 0x8000000000000000, w1 := 1, open_ := 1 })] };
    let k := cmd 0x104 2 [255];
    let p := s.cmdPart k;
    let va := BitVec.toNat (k.par 0);
    s.accepts k { op := 260, gen := 2 } = true ∧ k.topZero 0 8 = true ∧ k.zeroFrom 1 = true ∧ bit (s.window va).w0 63 = true ∧
    bf (s.window va).w0 61 58 = p ∧ (s.window va).open_ ≠ 0 := by
  dsimp only
  decide +kernel

theorem wit_memCopy :
    let s : State := base;
    let k := cmd 0x105 1 [0xFFE0, 0, 32];
    let ls : List Leaf := [page 0 0xC400000000010000];
    let ld : List Leaf := [page 0 0xC400000000010000];
    let a := 0x1FFE0;
    let b := 0x10000;
    let p := s.cmdPart k;
    let va := BitVec.toNat (k.par 0);
    let dst := BitVec.toNat (k.par 1);
    let len := BitVec.toNat (k.par 2);
    s.accepts k { op := 261, gen := 1, mem := true } = true ∧ k.topZero 0 52 = true ∧ k.topZero 1 52 = true ∧
    k.topZero 2 40 = true ∧ k.zeroFrom 3 = true ∧ va % 32 = 0 ∧ dst % 32 = 0 ∧ len % 32 = 0 ∧ 32 ≤ len ∧ s.crossErr = [] ∧
    (∀ (c : ℕ), (s.partClusters p).head? = some c → (s.cluster c).lines = [] ∧ ∀ r < 4, regOn (s.cluster c).deckCfg r = false) ∧
    (∀ v ∈ s.invals, v.noticed = false → v.part = p → meets va len v.va v.length = false ∧ meets dst len v.va v.length = false) ∧
    s.translate p va len false = Except.ok ls ∧ s.translate p dst len true = Except.ok ld ∧
    (∀ l ∈ ls ++ ld, l.kind = 0 ∧ l.prot = false) ∧ a % 32 = 0 ∧ b % 32 = 0 ∧
    ∀ j < len / 32, (∃ (l : Leaf), s.leafAt p (va + 32 * j) = some l ∧ l.target (va + 32 * j) = Target.hbm (a + 32 * j) ∧ l.kind =
      0 ∧ l.prot = false) ∧
    (∃ (l : Leaf), s.leafAt p (dst + 32 * j) = some l ∧ l.target (dst + 32 * j) = Target.hbm (b + 32 * j) ∧ l.kind = 0 ∧ l.prot =
      false) ∧ s.hbm.sector (a / 32 + j) = { data := s.hbm.bytesAt (a / 32 + j), tag := 0 } ∧
    (s.stack (stackOf (a + 32 * j))).lost = false ∧ (s.stack (stackOf (b + 32 * j))).lost = false := by
  dsimp only
  decide +kernel

theorem wit_zeroLines :
    let s : State := base;
    let k := cmd 0x106 3 [0x40000000, 0xFF80, 128];
    let cores : List (ℕ × ℕ) := (upFrom 0 8).map fun c => (0, c);
    let ls : List Leaf := [page 0 0xC400000000010000];
    let p := s.cmdPart k;
    let dst := BitVec.toNat (k.par 1);
    let len := BitVec.toNat (k.par 2);
    s.accepts k { op := 262, gen := 3, mem := true } = true ∧ k.topZero 0 32 = true ∧ k.topZero 1 52 = true ∧
    k.topZero 2 29 = true ∧ k.zeroFrom 3 = true ∧ (∀ (d c : ℕ), unitOf (k.unitAt 0) ≠ UnitName.core d c) ∧
    (∀ (d : ℕ), unitOf (k.unitAt 0) ≠ UnitName.device d) ∧ unitOf (k.unitAt 0) ≠ UnitName.reserved ∧
    s.unitIn (k.unitAt 0) p (s.cmdFn k) = true ∧ dst % 128 = 0 ∧ len % 128 = 0 ∧ 1 ≤ len ∧ len ≤ 2 ^ 28 ∧
    s.resolve (k.unitAt 0) true = Except.ok cores ∧ s.translateEngine p dst len true = Except.ok ls ∧ (∀ l ∈ ls, l.kind ≠ 3) ∧
    (∀ c ∈ cores, (s.cluster (c.2 / 8)).lines = [] ∧ ∀ r < 4, regOn (s.cluster (c.2 / 8)).deckCfg r = false) ∧
    ∀ v ∈ s.invals, v.noticed = false → v.part = p → meets dst len v.va v.length = false := by
  try dsimp only
  and_intros <;> first | decide +kernel | (simp only [State.offers, State.cleanSector, exists_some, forall_some, not_core, not_device]; decide +kernel)

theorem wit_deckConfig :
    let s : State := base;
    let k := cmd 0x107 3 [0x40000000, 0x1000];
    let cores : List (ℕ × ℕ) := (upFrom 0 8).map fun c => (0, c);
    let p := s.cmdPart k;
    let u : Word32 := k.unitAt 0;
    let cls : List ℕ := clustersHolding (List.map (fun (x : ℕ × ℕ) => x.2) cores);
    let cfg : List Word64 := deckRecord (s.hostWords (BitVec.toNat (k.par 1)) 8);
    let fields : Prop := ∀ r < 4, bf (cfg.getD (2 * r) 0) 62 60 ≤ 5;
    s.accepts k { op := 263, gen := 3, mem := true } = true ∧ s.unitIn u p (s.cmdFn k) = true ∧ k.topZero 0 32 = true ∧
    aligned32 (k.par 1) = true ∧ k.zeroFrom 2 = true ∧ (∀ (d c : ℕ), unitOf u ≠ UnitName.core d c) ∧
    (∀ (d : ℕ), unitOf u ≠ UnitName.device d) ∧ unitOf u ≠ UnitName.reserved ∧ s.resolve u true = Except.ok cores ∧ fields ∧
    s.overlayMib + cacheMib cfg ≤ 32 ∧ regionsOk cfg = true ∧
    (∀ cl ∈ cls, s.deckMappedAbove cl (scratchUnder s.overlayMib cfg) = false) ∧ s.partRuns p = false := by
  try dsimp only
  and_intros <;> first | decide +kernel | (simp only [State.offers, State.cleanSector, exists_some, forall_some, not_core, not_device]; decide +kernel)

theorem wit_deckBusy :
    let s : State := busy;
    let k := cmd 0x107 3 [0x40000000, 0x1000];
    let cores : List (ℕ × ℕ) := (upFrom 0 8).map fun c => (0, c);
    let p := s.cmdPart k;
    let u : Word32 := k.unitAt 0;
    let cls : List ℕ := clustersHolding (List.map (fun (x : ℕ × ℕ) => x.2) cores);
    let cfg : List Word64 := deckRecord (s.hostWords (BitVec.toNat (k.par 1)) 8);
    let fields : Prop := ∀ r < 4, bf (cfg.getD (2 * r) 0) 62 60 ≤ 5;
    s.accepts k { op := 263, gen := 3, mem := true } = true ∧ s.unitIn u p (s.cmdFn k) = true ∧ k.topZero 0 32 = true ∧
    aligned32 (k.par 1) = true ∧ k.zeroFrom 2 = true ∧ (∀ (d c : ℕ), unitOf u ≠ UnitName.core d c) ∧
    (∀ (d : ℕ), unitOf u ≠ UnitName.device d) ∧ unitOf u ≠ UnitName.reserved ∧ s.resolve u true = Except.ok cores ∧ fields ∧
    s.overlayMib + cacheMib cfg ≤ 32 ∧ regionsOk cfg = true ∧
    (∀ cl ∈ cls, s.deckMappedAbove cl (scratchUnder s.overlayMib cfg) = false) ∧ s.partRuns p = true := by
  try dsimp only
  and_intros <;> first | decide +kernel | (simp only [State.offers, State.cleanSector, exists_some, forall_some, not_core, not_device]; decide +kernel)

theorem wit_deckBad :
    let s : State := withHost base 0x1000 [0x8000000000000000];
    let k := cmd 0x107 3 [0x40000000, 0x1000];
    let cores : List (ℕ × ℕ) := (upFrom 0 8).map fun c => (0, c);
    let p := s.cmdPart k;
    let u : Word32 := k.unitAt 0;
    let cfg : List Word64 := deckRecord (s.hostWords (BitVec.toNat (k.par 1)) 8);
    let fields : Prop := ∀ r < 4, bf (cfg.getD (2 * r) 0) 62 60 ≤ 5;
    s.accepts k { op := 263, gen := 3, mem := true } = true ∧ s.unitIn u p (s.cmdFn k) = true ∧ k.topZero 0 32 = true ∧
    aligned32 (k.par 1) = true ∧ k.zeroFrom 2 = true ∧ (∀ (d c : ℕ), unitOf u ≠ UnitName.core d c) ∧
    (∀ (d : ℕ), unitOf u ≠ UnitName.device d) ∧ unitOf u ≠ UnitName.reserved ∧ s.resolve u true = Except.ok cores ∧
    (¬fields ∨ 32 < s.overlayMib + cacheMib cfg ∨ regionsOk cfg = false) := by
  try dsimp only
  and_intros <;> first | decide +kernel | (simp only [State.offers, State.cleanSector, exists_some, forall_some, not_core, not_device]; decide +kernel)

theorem wit_deckQuery :
    let s : State := base;
    let k := cmd 0x108 3 [0x40004000, 0x1000];
    let d := 0;
    let cl := 1;
    let cores : List (ℕ × ℕ) := (upFrom 8 8).map fun c => (0, c);
    let p := s.cmdPart k;
    let u : Word32 := k.unitAt 0;
    s.accepts k { op := 264, gen := 3 } = true ∧ s.unitIn u p (s.cmdFn k) = true ∧ k.topZero 0 32 = true ∧
    aligned32 (k.par 1) = true ∧ k.zeroFrom 2 = true ∧ unitOf u = UnitName.cluster d cl ∧ s.resolve u true = Except.ok cores ∧
    clustersHolding (List.map (fun (x : ℕ × ℕ) => x.2) cores) = [cl] ∧ (s.cluster cl).deckCfg.length = 8 := by
  dsimp only
  decide +kernel

theorem wit_overlayConfig :
    let s : State := base;
    let k := cmd 0x20C 3 [6];
    let mib := bf (k.par 0) 2 0;
    s.accepts k { op := 524, gen := 3, pf := true, dev := true, mem := true } = true ∧ k.topZero 0 3 = true ∧
    k.zeroFrom 1 = true ∧ mib ≠ 7 ∧
    (∀ cl < 48, mib + cacheMib (s.cluster cl).deckCfg ≤ 32 ∧ s.deckMappedAbove cl (scratchUnder mib (s.cluster cl).deckCfg) =
      false) ∧ s.overlay = [] ∧ ∀ j ∈ s.heldJobs, ∀ (b : Job), s.job j = some b → b.active = false := by
  dsimp only
  decide +kernel

theorem wit_overlayBusy :
    let s : State := busy;
    let k := cmd 0x20C 3 [0];
    let mib := bf (k.par 0) 2 0;
    s.accepts k { op := 524, gen := 3, pf := true, dev := true, mem := true } = true ∧ k.topZero 0 3 = true ∧
    k.zeroFrom 1 = true ∧ mib ≠ 7 ∧
    (∀ cl < 48, mib + cacheMib (s.cluster cl).deckCfg ≤ 32 ∧ s.deckMappedAbove cl (scratchUnder mib (s.cluster cl).deckCfg) =
      false) ∧ (s.overlay ≠ [] ∨ ∃ j ∈ s.heldJobs, ∃ (b : Job), s.job j = some b ∧ b.active = true) := by
  dsimp only
  decide +kernel

theorem wit_tableCreate :
    let s : State := withHost base 0x1000 made;
    let k := cmd 0x200 1 [4095, 0x1000];
    let t : Table := made0;
    let n := tableOf k;
    let a := BitVec.toNat (k.par 1);
    let w : List Word64 := createWords (s.hostWords a 6);
    let g : ℕ → Word64 := fun (i : ℕ) => w.getD i 0;
    let shards : List ℕ := if bit (g 1) 63 = true then List.map (fun (i : ℕ) => fromLe (s.hostRead (a + 64 + 2 * i) 2))
      (List.range (bf (g 1) 56 47 + 1)) else [];
    s.lockedTables.contains n = false ∧ s.accepts k { op := 512, gen := 1, mem := true } = true ∧ k.topZero 0 12 = true ∧
    aligned32 (k.par 1) = true ∧ k.zeroFrom 2 = true ∧ t.w0 = g 0 ∧ t.w1 = g 1 ∧ t.w2 = g 2 ∧ t.shards = shards ∧ t.ce = 0 ∧
    t.active = 0 ∧ t.flipTick = 0 ∧ t.lastVersion = 0 ∧ t.dflt = List.replicate (4 * t.dim) 0 ∧
    t.slots = [(0, have __src : VSlot := VSlot.reset;
      { st := SlotState.active, version := __src.version, foldEpoch := __src.foldEpoch, pins := __src.pins, base := bf (g 3) 39 0, dead := __src.dead })]
      ∧ t.patchBase = bf (g 4) 39 0 ∧ t.patchRows = bf (g 5) 31 0 ∧ descriptorOk (g 0) (g 1) (g 2) = true ∧
    t.patchRows ≤ 16777216 ∧ (∀ d ∈ shards, d < 1024) ∧ s.slotUsable t (bf (g 3) 39 0) = true ∧ t.patchBase % 65536 = 0 ∧
    s.rangeUsable t.patchBase (t.patchRows * t.stride) = true ∧ s.table n = none := by
  dsimp only
  decide +kernel

theorem wit_tableExists :
    let s : State := { withHost base 0x1000 made with tables := [(4095, some made0)] };
    let k := cmd 0x200 1 [4095, 0x1000];
    let t : Table := made0;
    let n := tableOf k;
    let a := BitVec.toNat (k.par 1);
    let w : List Word64 := createWords (s.hostWords a 6);
    let g : ℕ → Word64 := fun (i : ℕ) => w.getD i 0;
    let shards : List ℕ := if bit (g 1) 63 = true then List.map (fun (i : ℕ) => fromLe (s.hostRead (a + 64 + 2 * i) 2))
      (List.range (bf (g 1) 56 47 + 1)) else [];
    s.lockedTables.contains n = false ∧ s.accepts k { op := 512, gen := 1, mem := true } = true ∧ k.topZero 0 12 = true ∧
    aligned32 (k.par 1) = true ∧ k.zeroFrom 2 = true ∧ t.w0 = g 0 ∧ t.w1 = g 1 ∧ t.w2 = g 2 ∧ t.shards = shards ∧ t.ce = 0 ∧
    t.active = 0 ∧ t.flipTick = 0 ∧ t.lastVersion = 0 ∧ t.dflt = List.replicate (4 * t.dim) 0 ∧
    t.slots = [(0, have __src : VSlot := VSlot.reset;
      { st := SlotState.active, version := __src.version, foldEpoch := __src.foldEpoch, pins := __src.pins, base := bf (g 3) 39 0, dead := __src.dead })]
      ∧ t.patchBase = bf (g 4) 39 0 ∧ t.patchRows = bf (g 5) 31 0 ∧ descriptorOk (g 0) (g 1) (g 2) = true ∧
    t.patchRows ≤ 16777216 ∧ (∀ d ∈ shards, d < 1024) ∧ s.slotUsable t (bf (g 3) 39 0) = true ∧ t.patchBase % 65536 = 0 ∧
    s.rangeUsable t.patchBase (t.patchRows * t.stride) = true ∧ s.table n ≠ none := by
  dsimp only
  decide +kernel

theorem wit_tableQuery :
    let s : State := withTable base table0;
    let k := cmd 0x202 1 [5, 0x1000, 160];
    let n := tableOf k;
    let b : List Byte := match s.table n with | none => List.replicate 128 0 | some t => pad32 (wordBytes (s.descriptor n t) ++
      List.flatMap (fun (d : ℕ) => leBytes 2 d) t.shards);
    s.lockedTables.contains n = false ∧ s.accepts k { op := 514, gen := 1 } = true ∧ k.topZero 0 12 = true ∧
    aligned32 (k.par 1) = true ∧ k.topZero 2 32 = true ∧ k.zeroFrom 3 = true ∧ b.length ≤ BitVec.toNat (k.par 2) := by
  dsimp only
  decide +kernel

theorem wit_tableQueryNone :
    let s : State := base;
    let k := cmd 0x202 1 [5, 0x1000, 128];
    let n := tableOf k;
    let b : List Byte := match s.table n with | none => List.replicate 128 0 | some t => pad32 (wordBytes (s.descriptor n t) ++
      List.flatMap (fun (d : ℕ) => leBytes 2 d) t.shards);
    s.lockedTables.contains n = false ∧ s.accepts k { op := 514, gen := 1 } = true ∧ k.topZero 0 12 = true ∧
    aligned32 (k.par 1) = true ∧ k.topZero 2 32 = true ∧ k.zeroFrom 3 = true ∧ b.length ≤ BitVec.toNat (k.par 2) := by
  dsimp only
  decide +kernel

theorem wit_tableQueryShort :
    let s : State := withTable base table0;
    let k := cmd 0x202 1 [5, 0x1000, 0];
    let n := tableOf k;
    let b : List Byte := match s.table n with | none => List.replicate 128 0 | some t => pad32 (wordBytes (s.descriptor n t) ++
      List.flatMap (fun (d : ℕ) => leBytes 2 d) t.shards);
    s.lockedTables.contains n = false ∧ s.accepts k { op := 514, gen := 1 } = true ∧ k.topZero 0 12 = true ∧
    aligned32 (k.par 1) = true ∧ k.topZero 2 32 = true ∧ k.zeroFrom 3 = true ∧ BitVec.toNat (k.par 2) < b.length := by
  dsimp only
  decide +kernel

theorem wit_tablePinned :
    let s : State := withTable base (tableIn .flipCommitted);
    let k := cmd 0x201 1 [5];
    let t : Table := tableIn .flipCommitted;
    let n := tableOf k;
    s.lockedTables.contains n = false ∧ s.table n = some t ∧ s.accepts k { op := 513, gen := 1 } = true ∧ k.topZero 0 12 = true ∧
    k.zeroFrom 1 = true ∧ ∃ i < 4, (t.slot i).pins ≠ 0 ∨ (t.slot i).st = SlotState.flipCommitted := by
  dsimp only
  decide +kernel

theorem wit_tableDestroy :
    let s : State := withTable base table0;
    let k := cmd 0x201 1 [5];
    let t : Table := table0;
    let n := tableOf k;
    s.lockedTables.contains n = false ∧ s.table n = some t ∧ s.accepts k { op := 513, gen := 1 } = true ∧ k.topZero 0 12 = true ∧
    k.zeroFrom 1 = true ∧ (∀ i < 4, (t.slot i).pins = 0 ∧ (t.slot i).st ≠ SlotState.flipCommitted) ∧ ∀ r ∈ s.retires, r.table ≠ n := by
  dsimp only
  decide +kernel

theorem wit_versionsFull :
    let s : State := withTable base { table0 with slots := (List.range 4).map fun i => (i, { VSlot.reset with st := .ready }) };
    let k := cmd 0x203 2 [5, 0x10000, 0];
    let t : Table := { table0 with slots := (List.range 4).map fun i => (i, { VSlot.reset with st := .ready }) };
    let n := tableOf k;
    let a := BitVec.toNat (k.par 1);
    s.lockedTables.contains n = false ∧ s.table n = some t ∧ s.accepts k { op := 515, gen := 2 } = true ∧ openOk k = true ∧
    epochLt t.ce (k.unitAt 2) = false ∧ s.slotUsable t a = true ∧ t.freeSlot = none := by
  dsimp only
  decide +kernel

theorem wit_versionOpen :
    let s : State := withTable base table0;
    let k := cmd 0x203 2 [5, 0x10000, 0];
    let t : Table := table0;
    let i := 1;
    let n := tableOf k;
    let a := BitVec.toNat (k.par 1);
    s.lockedTables.contains n = false ∧ s.table n = some t ∧ s.accepts k { op := 515, gen := 2 } = true ∧ openOk k = true ∧
    epochLt t.ce (k.unitAt 2) = false ∧ s.slotUsable t a = true ∧ t.freeSlot = some i := by
  dsimp only
  decide +kernel

theorem wit_sealNone :
    let s : State := withTable base table0;
    let k := cmd 0x205 2 [0x20005];
    let t : Table := table0;
    let n := tableOf k;
    s.lockedTables.contains n = false ∧ s.table n = some t ∧ s.accepts k { op := 517, gen := 2 } = true ∧ versionOk k = true ∧
    k.zeroFrom 1 = true ∧ t.slotIn (versionOf k) SlotState.loading = none := by
  dsimp only
  decide +kernel

theorem wit_seal :
    let s : State := withTable base (tableIn .loading);
    let k := cmd 0x205 2 [0x20005];
    let t : Table := tableIn .loading;
    let i := 3;
    let n := tableOf k;
    s.lockedTables.contains n = false ∧ s.table n = some t ∧ s.accepts k { op := 517, gen := 2 } = true ∧ versionOk k = true ∧
    k.zeroFrom 1 = true ∧ t.slotIn (versionOf k) SlotState.loading = some i ∧ ∀ f ∈ s.folds, f.table = n → f.slot ≠ i := by
  dsimp only
  decide +kernel

theorem wit_flipAway :
    let s : State := withTable { pair with device := 1 } (tableIn .ready);
    let k := cmd 0x206 1 [0x20005];
    let t : Table := tableIn .ready;
    let n := tableOf k;
    s.lockedTables.contains n = false ∧ s.table n = some t ∧ s.accepts k { op := 518, gen := 1 } = true ∧ versionOk k = true ∧
    k.zeroFrom 1 = true ∧ s.notFirst t = true := by
  dsimp only
  decide +kernel

theorem wit_flipNone :
    let s : State := withTable base table0;
    let k := cmd 0x206 1 [0x20005];
    let t : Table := table0;
    let n := tableOf k;
    s.lockedTables.contains n = false ∧ s.table n = some t ∧ s.accepts k { op := 518, gen := 1 } = true ∧ versionOk k = true ∧
    k.zeroFrom 1 = true ∧ s.notFirst t = false ∧ t.slotIn (versionOf k) SlotState.ready = none := by
  dsimp only
  decide +kernel

theorem wit_flip :
    let s : State := withTable base (tableIn .ready);
    let k := cmd 0x206 1 [0x20005];
    let t : Table := tableIn .ready;
    let i := 3;
    let n := tableOf k;
    s.lockedTables.contains n = false ∧ s.table n = some t ∧ s.accepts k { op := 518, gen := 1 } = true ∧ versionOk k = true ∧
    k.zeroFrom 1 = true ∧ s.notFirst t = false ∧ t.slotIn (versionOf k) SlotState.ready = some i ∧ s.spread t = false ∧
    t.slotOf (versionOf k) = some i := by
  dsimp only
  decide +kernel

theorem wit_flipSpread :
    let s : State := withTable pair (tableIn .ready);
    let k := cmd 0x206 1 [0x20005];
    let t : Table := tableIn .ready;
    let i := 3;
    let n := tableOf k;
    s.lockedTables.contains n = false ∧ s.table n = some t ∧ s.accepts k { op := 518, gen := 1 } = true ∧ versionOk k = true ∧
    k.zeroFrom 1 = true ∧ s.notFirst t = false ∧ t.slotIn (versionOf k) SlotState.ready = some i ∧ s.spread t = true ∧
    s.failedDevs.contains s.ceil.root = false ∧ (s.ceil.root = s.device → s.mcRoot.length < 65) := by
  dsimp only
  decide +kernel

theorem wit_retireNone :
    let s : State := withTable base table0;
    let k := cmd 0x207 2 [0x20005];
    let t : Table := table0;
    let n := tableOf k;
    s.lockedTables.contains n = false ∧ s.table n = some t ∧ s.accepts k { op := 519, gen := 2 } = true ∧ versionOk k = true ∧
    k.zeroFrom 1 = true ∧ t.slotIn (versionOf k) SlotState.draining = none := by
  dsimp only
  decide +kernel

theorem wit_retire :
    let s : State := withTable base (tableIn .draining);
    let k := cmd 0x207 2 [0x20005];
    let t : Table := tableIn .draining;
    let i := 3;
    let n := tableOf k;
    s.lockedTables.contains n = false ∧ s.table n = some t ∧ s.accepts k { op := 519, gen := 2 } = true ∧ versionOk k = true ∧
    k.zeroFrom 1 = true ∧ t.slotIn (versionOf k) SlotState.draining = some i ∧ ∀ r ∈ s.retires, r.table = n → r.slot ≠ i := by
  dsimp only
  decide +kernel

theorem wit_rowsBeyond :
    let s : State := withTable base (tableIn .loading);
    let k := cmd 0x204 1 [0x20005, 16, 1, 0x20000];
    let t : Table := tableIn .loading;
    let n := tableOf k;
    let first := BitVec.toNat (k.par 1);
    let count := BitVec.toNat (k.par 2);
    s.lockedTables.contains n = false ∧ s.table n = some t ∧ s.accepts k { op := 516, gen := 1, mem := true } = true ∧
    versionOk k = true ∧ k.topZero 1 40 = true ∧ k.topZero 2 40 = true ∧ k.par 2 ≠ 0 ∧ k.topZero 3 52 = true ∧
    k.zeroFrom 4 = true ∧ aligned32 (k.par 3) = true ∧ t.rows < first + count := by
  dsimp only
  decide +kernel

theorem wit_rowsNone :
    let s : State := withTable base table0;
    let k := cmd 0x204 1 [0x20005, 15, 1, 0x20000];
    let t : Table := table0;
    let n := tableOf k;
    let first := BitVec.toNat (k.par 1);
    let count := BitVec.toNat (k.par 2);
    s.lockedTables.contains n = false ∧ s.table n = some t ∧ s.accepts k { op := 516, gen := 1, mem := true } = true ∧
    versionOk k = true ∧ k.topZero 1 40 = true ∧ k.topZero 2 40 = true ∧ k.par 2 ≠ 0 ∧ k.topZero 3 52 = true ∧
    k.zeroFrom 4 = true ∧ aligned32 (k.par 3) = true ∧ first + count ≤ t.rows ∧ t.slotIn (versionOf k) SlotState.loading = none := by
  dsimp only
  decide +kernel

theorem wit_rows :
    let s : State := withTable base (tableIn .loading);
    let k := cmd 0x204 1 [0x20005, 14, 1, 0x20000];
    let t : Table := tableIn .loading;
    let i := 3;
    let n := tableOf k;
    let p := s.cmdPart k;
    let first := BitVec.toNat (k.par 1);
    let count := BitVec.toNat (k.par 2);
    let va := BitVec.toNat (k.par 3);
    s.lockedTables.contains n = false ∧ s.table n = some t ∧ s.accepts k { op := 516, gen := 1, mem := true } = true ∧
    versionOk k = true ∧ k.topZero 1 40 = true ∧ k.topZero 2 40 = true ∧ k.par 2 ≠ 0 ∧ k.topZero 3 52 = true ∧
    k.zeroFrom 4 = true ∧ aligned32 (k.par 3) = true ∧ first + count ≤ t.rows ∧
    t.slotIn (versionOf k) SlotState.loading = some i ∧
    (∃ (ls : List Leaf), s.translateEngine p va (count * t.stride) false = Except.ok ls) ∧
    ∀ v ∈ s.invals, v.noticed = false → v.part = p → meets va (count * t.stride) v.va v.length = false := by
  try dsimp only
  and_intros <;> first | decide +kernel | (simp only [State.offers, State.cleanSector, exists_some, forall_some, not_core, not_device]; decide +kernel) | exact ⟨_, rfl⟩ | rfl | exact Or.inl (by decide +kernel) | exact Or.inr (by decide +kernel) | (intro j hj; simp only [exists_some]; revert j; decide +kernel) | (intros; simp_all)

theorem wit_patch :
    let s : State := { withTable base { table0 with patchRows := 1 } with overlayMib := 1 };
    let k := cmd 0x208 3 [5, 0x20000, 1];
    let t : Table := { table0 with patchRows := 1 };
    let h := 0x100000;
    let ls : List Leaf := [page 0x20000 0xD400000000100000];
    let n := tableOf k;
    let p := s.cmdPart k;
    let va := BitVec.toNat (k.par 1);
    let size := 32 + (t.stride + 31) / 32 * 32;
    let ixs : List ℕ := List.map (fun (i : ℕ) => fromLe (s.hostRead (h + i * size) 5)) (List.range (BitVec.toNat (k.par 2)));
    let fresh : List ℕ → ℕ := fun (l : List ℕ) => (List.filter (fun (i : ℕ) => !s.overlay.any fun (o : Overlay) => decide (o.table
      = n) && decide (o.index = i) && o.tag.isNone) l.eraseDups).length;
    let new := fresh ixs;
    let used := (List.filter (fun (o : Overlay) => decide (o.table = n)) s.overlay).length;
    s.lockedTables.contains n = false ∧ s.table n = some t ∧ s.accepts k { op := 520, gen := 3, mem := true } = true ∧
    k.topZero 0 12 = true ∧ k.topZero 1 52 = true ∧ aligned32 (k.par 1) = true ∧ 1 ≤ BitVec.toNat (k.par 2) ∧
    BitVec.toNat (k.par 2) ≤ 65536 ∧ k.zeroFrom 3 = true ∧ s.crossErr = [] ∧
    s.translateEngine p va (BitVec.toNat (k.par 2) * size) false = Except.ok ls ∧
    (∀ j < BitVec.toNat (k.par 2) * size / 32, ∃ (l : Leaf), s.leafAt p (va + 32 * j) = some l ∧ l.target (va + 32 * j) =
      Target.host (h + 32 * j) ∧ h % 32 = 0) ∧ (∀ i ∈ ixs, i < t.rows) ∧ s.overlay.length + new ≤ s.overlayRoom ∧
    used + new ≤ t.patchRows := by
  dsimp only
  decide +kernel

theorem wit_patchFull :
    let s : State := withTable base table0;
    let k := cmd 0x208 3 [5, 0x20000, 1];
    let t : Table := table0;
    let h := 0x100000;
    let ls : List Leaf := [page 0x20000 0xD400000000100000];
    let n := tableOf k;
    let p := s.cmdPart k;
    let va := BitVec.toNat (k.par 1);
    let size := 32 + (t.stride + 31) / 32 * 32;
    let ixs : List ℕ := List.map (fun (i : ℕ) => fromLe (s.hostRead (h + i * size) 5)) (List.range (BitVec.toNat (k.par 2)));
    let fresh : List ℕ → ℕ := fun (l : List ℕ) => (List.filter (fun (i : ℕ) => !s.overlay.any fun (o : Overlay) => decide (o.table
      = n) && decide (o.index = i) && o.tag.isNone) l.eraseDups).length;
    let new := fresh ixs;
    let used := (List.filter (fun (o : Overlay) => decide (o.table = n)) s.overlay).length;
    s.lockedTables.contains n = false ∧ s.table n = some t ∧ s.accepts k { op := 520, gen := 3, mem := true } = true ∧
    k.topZero 0 12 = true ∧ k.topZero 1 52 = true ∧ aligned32 (k.par 1) = true ∧ 1 ≤ BitVec.toNat (k.par 2) ∧
    BitVec.toNat (k.par 2) ≤ 65536 ∧ k.zeroFrom 3 = true ∧ s.crossErr = [] ∧
    s.translateEngine p va (BitVec.toNat (k.par 2) * size) false = Except.ok ls ∧
    (∀ j < BitVec.toNat (k.par 2) * size / 32, ∃ (l : Leaf), s.leafAt p (va + 32 * j) = some l ∧ l.target (va + 32 * j) =
      Target.host (h + 32 * j) ∧ h % 32 = 0) ∧ (∀ i ∈ ixs, i < t.rows) ∧
    (s.overlayRoom < s.overlay.length + new ∨ t.patchRows < used + new) := by
  dsimp only
  decide +kernel

theorem wit_patchBeyond :
    let s : State := withTable (withHost base 0x100000 [16]) table0;
    let k := cmd 0x208 3 [5, 0x20000, 1];
    let t : Table := table0;
    let h := 0x100000;
    let ls : List Leaf := [page 0x20000 0xD400000000100000];
    let n := tableOf k;
    let p := s.cmdPart k;
    let va := BitVec.toNat (k.par 1);
    let size := 32 + (t.stride + 31) / 32 * 32;
    let ixs : List ℕ := List.map (fun (i : ℕ) => fromLe (s.hostRead (h + i * size) 5)) (List.range (BitVec.toNat (k.par 2)));
    s.lockedTables.contains n = false ∧ s.table n = some t ∧ s.accepts k { op := 520, gen := 3, mem := true } = true ∧
    k.topZero 0 12 = true ∧ k.topZero 1 52 = true ∧ aligned32 (k.par 1) = true ∧ 1 ≤ BitVec.toNat (k.par 2) ∧
    BitVec.toNat (k.par 2) ≤ 65536 ∧ k.zeroFrom 3 = true ∧ s.crossErr = [] ∧
    s.translateEngine p va (BitVec.toNat (k.par 2) * size) false = Except.ok ls ∧
    (∀ j < BitVec.toNat (k.par 2) * size / 32, ∃ (l : Leaf), s.leafAt p (va + 32 * j) = some l ∧ l.target (va + 32 * j) =
      Target.host (h + 32 * j) ∧ h % 32 = 0) ∧ ∃ i ∈ ixs, t.rows ≤ i := by
  dsimp only
  decide +kernel

theorem wit_commitRange :
    let s : State := withTable (withJob { job0 with pins := [{ pin5 with ce := 0xC0000000 }] }) table0;
    let k := cmd 0x209 3 [5];
    let t : Table := table0;
    let n := tableOf k;
    s.lockedTables.contains n = false ∧ s.table n = some t ∧ s.accepts k { op := 521, gen := 3 } = true ∧ k.topZero 0 12 = true ∧
    k.zeroFrom 1 = true ∧ s.notFirst t = false ∧ s.epochOk n t = false := by
  dsimp only
  decide +kernel

theorem wit_commit :
    let s : State := withTable (withJob { job0 with pins := [{ pin5 with ce := 0xC0000001 }] }) table0;
    let k := cmd 0x209 3 [5];
    let t : Table := table0;
    let n := tableOf k;
    s.lockedTables.contains n = false ∧ s.table n = some t ∧ s.accepts k { op := 521, gen := 3 } = true ∧ k.topZero 0 12 = true ∧
    k.zeroFrom 1 = true ∧ s.notFirst t = false ∧ s.epochOk n t = true ∧ s.spread t = false := by
  dsimp only
  decide +kernel

theorem wit_commitSpread :
    let s : State := withTable pair table0;
    let k := cmd 0x209 3 [5];
    let t : Table := table0;
    let n := tableOf k;
    s.lockedTables.contains n = false ∧ s.table n = some t ∧ s.accepts k { op := 521, gen := 3 } = true ∧ k.topZero 0 12 = true ∧
    k.zeroFrom 1 = true ∧ s.notFirst t = false ∧ s.epochOk n t = true ∧ s.spread t = true ∧
    s.failedDevs.contains s.ceil.root = false ∧ (s.ceil.root = s.device → s.mcRoot.length < 65) := by
  dsimp only
  decide +kernel

theorem wit_foldFull :
    let s : State := withTable base { table0 with slots := (List.range 4).map fun i => (i, { VSlot.reset with st := .ready }) };
    let k := cmd 0x20A 3 [5, 0x10000, 0];
    let t : Table := { table0 with slots := (List.range 4).map fun i => (i, { VSlot.reset with st := .ready }) };
    let n := tableOf k;
    s.lockedTables.contains n = false ∧ s.table n = some t ∧ s.accepts k { op := 522, gen := 3, mem := true } = true ∧
    openOk k = true ∧ epochLt t.ce (k.unitAt 2) = false ∧ s.slotUsable t (BitVec.toNat (k.par 1)) = true ∧ t.freeSlot = none := by
  dsimp only
  decide +kernel

theorem wit_fold :
    let s : State := withTable base table0;
    let k := cmd 0x20A 3 [5, 0x10000, 0];
    let t : Table := table0;
    let i := 1;
    let n := tableOf k;
    s.lockedTables.contains n = false ∧ s.table n = some t ∧ s.accepts k { op := 522, gen := 3, mem := true } = true ∧
    openOk k = true ∧ epochLt t.ce (k.unitAt 2) = false ∧ s.slotUsable t (BitVec.toNat (k.par 1)) = true ∧ t.freeSlot = some i := by
  dsimp only
  decide +kernel

theorem wit_defaultSet :
    let s : State := withTable base table0;
    let k := cmd 0x20B 1 [5, 0x20000];
    let t : Table := table0;
    let h := 0x100000;
    let ls : List Leaf := [page 0x20000 0xD400000000100000];
    let n := tableOf k;
    let p := s.cmdPart k;
    s.lockedTables.contains n = false ∧ s.table n = some t ∧ s.accepts k { op := 523, gen := 1, mem := true } = true ∧
    k.topZero 0 12 = true ∧ k.topZero 1 52 = true ∧ aligned32 (k.par 1) = true ∧ k.zeroFrom 2 = true ∧
    (∀ j ∈ s.heldJobs, ∀ (b : Job), s.job j = some b → ∀ x ∈ b.pins, x.table ≠ n) ∧
    (∀ c ∈ s.clusters, ∀ l ∈ c.2.lookups, ∀ x ∈ s.lookupPins l, x.table ≠ n) ∧ s.crossErr = [] ∧ t.dim % 8 = 0 ∧
    s.translateEngine p (BitVec.toNat (k.par 1)) (4 * t.dim) false = Except.ok ls ∧
    ∀ j < 4 * t.dim / 32, ∃ (l : Leaf), s.leafAt p (BitVec.toNat (k.par 1) + 32 * j) = some l ∧
    l.target (BitVec.toNat (k.par 1) + 32 * j) = Target.host (h + 32 * j) ∧ h % 32 = 0 := by
  dsimp only
  decide +kernel

theorem wit_retired :
    let s : State := { withTable base (tableIn .draining) with retires := [retire0] };
    let n := 5;
    let i := 3;
    let r : Retire := retire0;
    let tb : Table := tableIn .draining;
    List.find? (fun (y : Retire) => decide (y.table = n ∧ y.slot = i)) s.retires = some r ∧ s.table n = some tb ∧
    (tb.slot i).pins = 0 ∧ (s.queue r.cmd.queue).st = QueueSt.running ∧ (s.queue r.cmd.queue).orphans = [] := by
  dsimp only
  decide +kernel

theorem wit_folded :
    let s : State := { withTable base (tableIn .loading) with folds := [fold0] };
    let n := 5;
    let f : Fold := fold0;
    let tb : Table := tableIn .loading;
    List.find? (fun (y : Fold) => decide (y.table = n)) s.folds = some f ∧ s.table n = some tb ∧
    (s.queue f.cmd.queue).st = QueueSt.running ∧ (s.queue f.cmd.queue).orphans = [] := by
  dsimp only
  decide +kernel

theorem wit_removed :
    let s : State := { withTable base { table0 with slots := [] } with overlay := [overlay0] };
    let n := 5;
    let index := 15;
    let tag : Word32 := 0;
    let o : Overlay := overlay0;
    let tb : Table := { table0 with slots := [] };
    List.find? (fun (y : Overlay) => decide (y.table = n ∧ y.index = index ∧ y.tag = some tag)) s.overlay = some o ∧
    s.table n = some tb ∧ s.selectable tb o tag = false := by
  dsimp only
  decide +kernel

theorem wit_selectable :
    let s : State :=
      { withTable base { table0 with slots := [(0, { VSlot.reset with st := .active, foldEpoch := 0xFFFFFFFF })] } with overlay := [overlay0] };
    let n := 5;
    let index := 15;
    let tag : Word32 := 0;
    let o : Overlay := overlay0;
    let tb : Table := { table0 with slots := [(0, { VSlot.reset with st := .active, foldEpoch := 0xFFFFFFFF })] };
    List.find? (fun (y : Overlay) => decide (y.table = n ∧ y.index = index ∧ y.tag = some tag)) s.overlay = some o ∧
    s.table n = some tb ∧ s.selectable tb o tag = true := by
  dsimp only
  decide +kernel

theorem wit_launchNone :
    let s : State := base;
    let k := cmd 0x300 1 [0x0001000000010002, 0x40000000];
    let p := s.cmdPart k;
    s.accepts k { op := 768, gen := 1, fw := false, mem := true } = true ∧ s.unitIn (launchUnit k) p (s.cmdFn k) = true ∧
    launchOk k = true ∧ unitOf (launchUnit k) ≠ UnitName.reserved ∧
    (∃ (l : List (ℕ × ℕ)), s.resolve (launchUnit k) false = Except.ok l) ∧ launchBatch k = false ∧ s.launchImg p k = none := by
  try dsimp only
  and_intros <;> first | decide +kernel | (simp only [State.offers, State.cleanSector, exists_some, forall_some, not_core, not_device]; decide +kernel) | exact ⟨_, rfl⟩ | rfl | exact Or.inl (by decide +kernel) | exact Or.inr (by decide +kernel) | (intro j hj; simp only [exists_some]; revert j; decide +kernel) | (intros; simp_all)

theorem wit_launchTaken :
    let s : State := busy;
    let k := cmd 0x300 1 [0x0001000000010001, 0x40000000];
    let p := s.cmdPart k;
    s.accepts k { op := 768, gen := 1, fw := false, mem := true } = true ∧ s.unitIn (launchUnit k) p (s.cmdFn k) = true ∧
    launchOk k = true ∧ unitOf (launchUnit k) ≠ UnitName.reserved ∧
    (∃ (l : List (ℕ × ℕ)), s.resolve (launchUnit k) false = Except.ok l) ∧ launchBatch k = false ∧
    (s.numberTaken p (launchNumber k) = true ∨ s.launching p (launchNumber k) = true ∨ ∃ (img : Image), s.launchImg p k = some img
      ∧ s.inTarget (launchUnit k) img = false) := by
  try dsimp only
  and_intros <;> first | decide +kernel | (simp only [State.offers, State.cleanSector, exists_some, forall_some, not_core, not_device]; decide +kernel) | exact ⟨_, rfl⟩ | rfl | exact Or.inl (by decide +kernel) | exact Or.inr (by decide +kernel) | (intro j hj; simp only [exists_some]; revert j; decide +kernel) | (intros; simp_all)

theorem wit_launchRefused :
    let s : State := busy;
    let k := cmd 0x300 1 [0x0001000000010002, 0x40000000];
    let img : Image := image0;
    let a : Answer := { status := Status.admissionRefused };
    let p := s.cmdPart k;
    s.accepts k { op := 768, gen := 1, fw := false, mem := true } = true ∧ s.unitIn (launchUnit k) p (s.cmdFn k) = true ∧
    launchOk k = true ∧ unitOf (launchUnit k) ≠ UnitName.reserved ∧
    (∃ (l : List (ℕ × ℕ)), s.resolve (launchUnit k) false = Except.ok l) ∧ launchBatch k = false ∧ s.launchImg p k = some img ∧
    s.numberTaken p (launchNumber k) = false ∧ s.launching p (launchNumber k) = false ∧ s.inTarget (launchUnit k) img = true ∧
    s.launchFail p (launchEntry k) img = some a := by
  try dsimp only
  and_intros <;> first | decide +kernel | (simp only [State.offers, State.cleanSector, exists_some, forall_some, not_core, not_device]; decide +kernel) | exact ⟨_, rfl⟩ | rfl | exact Or.inl (by decide +kernel) | exact Or.inr (by decide +kernel) | (intro j hj; simp only [exists_some]; revert j; decide +kernel) | (intros; simp_all)

theorem wit_launch :
    let s : State := loaded image0;
    let k := cmd 0x300 1 [0x0001000000010002, 0x40000000];
    let img : Image := image0;
    let p := s.cmdPart k;
    s.accepts k { op := 768, gen := 1, fw := false, mem := true } = true ∧ s.unitIn (launchUnit k) p (s.cmdFn k) = true ∧
    launchOk k = true ∧ unitOf (launchUnit k) ≠ UnitName.reserved ∧
    (∃ (l : List (ℕ × ℕ)), s.resolve (launchUnit k) false = Except.ok l) ∧ launchBatch k = false ∧ s.launchImg p k = some img ∧
    s.numberTaken p (launchNumber k) = false ∧ s.launching p (launchNumber k) = false ∧ s.inTarget (launchUnit k) img = true ∧
    s.launchFail p (launchEntry k) img = none ∧ s.soleDevice img = true := by
  try dsimp only
  and_intros <;> first | decide +kernel | (simp only [State.offers, State.cleanSector, exists_some, forall_some, not_core, not_device]; decide +kernel) | exact ⟨_, rfl⟩ | rfl | exact Or.inl (by decide +kernel) | exact Or.inr (by decide +kernel) | (intro j hj; simp only [exists_some]; revert j; decide +kernel) | (intros; simp_all)

theorem wit_launchFar :
    let s : State := { pair with images := (loaded both).images };
    let k := cmd 0x300 1 [0x0001000000010002, 0x40000000];
    let img : Image := both;
    let p := s.cmdPart k;
    s.accepts k { op := 768, gen := 1, fw := false, mem := true } = true ∧ s.unitIn (launchUnit k) p (s.cmdFn k) = true ∧
    launchOk k = true ∧ unitOf (launchUnit k) ≠ UnitName.reserved ∧
    (∃ (l : List (ℕ × ℕ)), s.resolve (launchUnit k) false = Except.ok l) ∧ launchBatch k = false ∧ s.launchImg p k = some img ∧
    s.numberTaken p (launchNumber k) = false ∧ s.launching p (launchNumber k) = false ∧ s.inTarget (launchUnit k) img = true ∧
    s.launchFail p (launchEntry k) img = none ∧ s.soleDevice img = false ∧ s.failedDevs.contains s.ceil.root = false ∧
    (s.ceil.root = s.device → s.mcRoot.length < 65) := by
  try dsimp only
  and_intros <;> first | decide +kernel | (simp only [State.offers, State.cleanSector, exists_some, forall_some, not_core, not_device]; decide +kernel) | exact ⟨_, rfl⟩ | rfl | exact Or.inl (by decide +kernel) | exact Or.inr (by decide +kernel) | (intro j hj; simp only [exists_some]; revert j; decide +kernel) | (intros; simp_all)

theorem wit_batchOff :
    let s : State := loaded image0;
    let k := cmd 0x300 1 [0x0001000000010002, 0x140000000];
    let p := s.cmdPart k;
    s.accepts k { op := 768, gen := 1, fw := false, mem := true } = true ∧ s.unitIn (launchUnit k) p (s.cmdFn k) = true ∧
    launchOk k = true ∧ unitOf (launchUnit k) ≠ UnitName.reserved ∧
    (∃ (l : List (ℕ × ℕ)), s.resolve (launchUnit k) false = Except.ok l) ∧ launchBatch k = true ∧
    ((s.part p).batchOn = false ∨ s.launchImg p k = none ∨ s.numberTaken p (launchNumber k) = true ∨ s.launching p (launchNumber
      k) = true) := by
  try dsimp only
  and_intros <;> first | decide +kernel | (simp only [State.offers, State.cleanSector, exists_some, forall_some, not_core, not_device]; decide +kernel) | exact ⟨_, rfl⟩ | rfl | exact Or.inl (by decide +kernel) | exact Or.inr (by decide +kernel) | (intro j hj; simp only [exists_some]; revert j; decide +kernel) | (intros; simp_all)

theorem wit_batchFull :
    let s : State := batching (List.replicate 16384 request);
    let k := cmd 0x300 1 [0x0001000000010002, 0x140000000];
    let p := s.cmdPart k;
    s.accepts k { op := 768, gen := 1, fw := false, mem := true } = true ∧ s.unitIn (launchUnit k) p (s.cmdFn k) = true ∧
    launchOk k = true ∧ unitOf (launchUnit k) ≠ UnitName.reserved ∧
    (∃ (l : List (ℕ × ℕ)), s.resolve (launchUnit k) false = Except.ok l) ∧ launchBatch k = true ∧ (s.part p).batchOn = true ∧
    s.launchImg p k ≠ none ∧ s.numberTaken p (launchNumber k) = false ∧ s.launching p (launchNumber k) = false ∧
    16384 ≤ (s.part p).batchQ.length := by
  try dsimp only
  and_intros <;> first | decide +kernel | (simp only [State.offers, State.cleanSector, exists_some, forall_some, not_core, not_device]; decide +kernel) | exact ⟨_, rfl⟩ | rfl | exact Or.inl (by decide +kernel) | exact Or.inr (by decide +kernel) | (intro j hj; simp only [exists_some]; revert j; decide +kernel) | (intros; simp_all)

theorem wit_batchWaits :
    let s : State := batching [];
    let k := cmd 0x300 1 [0x0001000000010002, 0x140000000];
    let p := s.cmdPart k;
    s.accepts k { op := 768, gen := 1, fw := false, mem := true } = true ∧ s.unitIn (launchUnit k) p (s.cmdFn k) = true ∧
    launchOk k = true ∧ unitOf (launchUnit k) ≠ UnitName.reserved ∧
    (∃ (l : List (ℕ × ℕ)), s.resolve (launchUnit k) false = Except.ok l) ∧ launchBatch k = true ∧ (s.part p).batchOn = true ∧
    s.launchImg p k ≠ none ∧ s.numberTaken p (launchNumber k) = false ∧ s.launching p (launchNumber k) = false ∧
    (s.part p).batchQ.length + 1 < (s.part p).fill ∧ (s.part p).batchQ.length < 16384 := by
  try dsimp only
  and_intros <;> first | decide +kernel | (simp only [State.offers, State.cleanSector, exists_some, forall_some, not_core, not_device]; decide +kernel) | exact ⟨_, rfl⟩ | rfl | exact Or.inl (by decide +kernel) | exact Or.inr (by decide +kernel) | (intro j hj; simp only [exists_some]; revert j; decide +kernel) | (intros; simp_all)

theorem wit_batchForms :
    let s : State := batching [request];
    let k := cmd 0x300 1 [0x0001000000010002, 0x140000000];
    let k' : Cmd := request.cmd;
    let img : Image := image0;
    let p := s.cmdPart k;
    let queue : List BatchReq := insertLast BatchReq.accepted { cmd := k, accepted := s.acceptTick k } (s.part p).batchQ;
    s.accepts k { op := 768, gen := 1, fw := false, mem := true } = true ∧ s.unitIn (launchUnit k) p (s.cmdFn k) = true ∧
    launchOk k = true ∧ unitOf (launchUnit k) ≠ UnitName.reserved ∧
    (∃ (l : List (ℕ × ℕ)), s.resolve (launchUnit k) false = Except.ok l) ∧ launchBatch k = true ∧ (s.part p).batchOn = true ∧
    s.launchImg p k ≠ none ∧ s.numberTaken p (launchNumber k) = false ∧ s.launching p (launchNumber k) = false ∧
    (s.part p).fill = (s.part p).batchQ.length + 1 ∧ (s.part p).batchQ.length < 16384 ∧
    (List.map (fun (x : BatchReq) => x.cmd) queue).head? = some k' ∧ s.launchImg p k' = some img ∧ s.soleDevice img = true ∧
    s.inTarget (launchUnit k') img = true ∧ s.launchFail p (launchEntry k') img = none := by
  try dsimp only
  and_intros <;> first | decide +kernel | (simp only [State.offers, State.cleanSector, exists_some, forall_some, not_core, not_device]; decide +kernel) | exact ⟨_, rfl⟩ | rfl | exact Or.inl (by decide +kernel) | exact Or.inr (by decide +kernel) | (intro j hj; simp only [exists_some]; revert j; decide +kernel) | (intros; simp_all)

theorem wit_abortNone :
    let s : State := base;
    let k := cmd 0x302 1 [];
    let p := s.cmdPart k;
    let j := 8 * p + k.job;
    s.accepts k { op := 770, gen := 1 } = true ∧ k.zeroFrom 0 = true ∧ (8 ≤ k.job ∨ s.job j = none) := by
  dsimp only
  decide +kernel

theorem wit_abort :
    let s : State := withJob { job0 with phase := .waiting };
    let k := cmd 0x302 2 [] 0;
    let b : Job := { job0 with phase := .waiting };
    let p := s.cmdPart k;
    let j := 8 * p + k.job;
    s.accepts k { op := 770, gen := 1 } = true ∧ k.zeroFrom 0 = true ∧ k.job < 8 ∧ s.job j = some b ∧ b.onUnits = false ∧
    (b.active = false ∨ s.spans b = false) ∧ b.ending = none := by
  dsimp only
  decide +kernel

theorem wit_abortOnUnits :
    let s : State := busy;
    let k := cmd 0x302 2 [] 0;
    let b : Job := job0;
    let p := s.cmdPart k;
    let j := 8 * p + k.job;
    s.accepts k { op := 770, gen := 1 } = true ∧ k.zeroFrom 0 = true ∧ k.job < 8 ∧ s.job j = some b ∧
    (b.onUnits = true ∨ b.active = true ∧ s.spans b = true) ∧ b.ending = none := by
  dsimp only
  decide +kernel

theorem wit_abortAgain :
    let s : State := withJob { job0 with ending := some ending0 };
    let k := cmd 0x302 2 [] 0;
    let b : Job := { job0 with ending := some ending0 };
    let e : Ending := ending0;
    let p := s.cmdPart k;
    let j := 8 * p + k.job;
    s.accepts k { op := 770, gen := 1 } = true ∧ k.zeroFrom 0 = true ∧ k.job < 8 ∧ s.job j = some b ∧ b.ending = some e := by
  dsimp only
  decide +kernel

theorem wit_countersFar :
    let s : State := with21 { queue0 with fn := 16 };
    let k := cmd 0x306 2 [21, 0x1000];
    let q := BitVec.toNat (k.par 0);
    let h : HQueue := s.queue q;
    s.accepts k { op := 774, gen := 2 } = true ∧ k.topZero 0 10 = true ∧ aligned32 (k.par 1) = true ∧ k.zeroFrom 2 = true ∧
    h.st ≠ QueueSt.absent ∧ h.fn ≠ s.cmdFn k := by
  dsimp only
  decide +kernel

theorem wit_counters :
    let s : State := with21 { queue0 with before := some (99, [1, 2, 3, 4, 5]) };
    let k := cmd 0x306 2 [21, 0x1000];
    let q := BitVec.toNat (k.par 0);
    let h : HQueue := s.queue q;
    s.accepts k { op := 774, gen := 2 } = true ∧ k.topZero 0 10 = true ∧ aligned32 (k.par 1) = true ∧ k.zeroFrom 2 = true ∧
    h.st ≠ QueueSt.absent ∧ h.fn = s.cmdFn k ∧ ∀ (x : ℕ × List ℕ), h.before = some x → x.1 ≠ s.tick := by
  dsimp only
  decide +kernel

theorem wit_countersNow :
    let s : State := with21 { queue0 with before := some (100, [1, 2, 3, 4, 5]) };
    let k := cmd 0x306 2 [21, 0x1000];
    let old : List ℕ := [1, 2, 3, 4, 5];
    let q := BitVec.toNat (k.par 0);
    let h : HQueue := s.queue q;
    s.accepts k { op := 774, gen := 2 } = true ∧ k.topZero 0 10 = true ∧ aligned32 (k.par 1) = true ∧ k.zeroFrom 2 = true ∧
    h.st ≠ QueueSt.absent ∧ h.fn = s.cmdFn k ∧ h.before = some (s.tick, old) ∧ old.length = 5 := by
  dsimp only
  decide +kernel

theorem wit_batcherBusy :
    let s : State := batching [request];
    let k := cmd 0x30B 3 [0x0000000020050001];
    let p := s.cmdPart k;
    s.accepts k { op := 779, gen := 3 } = true ∧ bf (k.par 0) 63 42 = 0 ∧ bf (k.par 0) 15 1 = 0 ∧ 1 ≤ bf (k.par 0) 41 29 ∧
    bf (k.par 0) 41 29 ≤ 4096 ∧ 5 ≤ bf (k.par 0) 28 16 ∧ bf (k.par 0) 28 16 ≤ 5000 ∧ k.zeroFrom 1 = true ∧ (s.part p).batchQ ≠ [] := by
  dsimp only
  decide +kernel

theorem wit_batcher :
    let s : State := base;
    let k := cmd 0x30B 3 [0x0000020013880001];
    let p := s.cmdPart k;
    s.accepts k { op := 779, gen := 3 } = true ∧ bf (k.par 0) 63 42 = 0 ∧ bf (k.par 0) 15 1 = 0 ∧ 1 ≤ bf (k.par 0) 41 29 ∧
    bf (k.par 0) 41 29 ≤ 4096 ∧ 5 ≤ bf (k.par 0) 28 16 ∧ bf (k.par 0) 28 16 ≤ 5000 ∧ k.zeroFrom 1 = true ∧
    (s.part p).batchQ = [] ∧ ∀ j ∈ s.partJobs p, ∀ (b : Job), s.job j = some b → b.batch = false := by
  dsimp only
  decide +kernel

theorem wit_imageUnsigned :
    let s : State := base;
    let k := cmd 0x303 1 [0x1000, 64];
    let bytes : List Byte := s.hostRead (BitVec.toNat (k.par 0)) (BitVec.toNat (k.par 1));
    s.accepts k { op := 771, gen := 1 } = true ∧ aligned32 (k.par 0) = true ∧ k.topZero 1 40 = true ∧ k.zeroFrom 2 = true ∧
    imageSigned bytes = false := by
  dsimp only
  decide +kernel

theorem wit_unloadNone :
    let s : State := base;
    let k := cmd 0x304 1 [65535];
    let h := BitVec.toNat (k.par 0);
    s.accepts k { op := 772, gen := 1 } = true ∧ k.topZero 0 16 = true ∧ k.zeroFrom 1 = true ∧ s.image h = none := by
  dsimp only
  decide +kernel

theorem wit_unloadUsed :
    let s : State := busy;
    let k := cmd 0x304 1 [1];
    let l : Loaded := { part := 0, img := image0 };
    let p := s.cmdPart k;
    let h := BitVec.toNat (k.par 0);
    s.accepts k { op := 772, gen := 1 } = true ∧ k.topZero 0 16 = true ∧ k.zeroFrom 1 = true ∧ s.image h = some l ∧ l.part = p ∧
    (s.started k).imageUsed h = true := by
  dsimp only
  decide +kernel

theorem wit_unload :
    let s : State := loaded image0;
    let k := cmd 0x304 1 [1];
    let l : Loaded := { part := 0, img := image0 };
    let p := s.cmdPart k;
    let h := BitVec.toNat (k.par 0);
    s.accepts k { op := 772, gen := 1 } = true ∧ k.topZero 0 16 = true ∧ k.zeroFrom 1 = true ∧ s.image h = some l ∧ l.part = p ∧
    (s.started k).imageUsed h = false := by
  dsimp only
  decide +kernel

theorem wit_sliceBusy :
    let s : State := busy;
    let k := cmd 0x305 2 [0x000003E800000001, 0, 1];
    let p := s.cmdPart k;
    s.accepts k { op := 773, gen := 2, pf := true } = true ∧ sliceOk (k.par 0) (k.par 1) (k.par 2) = true ∧ k.zeroFrom 3 = true ∧
    s.partJobs p ≠ [] := by
  dsimp only
  decide +kernel

theorem wit_slice :
    let s : State := base;
    let k := cmd 0x305 2 [0x000003E800000001, 0, 1];
    let ls : List Leaf := [];
    let p := s.cmdPart k;
    s.accepts k { op := 773, gen := 2, pf := true } = true ∧ sliceOk (k.par 0) (k.par 1) (k.par 2) = true ∧ k.zeroFrom 3 = true ∧
    s.partJobs p = [] ∧
    (bf (k.par 2) 43 32 = 0 ∨ s.translateEngine p (bf (k.par 1) 51 0) (8 * bf (k.par 2) 43 32 * 65536) true = Except.ok ls ∧ ∀ l ∈
      ls, l.kind = 0) := by
  dsimp only
  decide +kernel

theorem wit_genBad :
    let s : State := withHost base 0x1000 [1];
    let k := cmd 0x307 3 [0x1000];
    let p := s.cmdPart k;
    let w : List Word64 := genRecord (s.hostWords (BitVec.toNat (k.par 0)) 4);
    let q : Machine.Part := have __src : Machine.Part := s.part p;
    { recWords := __src.recWords, gen := w, seqs := __src.seqs, blocks := __src.blocks, joins := __src.joins, leaves := __src.leaves, batcher := __src.batcher, batchQ := __src.batchQ, slice := __src.slice, lastSlot := __src.lastSlot, credUsed := __src.credUsed, scrub := __src.scrub, dbg := __src.dbg, nonce := __src.nonce, session := __src.session, closing := __src.closing, resets := __src.resets, trace := __src.trace };
    s.accepts k { op := 775, gen := 3 } = true ∧ aligned32 (k.par 0) = true ∧ k.zeroFrom 1 = true ∧ genOk q = false := by
  dsimp only
  decide +kernel

theorem wit_genBusy :
    let s : State := withHost (withImage { image0 with gen := some (1, 64, 1) } job0) 0x1000 genReset;
    let k := cmd 0x307 3 [0x1000];
    let p := s.cmdPart k;
    let w : List Word64 := genRecord (s.hostWords (BitVec.toNat (k.par 0)) 4);
    let q : Machine.Part := have __src : Machine.Part := s.part p;
    { recWords := __src.recWords, gen := w, seqs := __src.seqs, blocks := __src.blocks, joins := __src.joins, leaves := __src.leaves, batcher := __src.batcher, batchQ := __src.batchQ, slice := __src.slice, lastSlot := __src.lastSlot, credUsed := __src.credUsed, scrub := __src.scrub, dbg := __src.dbg, nonce := __src.nonce, session := __src.session, closing := __src.closing, resets := __src.resets, trace := __src.trace };
    s.accepts k { op := 775, gen := 3 } = true ∧ aligned32 (k.par 0) = true ∧ k.zeroFrom 1 = true ∧ genOk q = true ∧
    s.generates p = true := by
  dsimp only
  decide +kernel

theorem wit_genUnmapped :
    let s : State := withHost base 0x1000 [0x40000, 0, 0x100100, 0x7C038];
    let k := cmd 0x307 3 [0x1000];
    let e : Refuse × ℕ := (.unmapped, 0x40000);
    let p := s.cmdPart k;
    let w : List Word64 := genRecord (s.hostWords (BitVec.toNat (k.par 0)) 4);
    let q : Machine.Part := have __src : Machine.Part := s.part p;
    { recWords := __src.recWords, gen := w, seqs := __src.seqs, blocks := __src.blocks, joins := __src.joins, leaves := __src.leaves, batcher := __src.batcher, batchQ := __src.batchQ, slice := __src.slice, lastSlot := __src.lastSlot, credUsed := __src.credUsed, scrub := __src.scrub, dbg := __src.dbg, nonce := __src.nonce, session := __src.session, closing := __src.closing, resets := __src.resets, trace := __src.trace };
    s.accepts k { op := 775, gen := 3 } = true ∧ aligned32 (k.par 0) = true ∧ k.zeroFrom 1 = true ∧ genOk q = true ∧
    s.generates p = false ∧ s.genMapped p q = Except.error e := by
  dsimp only
  decide +kernel

theorem wit_gen :
    let s : State := withHost base 0x1000 genReset;
    let k := cmd 0x307 3 [0x1000];
    let ls : List Leaf := [];
    let p := s.cmdPart k;
    let w : List Word64 := genRecord (s.hostWords (BitVec.toNat (k.par 0)) 4);
    let q : Machine.Part := have __src : Machine.Part := s.part p;
    { recWords := __src.recWords, gen := w, seqs := __src.seqs, blocks := __src.blocks, joins := __src.joins, leaves := __src.leaves, batcher := __src.batcher, batchQ := __src.batchQ, slice := __src.slice, lastSlot := __src.lastSlot, credUsed := __src.credUsed, scrub := __src.scrub, dbg := __src.dbg, nonce := __src.nonce, session := __src.session, closing := __src.closing, resets := __src.resets, trace := __src.trace };
    s.accepts k { op := 775, gen := 3 } = true ∧ aligned32 (k.par 0) = true ∧ k.zeroFrom 1 = true ∧ genOk q = true ∧
    s.generates p = false ∧ s.genMapped p q = Except.ok ls := by
  dsimp only
  decide +kernel

theorem wit_joinUsed :
    let s : State := sequences;
    let k := cmd 0x308 3 [0, 0, 1, 0x100000006];
    let p := s.cmdPart k;
    s.accepts k { op := 776, gen := 3 } = true ∧ k.topZero 0 52 = true ∧ BitVec.toNat (k.par 0) % 32 = 0 ∧ k.topZero 2 37 = true ∧
    bf (k.par 2) 31 17 = 0 ∧ 1 ≤ bf (k.par 2) 16 0 ∧ bf (k.par 2) 16 0 ≤ 65536 ∧ 1 ≤ bf (k.par 3) 63 32 ∧
    k.unitAt 3 ≠ 4294967295 ∧ k.zeroFrom 4 = true ∧ (s.part p).hasHandle (k.unitAt 3) = true := by
  dsimp only
  decide +kernel

theorem wit_joinFull :
    let s : State := { base with parts := [(0, { part0 with joins := List.replicate 16384 seqJoin0 })] };
    let k := cmd 0x308 3 [0, 0, 1, 0x100000006];
    let p := s.cmdPart k;
    s.accepts k { op := 776, gen := 3 } = true ∧ k.topZero 0 52 = true ∧ BitVec.toNat (k.par 0) % 32 = 0 ∧ k.topZero 2 37 = true ∧
    bf (k.par 2) 31 17 = 0 ∧ 1 ≤ bf (k.par 2) 16 0 ∧ bf (k.par 2) 16 0 ≤ 65536 ∧ 1 ≤ bf (k.par 3) 63 32 ∧
    k.unitAt 3 ≠ 4294967295 ∧ k.zeroFrom 4 = true ∧ (s.part p).hasHandle (k.unitAt 3) = false ∧
    bf (k.par 2) 16 0 + bf (k.par 3) 63 32 ≤ 64 * (s.part p).maxBlocks ∧ 16384 ≤ (s.part p).joins.length := by
  dsimp only
  decide +kernel

theorem wit_join :
    let s : State := base;
    let k := cmd 0x308 3 [0xFFE0, 7, 0x1F00000008, 0x38FFFFFFFE];
    let ls : List Leaf := [page 0 0xC400000000010000];
    let p := s.cmdPart k;
    s.accepts k { op := 776, gen := 3 } = true ∧ k.topZero 0 52 = true ∧ BitVec.toNat (k.par 0) % 32 = 0 ∧ k.topZero 2 37 = true ∧
    bf (k.par 2) 31 17 = 0 ∧ 1 ≤ bf (k.par 2) 16 0 ∧ bf (k.par 2) 16 0 ≤ 65536 ∧ 1 ≤ bf (k.par 3) 63 32 ∧
    k.unitAt 3 ≠ 4294967295 ∧ k.zeroFrom 4 = true ∧ (s.part p).hasHandle (k.unitAt 3) = false ∧
    bf (k.par 2) 16 0 + bf (k.par 3) 63 32 ≤ 64 * (s.part p).maxBlocks ∧ (s.part p).joins.length < 16384 ∧
    s.translateEngine p (BitVec.toNat (k.par 0)) (4 * bf (k.par 2) 16 0) false = Except.ok ls := by
  dsimp only
  decide +kernel

theorem wit_leaveWaiting :
    let s : State := sequences;
    let k := cmd 0x309 3 [5];
    let j : Join := seqJoin0;
    let p := s.cmdPart k;
    let h : Word32 := k.unitAt 0;
    s.accepts k { op := 777, gen := 3 } = true ∧ k.topZero 0 32 = true ∧ k.zeroFrom 1 = true ∧
    List.find? (fun (x : Join) => decide (x.handle = h)) (s.part p).joins = some j := by
  dsimp only
  decide +kernel

theorem wit_leaveRunning :
    let s : State := sequences;
    let k := cmd 0x309 3 [6];
    let p := s.cmdPart k;
    let h : Word32 := k.unitAt 0;
    s.accepts k { op := 777, gen := 3 } = true ∧ k.topZero 0 32 = true ∧ k.zeroFrom 1 = true ∧
    (∀ j ∈ (s.part p).joins, j.handle ≠ h) ∧ ∃ q ∈ (s.part p).seqs, q.2.handle = h := by
  dsimp only
  decide +kernel

theorem wit_leaveUnknown :
    let s : State := sequences;
    let k := cmd 0x309 3 [0xFFFFFFFF];
    let p := s.cmdPart k;
    let h : Word32 := k.unitAt 0;
    s.accepts k { op := 777, gen := 3 } = true ∧ k.topZero 0 32 = true ∧ k.zeroFrom 1 = true ∧
    (∀ j ∈ (s.part p).joins, j.handle ≠ h) ∧ ∀ q ∈ (s.part p).seqs, q.2.handle ≠ h := by
  dsimp only
  decide +kernel

theorem wit_queryWaiting :
    let s : State := sequences;
    let k := cmd 0x30A 3 [5, 0x1000];
    let p := s.cmdPart k;
    let h : Word32 := k.unitAt 0;
    s.accepts k { op := 778, gen := 3 } = true ∧ k.topZero 0 32 = true ∧ aligned32 (k.par 1) = true ∧ k.zeroFrom 2 = true ∧
    ∃ j ∈ (s.part p).joins, j.handle = h := by
  dsimp only
  decide +kernel

theorem wit_queryUnknown :
    let s : State := sequences;
    let k := cmd 0x30A 3 [7, 0x1000];
    let p := s.cmdPart k;
    let h : Word32 := k.unitAt 0;
    s.accepts k { op := 778, gen := 3 } = true ∧ k.topZero 0 32 = true ∧ aligned32 (k.par 1) = true ∧ k.zeroFrom 2 = true ∧
    (∀ j ∈ (s.part p).joins, j.handle ≠ h) ∧ ∀ q ∈ (s.part p).seqs, q.2.handle ≠ h := by
  dsimp only
  decide +kernel

theorem wit_queryRunning :
    let s : State := sequences;
    let k := cmd 0x30A 3 [6, 0x1000];
    let i := 9;
    let q : SeqSlot := seq0;
    let p := s.cmdPart k;
    let h : Word32 := k.unitAt 0;
    s.accepts k { op := 778, gen := 3 } = true ∧ k.topZero 0 32 = true ∧ aligned32 (k.par 1) = true ∧ k.zeroFrom 2 = true ∧
    (∀ j ∈ (s.part p).joins, j.handle ≠ h) ∧
    List.find? (fun (x : ℕ × SeqSlot) => decide (x.2.handle = h)) (s.part p).seqs = some (i, q) := by
  dsimp only
  decide +kernel

theorem wit_joinBad :
    let s : State := described;
    let k := cmd 0x400 1 [0x1000, 127];
    let b : List Byte := s.hostRead (BitVec.toNat (k.par 0)) (BitVec.toNat (k.par 1));
    s.accepts k { op := 1024, gen := 1, pf := true, dev := true } = true ∧ aligned32 (k.par 0) = true ∧ k.topZero 1 32 = true ∧
    k.zeroFrom 2 = true ∧ descriptionOk b = false := by
  dsimp only
  decide +kernel

theorem wit_leaveBusy :
    let s : State := { pair with groups := [(7, group7)], jobs := busy.jobs };
    let k := cmd 0x401 2 [];
    s.accepts k { op := 1025, gen := 2, pf := true, dev := true } = true ∧ k.zeroFrom 0 = true ∧
    (s.heldJobs ≠ [] ∨ s.farGroup = true) := by
  dsimp only
  decide +kernel

theorem wit_fabQuery :
    let s : State := base;
    let k := cmd 0x402 1 [0x1000, 256];
    s.accepts k { op := 1026, gen := 1 } = true ∧ aligned32 (k.par 0) = true ∧ k.topZero 1 32 = true ∧ k.zeroFrom 2 = true ∧
    256 ≤ BitVec.toNat (k.par 1) := by
  dsimp only
  decide +kernel

theorem wit_fabQueryShort :
    let s : State := base;
    let k := cmd 0x402 1 [0x1000, 255];
    s.accepts k { op := 1026, gen := 1 } = true ∧ aligned32 (k.par 0) = true ∧ k.topZero 1 32 = true ∧ k.zeroFrom 2 = true ∧
    BitVec.toNat (k.par 1) < 256 := by
  dsimp only
  decide +kernel

theorem wit_remapOut :
    let s : State := withTable pair table0;
    let k := cmd 0x403 3 [2 * 2 ^ 32 + 1 * 2 ^ 22 + 5, 0];
    let t : Table := table0;
    let n := bf (k.par 0) 11 0;
    let failed := bf (k.par 0) 31 22;
    let spare := bf (k.par 0) 41 32;
    s.accepts k { op := 1027, gen := 3, pf := true } = true ∧ bf (k.par 0) 63 42 = 0 ∧ bf (k.par 0) 21 12 = 0 ∧
    k.topZero 1 2 = true ∧ k.zeroFrom 2 = true ∧ s.lockedTables.contains n = false ∧ s.table n = some t ∧ failed ∈ t.shards ∧
    s.inFabric spare = false := by
  dsimp only
  decide +kernel

theorem wit_remapAway :
    let s : State := withTable pair table0;
    let k := cmd 0x403 3 [1 * 2 ^ 32 + 0 * 2 ^ 22 + 5, 0];
    let t : Table := table0;
    let n := bf (k.par 0) 11 0;
    let failed := bf (k.par 0) 31 22;
    let spare := bf (k.par 0) 41 32;
    let home := (List.filter (fun (x : ℕ) => decide (x ≠ failed)) t.shards).headD spare;
    s.accepts k { op := 1027, gen := 3, pf := true } = true ∧ bf (k.par 0) 63 42 = 0 ∧ bf (k.par 0) 21 12 = 0 ∧
    k.topZero 1 2 = true ∧ k.zeroFrom 2 = true ∧ s.lockedTables.contains n = false ∧ s.table n = some t ∧ failed ∈ t.shards ∧
    s.inFabric spare = true ∧ home ≠ s.device := by
  dsimp only
  decide +kernel

theorem wit_remap :
    let s : State := withTable pair (tableIn .ready);
    let k := cmd 0x403 3 [0 * 2 ^ 32 + 1 * 2 ^ 22 + 5, 3];
    let t : Table := tableIn .ready;
    let n := bf (k.par 0) 11 0;
    let failed := bf (k.par 0) 31 22;
    let spare := bf (k.par 0) 41 32;
    let home := (List.filter (fun (x : ℕ) => decide (x ≠ failed)) t.shards).headD spare;
    s.accepts k { op := 1027, gen := 3, pf := true } = true ∧ bf (k.par 0) 63 42 = 0 ∧ bf (k.par 0) 21 12 = 0 ∧
    k.topZero 1 2 = true ∧ k.zeroFrom 2 = true ∧ s.lockedTables.contains n = false ∧ s.table n = some t ∧ failed ∈ t.shards ∧
    s.inFabric spare = true ∧ home = s.device ∧
    s.checkChange false (McContent.remap n failed spare (bf (k.par 1) 1 0) t.active t.ce) = none ∧
    s.failedDevs.contains s.ceil.root = false ∧ (s.ceil.root = s.device → s.mcRoot.length < 65) := by
  dsimp only
  decide +kernel

theorem wit_certShort :
    let s : State := base;
    let k := cmd 0x501 2 [0x1000, 12799];
    s.accepts k { op := 1281, gen := 2 } = true ∧ aligned32 (k.par 0) = true ∧ k.topZero 1 32 = true ∧ k.zeroFrom 2 = true ∧
    BitVec.toNat (k.par 1) < 12800 := by
  dsimp only
  decide +kernel

theorem wit_cert :
    let s : State := base;
    let k := cmd 0x501 2 [0x1000, 12800];
    s.accepts k { op := 1281, gen := 2 } = true ∧ aligned32 (k.par 0) = true ∧ k.topZero 1 32 = true ∧ k.zeroFrom 2 = true ∧
    12800 ≤ BitVec.toNat (k.par 1) := by
  dsimp only
  decide +kernel

theorem wit_openUsed :
    let s : State := inSession;
    let k := cmd 0x502 3 [0x1000];
    let p := s.cmdPart k;
    let b : List Byte := s.hostRead (BitVec.toNat (k.par 0)) 1664;
    let nonce : List Byte := List.take 64 (List.drop 1568 b);
    s.accepts k { op := 1282, gen := 3 } = true ∧ k.zeroFrom 1 = true ∧
    ((s.part p).session ≠ none ∨ (s.part p).nonce ≠ some (digestWord nonce)) := by
  dsimp only
  decide +kernel

theorem wit_closeNone :
    let s : State := base;
    let k := cmd 0x503 3 [];
    let p := s.cmdPart k;
    s.accepts k { op := 1283, gen := 3 } = true ∧ k.zeroFrom 0 = true ∧ (s.part p).session = none := by
  dsimp only
  decide +kernel

theorem wit_close :
    let s : State := inSession;
    let k := cmd 0x503 3 [];
    let p := s.cmdPart k;
    s.accepts k { op := 1283, gen := 3 } = true ∧ k.zeroFrom 0 = true ∧ (s.part p).session ≠ none ∧
    s.transfers p Cipher.session = false := by
  dsimp only
  decide +kernel

theorem wit_keysFull :
    let s : State := { base with jobKeys := (List.range 64).map fun i => (i, some { key0 with part := 1 }) };
    let k := cmd 0x504 3 [0x2000, 0x10000, 4096, 0x11000, 0];
    let ls : List Leaf := [page 0x10000 0xE400000000020000];
    let p := s.cmdPart k;
    let inVa := BitVec.toNat (k.par 1);
    let inLen := BitVec.toNat (k.par 2);
    let outVa := BitVec.toNat (k.par 3);
    let outLen := BitVec.toNat (k.par 4);
    let free : Option ℕ := List.find? (fun (n : ℕ) => (s.jobKeys.get n none).isNone) (List.range 64);
    s.accepts k { op := 1284, gen := 3 } = true ∧ keyParams k = true ∧ s.keyLeaves p inVa inLen outVa outLen = Except.ok ls ∧
    (∀ l ∈ ls, l.kind = 0 ∧ l.prot = true) ∧ s.keyOverlap p inVa inLen = false ∧ s.keyOverlap p outVa outLen = false ∧
    boundMeet inVa inLen outVa outLen = false ∧ free = none := by
  dsimp only
  decide +kernel

theorem wit_keyBusy :
    let s : State := moving keyed;
    let k := cmd 0x505 3 [63];
    let y : JobKey := key0;
    let p := s.cmdPart k;
    let n := BitVec.toNat (k.par 0);
    s.accepts k { op := 1285, gen := 3 } = true ∧ k.topZero 0 6 = true ∧ k.zeroFrom 1 = true ∧ s.jobKeys.get n none = some y ∧
    y.part = p ∧ s.transfers p (Cipher.jobKey n) = true := by
  dsimp only
  decide +kernel

theorem wit_keyClear :
    let s : State := keyed;
    let k := cmd 0x505 3 [63];
    let y : JobKey := key0;
    let p := s.cmdPart k;
    let n := BitVec.toNat (k.par 0);
    s.accepts k { op := 1285, gen := 3 } = true ∧ k.topZero 0 6 = true ∧ k.zeroFrom 1 = true ∧ s.jobKeys.get n none = some y ∧
    y.part = p ∧ s.transfers p (Cipher.jobKey n) = false := by
  dsimp only
  decide +kernel

theorem wit_packageNone :
    let s : State := base;
    let k := cmd 0x506 3 [0x2000, 0];
    s.accepts k { op := 1286, gen := 3, mem := true } = true ∧ BitVec.toNat (k.par 1) % 32 = 0 ∧ k.topZero 1 52 = true ∧
    k.zeroFrom 2 = true ∧ s.packageAt (BitVec.toNat (k.par 0)) = none := by
  dsimp only
  decide +kernel

theorem wit_counterConfig :
    let s : State := base;
    let k := cmd 0x602 1 [0x140000000, 0x0F0E0D0C0B0A0908, 0];
    let cores : List (ℕ × ℕ) := (upFrom 0 8).map fun c => (0, c);
    let per : List (ℕ × List ℕ) := [(0, upFrom 0 8)];
    let whole : Bool := true;
    let u : Word32 := k.unitAt 0;
    s.counterUnit k = true ∧ s.resolve u true = Except.ok cores ∧ observed (unitOf u) (s.here cores) = some (per, whole) ∧
    s.accepts k { op := 1538, gen := 1 } = true ∧ k.topZero 0 34 = true ∧ bf (k.par 0) 33 32 ≤ 1 ∧
    (∀ c ∈ counterCodes k, c ≤ 15) ∧ k.zeroFrom 3 = true := by
  dsimp only
  decide +kernel

theorem wit_counterSample :
    let s : State := base;
    let k := cmd 0x603 1 [0x100000800, 0x1000, 0x1000];
    let cores : List (ℕ × ℕ) := [(0, 1)];
    let per : List (ℕ × List ℕ) := [(0, [1])];
    let whole : Bool := false;
    let u : Word32 := k.unitAt 0;
    let now : State := s.started k;
    let cl : Bool := bit (k.par 0) 32;
    let meets : Bool := decide (now.freeAt 1 1 = 1);
    let b : List Byte := List.flatMap (fun (x : ℕ × List ℕ) => (if whole = true then now.clusterBlock x.1 cl meets else []) ++
      List.flatMap (fun (c : ℕ) => now.coreBlock c cl meets) x.2) per;
    s.counterUnit k = true ∧ s.resolve u true = Except.ok cores ∧ observed (unitOf u) (s.here cores) = some (per, whole) ∧
    s.accepts k { op := 1539, gen := 1 } = true ∧ k.topZero 0 33 = true ∧ aligned32 (k.par 1) = true ∧ k.topZero 2 32 = true ∧
    k.zeroFrom 3 = true ∧ b.length ≤ BitVec.toNat (k.par 2) := by
  dsimp only
  decide +kernel

theorem wit_counterShort :
    let s : State := base;
    let k := cmd 0x603 1 [0x800, 0x1000, 0];
    let cores : List (ℕ × ℕ) := [(0, 1)];
    let per : List (ℕ × List ℕ) := [(0, [1])];
    let whole : Bool := false;
    let u : Word32 := k.unitAt 0;
    let now : State := s.started k;
    let cl : Bool := bit (k.par 0) 32;
    let meets : Bool := decide (now.freeAt 1 1 = 1);
    let b : List Byte := List.flatMap (fun (x : ℕ × List ℕ) => (if whole = true then now.clusterBlock x.1 cl meets else []) ++
      List.flatMap (fun (c : ℕ) => now.coreBlock c cl meets) x.2) per;
    s.counterUnit k = true ∧ s.resolve u true = Except.ok cores ∧ observed (unitOf u) (s.here cores) = some (per, whole) ∧
    s.accepts k { op := 1539, gen := 1 } = true ∧ k.topZero 0 33 = true ∧ aligned32 (k.par 1) = true ∧ k.topZero 2 32 = true ∧
    k.zeroFrom 3 = true ∧ BitVec.toNat (k.par 2) < b.length := by
  dsimp only
  decide +kernel

theorem wit_traceConfigure :
    let s : State := base;
    let k := cmd 0x600 2 [0x1000000000000000, 0x0000FFFF00000000, 0];
    let ls : List Leaf := [page 0 0xC400000000010000];
    let p := s.cmdPart k;
    let tr : Machine.State → Trace := fun (t : Machine.State) => (t.part p).trace;
    s.accepts k { op := 1536, gen := 2 } = true ∧ traceAction k = 1 ∧ traceFieldsOk k = true ∧ (tr s).running = false ∧
    s.translateEngine p (bf (k.par 0) 51 0) ((bf (k.par 1) 19 0 + 1) * 65536) true = Except.ok ls ∧ (∀ l ∈ ls, l.kind = 0) ∧
    bf (k.par 1) 47 32 &&& recPorts (s.part p).recWords = bf (k.par 1) 47 32 := by
  dsimp only
  decide +kernel

theorem wit_traceRunning :
    let s : State := tracing { Trace.reset with configured := true, running := true };
    let k := cmd 0x600 2 [0x1000000000000000, 0, 0];
    let p := s.cmdPart k;
    let tr : Machine.State → Trace := fun (t : Machine.State) => (t.part p).trace;
    s.accepts k { op := 1536, gen := 2 } = true ∧ traceAction k = 1 ∧ traceFieldsOk k = true ∧ (tr s).running = true := by
  dsimp only
  decide +kernel

theorem wit_traceStart :
    let s : State := tracing { Trace.reset with configured := true };
    let k := cmd 0x600 2 [0x2000000000000000];
    let p := s.cmdPart k;
    let tr : Machine.State → Trace := fun (t : Machine.State) => (t.part p).trace;
    s.accepts k { op := 1536, gen := 2 } = true ∧ traceAction k = 2 ∧ actionAlone k = true ∧ (tr s).configured = true := by
  dsimp only
  decide +kernel

theorem wit_traceStop :
    let s : State := tracing { Trace.reset with configured := true, running := true };
    let k := cmd 0x600 2 [0x3000000000000000];
    s.accepts k { op := 1536, gen := 2 } = true ∧ traceAction k = 3 ∧ actionAlone k = true := by
  dsimp only
  decide +kernel

theorem wit_traceStatus :
    let s : State := base;
    let k := cmd 0x600 2 [0x4000000000000000];
    s.accepts k { op := 1536, gen := 2 } = true ∧ traceAction k = 4 ∧ actionAlone k = true := by
  dsimp only
  decide +kernel

theorem wit_traceRearm :
    let s : State := tracing { Trace.reset with configured := true, frozen := true };
    let k := cmd 0x600 2 [0x5000000000000000];
    let p := s.cmdPart k;
    let tr : Machine.State → Trace := fun (t : Machine.State) => (t.part p).trace;
    s.accepts k { op := 1536, gen := 2 } = true ∧ traceAction k = 5 ∧ actionAlone k = true ∧ (tr s).configured = true := by
  dsimp only
  decide +kernel

theorem wit_traceTrigger :
    let s : State := tracing { Trace.reset with configured := true, running := true };
    let k := cmd 0x601 2 [];
    s.accepts k { op := 1537, gen := 2 } = true ∧ k.zeroFrom 0 = true := by
  dsimp only
  decide +kernel

theorem wit_debugBad :
    let s : State := base;
    let k := cmd 0x605 2 [0x000000000, 0x80000, 8, 0x1000];
    let e : Option (Refuse × ℕ) := none;
    let p := s.cmdPart k;
    let u : Word32 := k.unitAt 0;
    s.accepts k { op := 1541, gen := 2, pf := true, mem := decide (debugSpace k = 1) || decide (debugSpace k = 2) } = true ∧
    s.unitIn u p (s.cmdFn k) = true ∧ k.topZero 0 37 = true ∧ debugSpace k ≤ 3 ∧ k.topZero 1 52 = true ∧
    BitVec.toNat (k.par 1) % 8 = 0 ∧ BitVec.toNat (k.par 2) % 8 = 0 ∧ 8 ≤ BitVec.toNat (k.par 2) ∧
    BitVec.toNat (k.par 2) ≤ 2 ^ 20 ∧ aligned32 (k.par 3) = true ∧ k.zeroFrom 4 = true ∧
    (∃ (l : List (ℕ × ℕ)), s.resolve u true = Except.ok l) ∧ s.debugSpan k = Except.error e := by
  try dsimp only
  and_intros <;> first | decide +kernel | (simp only [State.offers, State.cleanSector, exists_some, forall_some, not_core, not_device]; decide +kernel) | exact ⟨_, rfl⟩ | rfl | exact Or.inl (by decide +kernel) | exact Or.inr (by decide +kernel) | (intro j hj; simp only [exists_some]; revert j; decide +kernel) | (intros; simp_all)

theorem wit_debugVa :
    let s : State := base;
    let k := cmd 0x605 2 [0x1240000000, 0, 32, 0x1000];
    let a := 0;
    let q := 0;
    let p := s.cmdPart k;
    let u : Word32 := k.unitAt 0;
    s.accepts k { op := 1541, gen := 2, pf := true, mem := decide (debugSpace k = 1) || decide (debugSpace k = 2) } = true ∧
    s.unitIn u p (s.cmdFn k) = true ∧ k.topZero 0 37 = true ∧ debugSpace k ≤ 3 ∧ k.topZero 1 52 = true ∧
    BitVec.toNat (k.par 1) % 8 = 0 ∧ BitVec.toNat (k.par 2) % 8 = 0 ∧ 8 ≤ BitVec.toNat (k.par 2) ∧
    BitVec.toNat (k.par 2) ≤ 2 ^ 20 ∧ aligned32 (k.par 3) = true ∧ k.zeroFrom 4 = true ∧
    (∃ (l : List (ℕ × ℕ)), s.resolve u true = Except.ok l) ∧ s.debugSpan k = Except.ok (DebugSpan.va q a) := by
  try dsimp only
  and_intros <;> first | decide +kernel | (simp only [State.offers, State.cleanSector, exists_some, forall_some, not_core, not_device]; decide +kernel) | exact ⟨_, rfl⟩ | rfl | exact Or.inl (by decide +kernel) | exact Or.inr (by decide +kernel) | (intro j hj; simp only [exists_some]; revert j; decide +kernel) | (intros; simp_all)

theorem wit_debugCodeWrite :
    let s : State := base;
    let k := cmd 0x605 2 [0x1300000000, 0x1FFF8, 8, 0x1000];
    let a := 0x1FFF8;
    let p := s.cmdPart k;
    let u : Word32 := k.unitAt 0;
    s.accepts k { op := 1541, gen := 2, pf := true, mem := decide (debugSpace k = 1) || decide (debugSpace k = 2) } = true ∧
    s.unitIn u p (s.cmdFn k) = true ∧ k.topZero 0 37 = true ∧ debugSpace k ≤ 3 ∧ k.topZero 1 52 = true ∧
    BitVec.toNat (k.par 1) % 8 = 0 ∧ BitVec.toNat (k.par 2) % 8 = 0 ∧ 8 ≤ BitVec.toNat (k.par 2) ∧
    BitVec.toNat (k.par 2) ≤ 2 ^ 20 ∧ aligned32 (k.par 3) = true ∧ k.zeroFrom 4 = true ∧
    (∃ (l : List (ℕ × ℕ)), s.resolve u true = Except.ok l) ∧ s.debugSpan k = Except.ok (DebugSpan.code a) ∧ debugWrite k = true := by
  try dsimp only
  and_intros <;> first | decide +kernel | (simp only [State.offers, State.cleanSector, exists_some, forall_some, not_core, not_device]; decide +kernel) | exact ⟨_, rfl⟩ | rfl | exact Or.inl (by decide +kernel) | exact Or.inr (by decide +kernel) | (intro j hj; simp only [exists_some]; revert j; decide +kernel) | (intros; simp_all)

theorem wit_debugCodeRead :
    let s : State := base;
    let k := cmd 0x605 2 [0x0300000000, 0x1FFF8, 8, 0x1000];
    let a := 0x1FFF8;
    let p := s.cmdPart k;
    let u : Word32 := k.unitAt 0;
    s.accepts k { op := 1541, gen := 2, pf := true, mem := decide (debugSpace k = 1) || decide (debugSpace k = 2) } = true ∧
    s.unitIn u p (s.cmdFn k) = true ∧ k.topZero 0 37 = true ∧ debugSpace k ≤ 3 ∧ k.topZero 1 52 = true ∧
    BitVec.toNat (k.par 1) % 8 = 0 ∧ BitVec.toNat (k.par 2) % 8 = 0 ∧ 8 ≤ BitVec.toNat (k.par 2) ∧
    BitVec.toNat (k.par 2) ≤ 2 ^ 20 ∧ aligned32 (k.par 3) = true ∧ k.zeroFrom 4 = true ∧
    (∃ (l : List (ℕ × ℕ)), s.resolve u true = Except.ok l) ∧ s.debugSpan k = Except.ok (DebugSpan.code a) ∧ debugWrite k = false := by
  try dsimp only
  and_intros <;> first | decide +kernel | (simp only [State.offers, State.cleanSector, exists_some, forall_some, not_core, not_device]; decide +kernel) | exact ⟨_, rfl⟩ | rfl | exact Or.inl (by decide +kernel) | exact Or.inr (by decide +kernel) | (intro j hj; simp only [exists_some]; revert j; decide +kernel) | (intros; simp_all)

theorem wit_debugWrite :
    let s : State := base;
    let k := cmd 0x605 2 [0x1000000000, 0x7FFF8, 8, 0x1000];
    let sp : Space := .store;
    let a := 0x7FFF8;
    let p := s.cmdPart k;
    let u : Word32 := k.unitAt 0;
    s.accepts k { op := 1541, gen := 2, pf := true, mem := decide (debugSpace k = 1) || decide (debugSpace k = 2) } = true ∧
    s.unitIn u p (s.cmdFn k) = true ∧ k.topZero 0 37 = true ∧ debugSpace k ≤ 3 ∧ k.topZero 1 52 = true ∧
    BitVec.toNat (k.par 1) % 8 = 0 ∧ BitVec.toNat (k.par 2) % 8 = 0 ∧ 8 ≤ BitVec.toNat (k.par 2) ∧
    BitVec.toNat (k.par 2) ≤ 2 ^ 20 ∧ aligned32 (k.par 3) = true ∧ k.zeroFrom 4 = true ∧
    (∃ (l : List (ℕ × ℕ)), s.resolve u true = Except.ok l) ∧ s.debugSpan k = Except.ok (DebugSpan.flat sp a) ∧ debugWrite k = true := by
  try dsimp only
  and_intros <;> first | decide +kernel | (simp only [State.offers, State.cleanSector, exists_some, forall_some, not_core, not_device]; decide +kernel) | exact ⟨_, rfl⟩ | rfl | exact Or.inl (by decide +kernel) | exact Or.inr (by decide +kernel) | (intro j hj; simp only [exists_some]; revert j; decide +kernel) | (intros; simp_all)

theorem wit_debugRead :
    let s : State := base;
    let k := cmd 0x605 2 [0x0140000000, 0x1FFFFF8, 8, 0x1000];
    let sp : Space := .deck;
    let a := 0x1FFFFF8;
    let p := s.cmdPart k;
    let u : Word32 := k.unitAt 0;
    s.accepts k { op := 1541, gen := 2, pf := true, mem := decide (debugSpace k = 1) || decide (debugSpace k = 2) } = true ∧
    s.unitIn u p (s.cmdFn k) = true ∧ k.topZero 0 37 = true ∧ debugSpace k ≤ 3 ∧ k.topZero 1 52 = true ∧
    BitVec.toNat (k.par 1) % 8 = 0 ∧ BitVec.toNat (k.par 2) % 8 = 0 ∧ 8 ≤ BitVec.toNat (k.par 2) ∧
    BitVec.toNat (k.par 2) ≤ 2 ^ 20 ∧ aligned32 (k.par 3) = true ∧ k.zeroFrom 4 = true ∧
    (∃ (l : List (ℕ × ℕ)), s.resolve u true = Except.ok l) ∧ s.debugSpan k = Except.ok (DebugSpan.flat sp a) ∧
    debugWrite k = false := by
  try dsimp only
  and_intros <;> first | decide +kernel | (simp only [State.offers, State.cleanSector, exists_some, forall_some, not_core, not_device]; decide +kernel) | exact ⟨_, rfl⟩ | rfl | exact Or.inl (by decide +kernel) | exact Or.inr (by decide +kernel) | (intro j hj; simp only [exists_some]; revert j; decide +kernel) | (intros; simp_all)

theorem wit_health :
    let s : State := base;
    let k := cmd 0x604 3 [383];
    s.accepts k { op := 1540, gen := 3, pf := true } = true ∧ bf (k.par 0) 61 9 = 0 ∧ Machine.testCore k < 384 ∧
    k.zeroFrom 1 = true ∧ testAction k = 0 := by
  dsimp only
  decide +kernel

theorem wit_testRun :
    let s : State := base;
    let k := cmd 0x604 3 [0x400000000000017F];
    let i : Instr := .fieldTestRun (cmd 0x604 3 [0x400000000000017F]);
    let c := Machine.testCore k;
    s.accepts k { op := 1540, gen := 3, pf := true } = true ∧ bf (k.par 0) 61 9 = 0 ∧ Machine.testCore k < 384 ∧
    k.zeroFrom 1 = true ∧
    (testAction k = 1 ∧ i = Instr.fieldTestRun k ∨ testAction k = 2 ∧ i = Instr.fieldTestReturn k ∧ (s.core c).removed = true) ∧
    s.coreHeld c = false := by
  dsimp only
  decide +kernel

theorem wit_testBusy :
    let s : State := busy;
    let k := cmd 0x604 3 [0x4000000000000000];
    let i : Instr := .fieldTestRun (cmd 0x604 3 [0x4000000000000000]);
    let c := Machine.testCore k;
    s.accepts k { op := 1540, gen := 3, pf := true } = true ∧ bf (k.par 0) 61 9 = 0 ∧ Machine.testCore k < 384 ∧
    k.zeroFrom 1 = true ∧
    (testAction k = 1 ∧ i = Instr.fieldTestRun k ∨ testAction k = 2 ∧ i = Instr.fieldTestReturn k ∧ (s.core c).removed = true) ∧
    s.coreHeld c = true := by
  dsimp only
  decide +kernel

theorem wit_testReturn :
    let s : State := { base with cores := [(383, { Core.reset with removed := true })] };
    let k := cmd 0x604 3 [0x800000000000017F];
    let i : Instr := .fieldTestReturn (cmd 0x604 3 [0x800000000000017F]);
    let c := Machine.testCore k;
    s.accepts k { op := 1540, gen := 3, pf := true } = true ∧ bf (k.par 0) 61 9 = 0 ∧ Machine.testCore k < 384 ∧
    k.zeroFrom 1 = true ∧
    (testAction k = 1 ∧ i = Instr.fieldTestRun k ∨ testAction k = 2 ∧ i = Instr.fieldTestReturn k ∧ (s.core c).removed = true) ∧
    s.coreHeld c = false := by
  dsimp only
  decide +kernel

theorem wit_testNotRemoved :
    let s : State := base;
    let k := cmd 0x604 3 [0x800000000000017F];
    let c := Machine.testCore k;
    s.accepts k { op := 1540, gen := 3, pf := true } = true ∧ bf (k.par 0) 61 9 = 0 ∧ Machine.testCore k < 384 ∧
    k.zeroFrom 1 = true ∧ testAction k = 2 ∧ (s.core c).removed = false := by
  dsimp only
  decide +kernel

theorem wit_traceReserved :
    let s : State := base;
    let k := cmd 0x600 2 [0x6000000000000000];
    s.accepts k { op := 1536, gen := 2 } = true ∧ (traceAction k = 0 ∨ 6 ≤ traceAction k) := by
  dsimp only
  decide +kernel

theorem wit_testReserved :
    let s : State := base;
    let k := cmd 0x604 3 [0xC000000000000000];
    s.accepts k { op := 1540, gen := 3, pf := true } = true ∧ testAction k = 3 := by
  dsimp only
  decide +kernel

theorem wit_debugUnmapped :
    let s : State := base;
    let k := cmd 0x605 2 [0x1240000000, 0x30000, 32, 0x1000];
    let e : Option (Refuse × ℕ) := some (.unmapped, 0x30000);
    let p := s.cmdPart k;
    let u : Word32 := k.unitAt 0;
    s.accepts k { op := 1541, gen := 2, pf := true, mem := decide (debugSpace k = 1) || decide (debugSpace k = 2) } = true ∧
    s.unitIn u p (s.cmdFn k) = true ∧ k.topZero 0 37 = true ∧ debugSpace k ≤ 3 ∧ k.topZero 1 52 = true ∧
    BitVec.toNat (k.par 1) % 8 = 0 ∧ BitVec.toNat (k.par 2) % 8 = 0 ∧ 8 ≤ BitVec.toNat (k.par 2) ∧
    BitVec.toNat (k.par 2) ≤ 2 ^ 20 ∧ aligned32 (k.par 3) = true ∧ k.zeroFrom 4 = true ∧
    (∃ (l : List (ℕ × ℕ)), s.resolve u true = Except.ok l) ∧ s.debugSpan k = Except.error e := by
  try dsimp only
  and_intros <;> first | decide +kernel | (simp only [State.offers, State.cleanSector, exists_some, forall_some, not_core, not_device]; decide +kernel) | exact ⟨_, rfl⟩ | rfl | exact Or.inl (by decide +kernel) | exact Or.inr (by decide +kernel) | (intro j hj; simp only [exists_some]; revert j; decide +kernel) | (intros; simp_all)

theorem wit_powerBusy :
    let s : State := busy;
    let k := cmd 0x700 2 [0x0000000140000000];
    let l : List (ℕ × ℕ) := (upFrom 0 8).map fun c => (0, c);
    let cls : List ℕ := clustersHolding (List.map (fun (x : ℕ × ℕ) => x.2) l);
    let slice : ℕ → Option DeckPower := fun (cl : ℕ) => sliceFor (powerTo k) (powerDeck k) (s.cluster cl).deckPwr (s.clusterPart
      cl).isSome;
    s.accepts k powerRow = true ∧ powerParams k = true ∧ powerTo k ≤ 2 ∧ powerForm (k.unitAt 0) = true ∧
    s.resolve (k.unitAt 0) true = Except.ok l ∧ wholeClusters (List.map (fun (x : ℕ × ℕ) => x.2) l) = true ∧
    (∀ cl ∈ cls, slice cl ≠ none) ∧ ∃ c ∈ l, s.coreHeld c.2 = true := by
  dsimp only
  decide +kernel

theorem wit_power :
    let s : State := base;
    let k := cmd 0x700 2 [0x00000002400EC000];
    let l : List (ℕ × ℕ) := (upFrom 376 8).map fun c => (0, c);
    let cls : List ℕ := clustersHolding (List.map (fun (x : ℕ × ℕ) => x.2) l);
    let slice : ℕ → Option DeckPower := fun (cl : ℕ) => sliceFor (powerTo k) (powerDeck k) (s.cluster cl).deckPwr (s.clusterPart
      cl).isSome;
    s.accepts k powerRow = true ∧ powerParams k = true ∧ powerTo k ≤ 2 ∧ powerForm (k.unitAt 0) = true ∧
    s.resolve (k.unitAt 0) true = Except.ok l ∧ wholeClusters (List.map (fun (x : ℕ × ℕ) => x.2) l) = true ∧
    (∀ cl ∈ cls, slice cl ≠ none) ∧ (∀ c ∈ l, s.coreHeld c.2 = false) ∧ (powerTo k ≠ 0 → ∀ cl ∈ cls, s.enginesIdle cl = true) := by
  dsimp only
  decide +kernel

theorem wit_powerReserved :
    let s : State := base;
    let k := cmd 0x700 2 [0x0000000B80000000];
    s.accepts k powerRow = true ∧ powerParams k = true ∧ (3 ≤ powerTo k ∧ powerTo k ≤ 7 ∨ 11 ≤ powerTo k) := by
  dsimp only
  decide +kernel

theorem wit_enterQuietBusy :
    let s : State := busy;
    let k := cmd 0x700 2 [0x0000000880000000];
    let d := 0;
    let l : List (ℕ × ℕ) := (upFrom 0 384).map fun c => (0, c);
    s.accepts k powerRow = true ∧ powerParams k = true ∧ (powerTo k = 8 ∨ powerTo k = 9) ∧ powerDeck k = 0 ∧
    unitOf (k.unitAt 0) = UnitName.device d ∧ s.resolve (k.unitAt 0) true = Except.ok l ∧ s.heldJobs ≠ [] := by
  dsimp only
  decide +kernel

theorem wit_enterQuiet :
    let s : State := base;
    let k := cmd 0x700 2 [0x0000000980000000];
    let d := 0;
    let l : List (ℕ × ℕ) := (upFrom 0 384).map fun c => (0, c);
    s.accepts k powerRow = true ∧ powerParams k = true ∧ (powerTo k = 8 ∨ powerTo k = 9) ∧ powerDeck k = 0 ∧
    unitOf (k.unitAt 0) = UnitName.device d ∧ s.resolve (k.unitAt 0) true = Except.ok l ∧ s.heldJobs = [] ∧ s.streaming = false ∧
    ∀ cl < 48, s.enginesIdle cl = true := by
  dsimp only
  decide +kernel

theorem wit_leaveQuiet :
    let s : State := { base with quiet := true };
    let k := cmd 0x700 2 [0x0000000A80000000];
    let l : List (ℕ × ℕ) := (upFrom 0 384).map fun c => (0, c);
    s.accepts k powerRow = true ∧ powerParams k = true ∧ powerTo k = 10 ∧ powerForm (k.unitAt 0) = true ∧
    s.resolve (k.unitAt 0) true = Except.ok l := by
  dsimp only
  decide +kernel

theorem wit_stageWarm :
    let s : State := base;
    let k := cmd 0x701 1 [1, 1];
    let v : Word64 := k.par 1;
    let n := settingOf k;
    s.accepts k stageRow = true ∧ k.topZero 0 16 = true ∧ k.zeroFrom 2 = true ∧ n = 1 ∧ BitVec.toNat v ≤ 1 := by
  dsimp only
  decide +kernel

theorem wit_stageRoute :
    let s : State := base;
    let k := cmd 0x701 1 [0x10, 0];
    let v : Word64 := k.par 1;
    let n := settingOf k;
    s.accepts k stageRow = true ∧ k.topZero 0 16 = true ∧ k.zeroFrom 2 = true ∧ n = 16 ∧ v = errRouteWord v := by
  dsimp only
  decide +kernel

theorem wit_stageHbm :
    let s : State := base;
    let k := cmd 0x701 1 [0x20, 0x10100];
    let v : Word64 := k.par 1;
    let n := settingOf k;
    s.accepts k stageRow = true ∧ k.topZero 0 16 = true ∧ k.zeroFrom 2 = true ∧ n = 32 ∧ v = hbmCtlWord v ∧ hbmCtlOk v = true := by
  dsimp only
  decide +kernel

theorem wit_stageOverlay :
    let s : State := base;
    let k := cmd 0x701 1 [0x30, 6];
    let v : Word64 := k.par 1;
    let n := settingOf k;
    s.accepts k stageRow = true ∧ k.topZero 0 16 = true ∧ k.zeroFrom 2 = true ∧ n = 48 ∧ BitVec.toNat v ≤ 6 ∧ s.overlay = [] ∧
    s.heldJobs = [] ∧ ∀ cl < 48, BitVec.toNat v + cacheMib (s.cluster cl).deckCfg ≤ 32 ∧
    s.deckMappedAbove cl (scratchUnder (BitVec.toNat v) (s.cluster cl).deckCfg) = false := by
  dsimp only
  decide +kernel

theorem wit_stagePortUsed :
    let s : State := onImage (linked up) { both with slots := [slot0] } job0;
    let k := cmd 0x701 1 [0x100, portCfgReset];
    let p := 0;
    let v : Word64 := k.par 1;
    let n := settingOf k;
    s.accepts k stageRow = true ∧ k.topZero 0 16 = true ∧ k.zeroFrom 2 = true ∧ p < 16 ∧ n = 256 + p ∧ v &&& portCfgMask = v ∧
    portCfgOk v = true ∧ s.joining = none ∧ s.portUsed p = true := by
  dsimp only
  decide +kernel

theorem wit_stagePortDown :
    let s : State := base;
    let k := cmd 0x701 1 [0x10F, portCfgReset];
    let p := 15;
    let v : Word64 := k.par 1;
    let n := settingOf k;
    s.accepts k stageRow = true ∧ k.topZero 0 16 = true ∧ k.zeroFrom 2 = true ∧ p < 16 ∧ n = 256 + p ∧ v &&& portCfgMask = v ∧
    portCfgOk v = true ∧ s.joining = none ∧ s.portUsed p = false ∧ (s.port p).st ≠ PortSt.up := by
  dsimp only
  decide +kernel

theorem wit_stagePortUp :
    let s : State := linked up;
    let k := cmd 0x701 1 [0x100, portCfgReset];
    let p := 0;
    let v : Word64 := k.par 1;
    let n := settingOf k;
    s.accepts k stageRow = true ∧ k.topZero 0 16 = true ∧ k.zeroFrom 2 = true ∧ p < 16 ∧ n = 256 + p ∧ v &&& portCfgMask = v ∧
    portCfgOk v = true ∧ s.joining = none ∧ s.portUsed p = false ∧ (s.port p).st = PortSt.up := by
  dsimp only
  decide +kernel

theorem wit_stageTest :
    let s : State := base;
    let k := cmd 0x701 1 [0x3E00, 0xFF01];
    let v : Word64 := k.par 1;
    let n := settingOf k;
    s.accepts k stageRow = true ∧ k.topZero 0 16 = true ∧ k.zeroFrom 2 = true ∧ n = 15872 ∧ v &&& 65281 = v := by
  dsimp only
  decide +kernel

theorem wit_stageAddress :
    let s : State := base;
    let k := cmd 0x701 1 [0x3F13, 0xFFFFFFFF];
    let i := 3;
    let v : Word64 := k.par 1;
    let n := settingOf k;
    s.accepts k stageRow = true ∧ k.topZero 0 16 = true ∧ k.zeroFrom 2 = true ∧ i < 4 ∧ n = 16144 + i ∧ BitVec.toNat v < 2 ^ 32 := by
  dsimp only
  decide +kernel

theorem wit_stageRegionWord :
    let s : State := base;
    let k := cmd 0x701 1 [0x7FFD, 0x002FFFFFFFF00000];
    let i := 4095;
    let w := 1;
    let v : Word64 := k.par 1;
    let n := settingOf k;
    s.accepts k stageRow = true ∧ k.topZero 0 16 = true ∧ k.zeroFrom 2 = true ∧ i < 4096 ∧ 1 ≤ w ∧ w < 4 ∧ n = 16384 + 4 * i + w ∧
    regionWordOk w v = true := by
  dsimp only
  decide +kernel

theorem wit_stageReserved :
    let s : State := base;
    let k := cmd 0x701 1 [0x3FFF, 0];
    let n := settingOf k;
    s.accepts k stageRow = true ∧ k.topZero 0 16 = true ∧ k.zeroFrom 2 = true ∧ ownStage n = false ∧ n < 16384 ∧
    s.liveSetting n = none := by
  dsimp only
  decide +kernel

theorem wit_stageEthPort :
    let s : State := base;
    let k := cmd 0x701 1 [0x3F01, 0xE3];
    let p := 1;
    let v : Word64 := k.par 1;
    let n := settingOf k;
    s.accepts k stageRow = true ∧ k.topZero 0 16 = true ∧ k.zeroFrom 2 = true ∧ p < 2 ∧ n = 16128 + p ∧ v &&& 227 = v := by
  dsimp only
  decide +kernel

theorem wit_stageRegion :
    let s : State := { base with ethWords := [(21, 0x100000)] };
    let k := cmd 0x701 1 [0x4014, 0x8000000000000000];
    let i := 5;
    let v : Word64 := k.par 1;
    let r : Region := { w0 := v, w1 := s.regionWord i 1, w2 := s.regionWord i 2, w3 := s.regionWord i 3, clearing := [] };
    s.accepts k stageRow = true ∧ k.topZero 0 16 = true ∧ k.zeroFrom 2 = true ∧ regionStage k = some i ∧ word0Ok k = true ∧
    bit v 63 = true ∧ s.region i = none ∧ s.regionFits r = true ∧
    ∃ (ls : List Leaf), (s.translateEngine r.part r.base r.length !r.egress) = Except.ok ls := by
  dsimp only
  and_intros <;> first | decide +kernel | exact ⟨[page 0 0xC400000000010000], by decide +kernel⟩

theorem wit_stageRegionBad :
    let s : State := base;
    let k := cmd 0x701 1 [0x7FFC, 0x8100000000000000];
    let i := 4095;
    let v : Word64 := k.par 1;
    let r : Region := { w0 := v, w1 := s.regionWord i 1, w2 := s.regionWord i 2, w3 := s.regionWord i 3, clearing := [] };
    s.accepts k stageRow = true ∧ k.topZero 0 16 = true ∧ k.zeroFrom 2 = true ∧ regionStage k = some i ∧ word0Ok k = true ∧
    bit v 63 = true ∧
    (s.regionFits r = false ∨ (∃ (x : Region), s.region i = some x ∧ (x.valid = true ∨ x.clearing ≠ [])) ∨ ∃ (e : Refuse × ℕ),
      (s.translateEngine r.part r.base r.length !r.egress) = Except.error e) := by
  try dsimp only
  and_intros <;> first | decide +kernel | (simp only [State.offers, State.cleanSector, exists_some, forall_some, not_core, not_device]; decide +kernel) | exact ⟨_, rfl⟩ | rfl | exact Or.inl (by decide +kernel) | exact Or.inr (by decide +kernel) | (intro j hj; simp only [exists_some]; revert j; decide +kernel) | (intros; simp_all)

theorem wit_clearRegionBusy :
    let s : State := { withRegion base with jobs := [(0, some { job0 with outs := [.ethSend 0 5 0 [] 0] })] };
    let k := cmd 0x701 1 [0x4014, 0];
    let i := 5;
    let r : Region := region0;
    let v : Word64 := k.par 1;
    s.accepts k stageRow = true ∧ k.topZero 0 16 = true ∧ k.zeroFrom 2 = true ∧ regionStage k = some i ∧ word0Ok k = true ∧
    bit v 63 = false ∧ s.region i = some r ∧ r.clearing = [] ∧ s.regionBusy i = true := by
  dsimp only
  decide +kernel

theorem wit_clearRegion :
    let s : State := withRegion base;
    let k := cmd 0x701 1 [0x4014, 0];
    let i := 5;
    let r : Region := region0;
    let v : Word64 := k.par 1;
    s.accepts k stageRow = true ∧ k.topZero 0 16 = true ∧ k.zeroFrom 2 = true ∧ regionStage k = some i ∧ word0Ok k = true ∧
    bit v 63 = false ∧ s.region i = some r ∧ r.clearing = [] ∧ s.regionBusy i = false := by
  dsimp only
  decide +kernel

theorem wit_readNone :
    let s : State := base;
    let k := cmd 0x702 1 [0x3FFF];
    let n := settingOf k;
    s.accepts k { op := 1794, gen := 1 } = true ∧ k.topZero 0 17 = true ∧ k.zeroFrom 1 = true ∧ s.liveSetting n = none := by
  dsimp only
  decide +kernel

theorem wit_readLive :
    let s : State := base;
    let k := cmd 0x702 1 [0x10F];
    let x : Word64 := portCfgReset;
    let n := settingOf k;
    s.accepts k { op := 1794, gen := 1 } = true ∧ k.topZero 0 17 = true ∧ k.zeroFrom 1 = true ∧ s.liveSetting n = some x ∧
    bit (k.par 0) 16 = false := by
  dsimp only
  decide +kernel

theorem wit_readStored :
    let s : State := base;
    let k := cmd 0x702 1 [0x13E00];
    let x : Word64 := ftCtlReset;
    let n := settingOf k;
    s.accepts k { op := 1794, gen := 1 } = true ∧ k.topZero 0 17 = true ∧ k.zeroFrom 1 = true ∧ s.liveSetting n = some x ∧
    bit (k.par 0) 16 = true := by
  dsimp only
  decide +kernel

theorem wit_storeWorn :
    let s : State := { base with nvm := { Nvm.reset with pageWrites := [(0, 100000)] } };
    let k := cmd 0x703 1 [];
    let same : Bool := s.nvm.valid && List.all s.liveValues fun (x : ℕ × Word64) => decide (s.storedSetting x.1 = x.2);
    let page := s.nvm.seq % 64;
    s.accepts k { op := 1795, gen := 1, pf := true, dev := true } = true ∧ k.zeroFrom 0 = true ∧ same = false ∧
    100000 ≤ s.nvm.pageWrites.get page 0 := by
  dsimp only
  decide +kernel

theorem wit_store :
    let s : State := { base with nvm := { Nvm.reset with pageWrites := [(0, 99999)] } };
    let k := cmd 0x703 1 [];
    let same : Bool := s.nvm.valid && List.all s.liveValues fun (x : ℕ × Word64) => decide (s.storedSetting x.1 = x.2);
    let page := s.nvm.seq % 64;
    s.accepts k { op := 1795, gen := 1, pf := true, dev := true } = true ∧ k.zeroFrom 0 = true ∧ same = false ∧
    s.nvm.pageWrites.get page 0 < 100000 := by
  dsimp only
  decide +kernel

theorem wit_updateLong :
    let s : State := base;
    let k := cmd 0x704 2 [0x1000, 0x2800001, 1];
    let v : Word64 := k.par 1;
    let scan : Bool := bit (k.par 2) 0;
    let most := (if scan = true then 40 else 16) * 2 ^ 20;
    s.accepts k { op := 1796, gen := 2, pf := true, dev := true } = true ∧ k.topZero 1 32 = true ∧ k.topZero 2 1 = true ∧
    k.zeroFrom 3 = true ∧ most < BitVec.toNat v := by
  dsimp only
  decide +kernel

theorem wit_connect :
    let s : State := withRegion base;
    let link := 3;
    let q := 0;
    s.on = true ∧ link < 4 ∧ s.linkUsed link = true ∧ s.pfc.get link false = false ∧
    List.find? (fun (q : ℕ) => (s.qp link q).isNone) (List.range 256) = some q := by
  dsimp only
  decide +kernel

theorem wit_pfc :
    let s : State := withRegion base;
    let link := 3;
    s.on = true ∧ link < 4 ∧ s.linkUsed link = true := by
  dsimp only
  decide +kernel

theorem wit_connectPaused :
    let s : State := { withRegion base with pfc := [(3, true)] };
    let link := 3;
    s.on = true ∧ link < 4 ∧ s.linkUsed link = true ∧ s.pfc.get link false = true := by
  dsimp only
  decide +kernel

theorem wit_rdmaOrder :
    let s : State := withRegion base;
    let link := 3;
    let qp := 255;
    let q : QPair := pair0;
    let p : RocePacket := { packet0 with psn := 0 };
    s.on = true ∧ link < 4 ∧ qp < 256 ∧ s.qp link qp = some q ∧ s.pfc.get link false = false ∧ p.psn ≠ q.expectPsn := by
  dsimp only
  decide +kernel

theorem wit_rdmaOther :
    let s : State := withRegion base;
    let link := 3;
    let qp := 255;
    let q : QPair := pair0;
    let p : RocePacket := { packet0 with other := true };
    s.on = true ∧ link < 4 ∧ qp < 256 ∧ s.qp link qp = some q ∧ s.pfc.get link false = false ∧ p.psn = q.expectPsn ∧
    p.other = true := by
  dsimp only
  decide +kernel

theorem wit_rdmaRefused :
    let s : State := withRegion base;
    let link := 3;
    let qp := 255;
    let q : QPair := pair0;
    let p : RocePacket := { packet0 with offset := 0x10000 };
    let c := 3;
    let msg : QPair :=
      { peer := q.peer, expectPsn := q.expectPsn, rkey := p.rkey, offset := p.offset, length := p.length, taken := q.taken, buffer := q.buffer };
    let r : Option Region := s.region (bf p.rkey 11 0);
    s.on = true ∧ link < 4 ∧ qp < 256 ∧ s.qp link qp = some q ∧ s.pfc.get link false = false ∧ p.psn = q.expectPsn ∧
    p.other = false ∧ p.first = true ∧ p.last = true ∧ p.payload.length = p.length ∧ p.length ≤ 4096 ∧ s.quiet = false ∧
    bf p.rkey 31 22 = s.device ∧ s.nakCause link msg r = some c := by
  dsimp only
  decide +kernel

theorem wit_rdma :
    let s : State := withRegion base;
    let link := 3;
    let qp := 255;
    let q : QPair := pair0;
    let p : RocePacket := packet0;
    let g : Region := region0;
    let msg : QPair :=
      { peer := q.peer, expectPsn := q.expectPsn, rkey := p.rkey, offset := p.offset, length := p.length, taken := q.taken, buffer := q.buffer };
    let r : Option Region := s.region (bf p.rkey 11 0);
    s.on = true ∧ link < 4 ∧ qp < 256 ∧ s.qp link qp = some q ∧ s.pfc.get link false = false ∧ p.psn = q.expectPsn ∧
    p.other = false ∧ p.first = true ∧ p.last = true ∧ p.payload.length = p.length ∧ p.length ≤ 4096 ∧ s.quiet = false ∧
    bf p.rkey 31 22 = s.device ∧ r = some g ∧ s.nakCause link msg r = none := by
  dsimp only
  decide +kernel

theorem wit_mctp :
    let s : State := base;
    s.on = true := by
  dsimp only
  decide +kernel

theorem wit_configRetry :
    let s : State := { base with ready := false };
    s.on = true ∧ s.perst = false ∧ s.ready = false := by
  dsimp only
  decide +kernel

theorem wit_config :
    let s : State := base;
    let n := 16;
    s.on = true ∧ s.perst = false ∧ s.ready = true ∧ n ≤ 16 := by
  dsimp only
  decide +kernel

theorem wit_configBar :
    let s : State := base;
    let n := 10;
    s.on = true ∧ s.perst = false ∧ s.ready = true ∧ n ≤ 10 := by
  dsimp only
  decide +kernel

theorem wit_msix :
    let s : State :=
      { base with sriov := true, vfs := 16, msix := [(16, { Msix.reset with unmasked := [63], waiting := [63] })] };
    let f := 16;
    s.on = true ∧ s.perst = false ∧ s.ready = true ∧ s.hasFunction f = true := by
  dsimp only
  decide +kernel

theorem wit_msixMasked :
    let s : State := { base with msix := [(0, { Msix.reset with waiting := [5] })] };
    let f := 0;
    s.on = true ∧ s.perst = false ∧ s.ready = true ∧ s.hasFunction f = true := by
  dsimp only
  decide +kernel

theorem wit_msixVector :
    let s : State := { base with msix := [(0, { Msix.reset with enable := true, waiting := [2047] })] };
    let f := 0;
    let v := 2047;
    s.on = true ∧ s.perst = false ∧ s.ready = true ∧ s.hasFunction f = true ∧ v < msixVectors f := by
  dsimp only
  decide +kernel

theorem wit_msixVectorMasked :
    let s : State := base;
    let f := 0;
    let v := 2047;
    s.on = true ∧ s.perst = false ∧ s.ready = true ∧ s.hasFunction f = true ∧ v < msixVectors f := by
  dsimp only
  decide +kernel

theorem wit_softReset :
    let s : State := busy;
    let k := cmd 3 1 [];
    s.accepts k { op := 3, gen := 1, pf := true, dev := true } = true ∧ k.zeroFrom 0 = true := by
  dsimp only
  decide +kernel

theorem wit_coldPower :
    let b : BootInput := { refValid := true, pufOk := false, trained := 0x7FF, straps := 15 };
    b.refValid = true := by
  rfl

theorem wit_coldNoRef :
    let b : BootInput := { refValid := false, pufOk := true, trained := 0xFFF, straps := 0 };
    b.refValid = false := by
  rfl

theorem wit_warm :
    let s : State := { busy with warmSetting := 1 };
    s.on = true ∧ bit s.warmSetting 0 = true := by
  dsimp only
  decide +kernel

theorem wit_perst :
    let s : State := busy;
    s.on = true ∧ bit s.warmSetting 0 = false := by
  dsimp only
  decide +kernel

theorem wit_deassert :
    let s : State := { base with perst := true };
    s.perst = true := by
  rfl

theorem wit_flr :
    let s : State := { base with sriov := true, vfs := 16, queues := [(20, { queue0 with fn := 16 })] };
    let f := 16;
    f < 17 ∧ f ≠ 0 ∧ s.on = true ∧ s.sriov = true ∧ f ≤ s.vfs := by
  dsimp only
  decide +kernel

theorem wit_scrubEnd :
    let s : State := { base with parts := [(0, { part0 with scrub := true })] };
    let p := 0;
    p < 16 ∧ (s.part p).scrub = true ∧ s.partJobs p = [] := by
  dsimp only
  decide +kernel

theorem wit_undervoltage :
    let n := 10000;
    10000 ≤ n := by
  dsimp only
  decide +kernel

theorem wit_shortDip :
    let n := 9999;
    n < 10000 := by
  dsimp only
  decide +kernel

theorem wit_bootReady :
    let s : State := { base with ready := false };
    s.on = true ∧ s.perst = false ∧ s.recovery = false := by
  dsimp only
  decide +kernel

theorem leBytes_length (n v : Nat) : (leBytes n v).length = n := by
  induction n generalizing v with
  | zero => rfl
  | succ n ih => simp [leBytes, ih]

theorem padTo_length (n : Nat) (b : List Byte) : (padTo n b).length = n := by simp [padTo]

theorem wit_joinMismatch (h : described.deviceId = 9) :
    let s : State := described;
    let k := cmd 0x400 1 [0x1000, 288];
    let b : List Byte := s.hostRead (BitVec.toNat (k.par 0)) (BitVec.toNat (k.par 1));
    let f : Fabric := parseFabric b;
    s.accepts k { op := 1024, gen := 1, pf := true, dev := true } = true ∧ aligned32 (k.par 0) = true ∧ k.topZero 1 32 = true ∧
    k.zeroFrom 2 = true ∧ descriptionOk b = true ∧ ∀ d ∈ f.devices, d.id ≠ s.deviceId := by
  dsimp only
  and_intros <;> first | decide +kernel | (rw [h]; decide +kernel)

theorem wit_fabricJoin (h : described.deviceId = 3)
    (h2 : BitVec.ofNat 512 (fromLe (Config.shake256 ((described.hostRead 0x1000 288).drop 128) 64)) = 0) :
    let s : State := described;
    let k := cmd 0x400 1 [0x1000, 288];
    let d : FabDevice := { id := 3, number := 0 };
    let b : List Byte := s.hostRead (BitVec.toNat (k.par 0)) (BitVec.toNat (k.par 1));
    let f : Fabric := parseFabric b;
    s.accepts k { op := 1024, gen := 1, pf := true, dev := true } = true ∧ aligned32 (k.par 0) = true ∧ k.topZero 1 32 = true ∧
    k.zeroFrom 2 = true ∧ descriptionOk b = true ∧
    List.find? (fun (y : FabDevice) => decide (y.id = s.deviceId)) f.devices = some d ∧
    BitVec.ofNat 512 (fromLe (Config.shake256 (List.drop 128 b) 64)) = f.digest ∧ f.portsOk = true ∧ f.topologyOk = true ∧
    s.joining = none ∧ s.assigned = false ∧ ∃ q ∈ f.portsHere d.number, (s.port q).enabled = true := by
  dsimp only
  and_intros <;> first | decide +kernel | (rw [h]; decide +kernel) | exact h2.trans (by decide +kernel)

theorem wit_leave :
    let s : State := pair;
    let k := cmd 0x401 2 [];
    s.accepts k { op := 1025, gen := 2, pf := true, dev := true } = true ∧ k.zeroFrom 0 = true ∧ s.heldJobs = [] ∧
    s.farGroup = false ∧ ∀ x ∈ s.images, x.2 = none := by
  dsimp only
  decide +kernel

theorem wit_attest :
    let s : State := base;
    let k := cmd 0x500 2 [0x1000, 0x10000];
    let ps : List ℕ := s.syncParts (s.cmdFn k);
    let nonce : List Byte := s.hostRead (BitVec.toNat (k.par 0)) 64;
    let r : List Byte := (s.started k).attestation ps nonce;
    let b : List Byte := r ++ padTo 1280 (Config.falconSign (attestSeed s.secret s.fwImage) (ascii "TVF-REPORT" ++ r));
    s.accepts k { op := 1280, gen := 2 } = true ∧ aligned32 (k.par 0) = true ∧ k.topZero 1 32 = true ∧ k.zeroFrom 2 = true ∧
    b.length ≤ BitVec.toNat (k.par 1) := by
  dsimp only
  refine ⟨by decide +kernel, by decide +kernel, by decide +kernel, by decide +kernel, ?_⟩
  have e : (((base.started (cmd 0x500 2 [0x1000, 0x10000])).reportEntries
    (base.syncParts (base.cmdFn (cmd 0x500 2 [0x1000, 0x10000])))).flatten).length ≤ 2000 := by decide +kernel
  have n : (base.hostRead (BitVec.toNat ((cmd 0x500 2 [0x1000, 0x10000]).par 0)) 64).length = 64 := by decide +kernel
  have p : BitVec.toNat ((cmd 0x500 2 [0x1000, 0x10000]).par 1) = 0x10000 := by decide +kernel
  simp only [State.attestation, State.firmwareDigest, firmwareDigestOf, State.settingsDigest, digestBytes, List.length_append, leBytes_length, padTo_length, n, p]
  omega

theorem wit_attestShort :
    let s : State := base;
    let k := cmd 0x500 2 [0x1000, 0];
    let ps : List ℕ := s.syncParts (s.cmdFn k);
    let nonce : List Byte := s.hostRead (BitVec.toNat (k.par 0)) 64;
    let r : List Byte := (s.started k).attestation ps nonce;
    let b : List Byte := r ++ padTo 1280 (Config.falconSign (attestSeed s.secret s.fwImage) (ascii "TVF-REPORT" ++ r));
    s.accepts k { op := 1280, gen := 2 } = true ∧ aligned32 (k.par 0) = true ∧ k.topZero 1 32 = true ∧ k.zeroFrom 2 = true ∧
    BitVec.toNat (k.par 1) < b.length := by
  dsimp only
  decide +kernel

theorem wit_openBad (h : let b := noncePart.hostRead 0x1000 1664; confirms (Config.decapsulate (kemSeed noncePart.secret) (b.take 1568)) (b.take 1568) (b.drop 1632) = false) :
    let s : State := noncePart;
    let k := cmd 0x502 3 [0x1000];
    let p := s.cmdPart k;
    let b : List Byte := s.hostRead (BitVec.toNat (k.par 0)) 1664;
    let ct : List Byte := List.take 1568 b;
    let nonce : List Byte := List.take 64 (List.drop 1568 b);
    let good : Bool := confirms (Config.decapsulate (kemSeed s.secret) ct) ct (List.drop 1632 b);
    s.accepts k { op := 1282, gen := 3 } = true ∧ k.zeroFrom 1 = true ∧ (s.part p).session = none ∧
    (s.part p).nonce = some (digestWord nonce) ∧ good = false := by
  dsimp only
  and_intros <;> first | decide +kernel | exact h

theorem wit_open_ (h : let b := noncePart.hostRead 0x1000 1664; confirms (Config.decapsulate (kemSeed noncePart.secret) (b.take 1568)) (b.take 1568) (b.drop 1632) = true) :
    let s : State := noncePart;
    let k := cmd 0x502 3 [0x1000];
    let p := s.cmdPart k;
    let b : List Byte := s.hostRead (BitVec.toNat (k.par 0)) 1664;
    let ct : List Byte := List.take 1568 b;
    let nonce : List Byte := List.take 64 (List.drop 1568 b);
    let good : Bool := confirms (Config.decapsulate (kemSeed s.secret) ct) ct (List.drop 1632 b);
    s.accepts k { op := 1282, gen := 3 } = true ∧ k.zeroFrom 1 = true ∧ (s.part p).session = none ∧
    (s.part p).nonce = some (digestWord nonce) ∧ good = true := by
  dsimp only
  and_intros <;> first | decide +kernel | exact h

theorem wit_closeBusy :
    let s : State := { moving inSession with leaves := [page 0x10000 0xF400000000020000] };
    let k := cmd 0x503 3 [];
    let p := s.cmdPart k;
    s.accepts k { op := 1283, gen := 3 } = true ∧ k.zeroFrom 0 = true ∧ (s.part p).session ≠ none ∧
    s.transfers p Cipher.session = true := by
  dsimp only
  decide +kernel

theorem wit_keyBad (h : let b := keyed.hostRead 0x2000 1600; confirms (Config.decapsulate (kemSeed keyed.secret) (b.take 1568)) (b.take 1568) (b.drop 1568) = false) :
    let s : State := keyed;
    let k := cmd 0x504 3 [0x2000, 0, 0, 0x12000, 4096];
    let ls : List Leaf := [page 0x10000 0xE400000000020000];
    let n := 0;
    let p := s.cmdPart k;
    let inVa := BitVec.toNat (k.par 1);
    let inLen := BitVec.toNat (k.par 2);
    let outVa := BitVec.toNat (k.par 3);
    let outLen := BitVec.toNat (k.par 4);
    let b : List Byte := s.hostRead (BitVec.toNat (k.par 0)) 1600;
    let ct : List Byte := List.take 1568 b;
    let free : Option ℕ := List.find? (fun (n : ℕ) => (s.jobKeys.get n none).isNone) (List.range 64);
    let good : Bool := confirms (Config.decapsulate (kemSeed s.secret) ct) ct (List.drop 1568 b);
    s.accepts k { op := 1284, gen := 3 } = true ∧ keyParams k = true ∧ s.keyLeaves p inVa inLen outVa outLen = Except.ok ls ∧
    (∀ l ∈ ls, l.kind = 0 ∧ l.prot = true) ∧ s.keyOverlap p inVa inLen = false ∧ s.keyOverlap p outVa outLen = false ∧
    boundMeet inVa inLen outVa outLen = false ∧ free = some n ∧ good = false := by
  dsimp only
  and_intros <;> first | decide +kernel | exact h

theorem wit_key (h : let b := keyed.hostRead 0x2000 1600; confirms (Config.decapsulate (kemSeed keyed.secret) (b.take 1568)) (b.take 1568) (b.drop 1568) = true) :
    let s : State := keyed;
    let k := cmd 0x504 3 [0x2000, 0, 0, 0x12000, 4096];
    let ls : List Leaf := [page 0x10000 0xE400000000020000];
    let n := 0;
    let p := s.cmdPart k;
    let inVa := BitVec.toNat (k.par 1);
    let inLen := BitVec.toNat (k.par 2);
    let outVa := BitVec.toNat (k.par 3);
    let outLen := BitVec.toNat (k.par 4);
    let b : List Byte := s.hostRead (BitVec.toNat (k.par 0)) 1600;
    let ct : List Byte := List.take 1568 b;
    let free : Option ℕ := List.find? (fun (n : ℕ) => (s.jobKeys.get n none).isNone) (List.range 64);
    let good : Bool := confirms (Config.decapsulate (kemSeed s.secret) ct) ct (List.drop 1568 b);
    s.accepts k { op := 1284, gen := 3 } = true ∧ keyParams k = true ∧ s.keyLeaves p inVa inLen outVa outLen = Except.ok ls ∧
    (∀ l ∈ ls, l.kind = 0 ∧ l.prot = true) ∧ s.keyOverlap p inVa inLen = false ∧ s.keyOverlap p outVa outLen = false ∧
    boundMeet inVa inLen outVa outLen = false ∧ free = some n ∧ good = true := by
  dsimp only
  and_intros <;> first | decide +kernel | exact h

theorem wit_packageUnsigned (h : pack.signed = false) :
    let s : State := packState;
    let k : Cmd := packCmd;
    let x : PackageView := pack;
    s.accepts k { op := 1286, gen := 3, mem := true } = true ∧ BitVec.toNat (k.par 1) % 32 = 0 ∧ k.topZero 1 52 = true ∧
    k.zeroFrom 2 = true ∧ s.packageAt (BitVec.toNat (k.par 0)) = some x ∧ x.signed = false := by
  exact ⟨by decide +kernel, by decide +kernel, by decide +kernel, by decide +kernel, rfl, h⟩

theorem wit_packageBad (h : pack0.signed = true) :
    let s : State := withHost base 0x2000 [0x0000000000010000, 32];
    let k : Cmd := packCmd;
    let x : PackageView := pack0;
    s.accepts k { op := 1286, gen := 3, mem := true } = true ∧ BitVec.toNat (k.par 1) % 32 = 0 ∧ k.topZero 1 52 = true ∧
    k.zeroFrom 2 = true ∧ s.packageAt (BitVec.toNat (k.par 0)) = some x ∧ x.signed = true ∧ x.ok = false := by
  exact ⟨by decide +kernel, by decide +kernel, by decide +kernel, by decide +kernel, rfl, h, by decide +kernel⟩

theorem wit_packageNotInSet (h : pack.signed = true) (hid : packState.deviceId = 1) :
    let s : State := packState;
    let k : Cmd := packCmd;
    let x : PackageView := pack;
    s.accepts k { op := 1286, gen := 3, mem := true } = true ∧ BitVec.toNat (k.par 1) % 32 = 0 ∧ k.topZero 1 52 = true ∧
    k.zeroFrom 2 = true ∧ s.packageAt (BitVec.toNat (k.par 0)) = some x ∧ x.signed = true ∧ x.ok = true ∧
    x.entry s.deviceId = none := by
  refine ⟨by decide +kernel, by decide +kernel, by decide +kernel, by decide +kernel, rfl, h, by decide +kernel, ?_⟩
  dsimp only [PackageView.entry]
  rw [hid]
  decide +kernel

theorem wit_packageBadTag (h : pack.signed = true) (hid : packState.deviceId = 0) (hp : pack.plain packState.secret 2080 = none) :
    let s : State := packState;
    let k : Cmd := packCmd;
    let x : PackageView := pack;
    let a := 2080;
    let h := 0x20000;
    let ls : List Leaf := [page 0x10000 0xE400000000020000];
    let p := s.cmdPart k;
    let va := BitVec.toNat (k.par 1);
    s.accepts k { op := 1286, gen := 3, mem := true } = true ∧ BitVec.toNat (k.par 1) % 32 = 0 ∧ k.topZero 1 52 = true ∧
    k.zeroFrom 2 = true ∧ s.packageAt (BitVec.toNat (k.par 0)) = some x ∧ x.signed = true ∧ x.ok = true ∧
    x.entry s.deviceId = some a ∧ s.translate p va x.length true = Except.ok ls ∧ (∀ l ∈ ls, l.kind = 0 ∧ l.prot = true) ∧
    s.crossErr = [] ∧ h % 32 = 0 ∧
    (∀ j < x.length / 32, (∃ (l : Leaf), s.leafAt p (va + 32 * j) = some l ∧ l.target (va + 32 * j) = Target.hbm (h + 32 * j)) ∧
      (s.stack (stackOf (h + 32 * j))).lost = false) ∧ x.plain s.secret a = none := by
  dsimp only
  refine ⟨by decide +kernel, by decide +kernel, by decide +kernel, by decide +kernel, rfl, h, by decide +kernel, pack_entry hid,
    by decide +kernel, by decide +kernel, rfl, by decide +kernel, ?_, hp⟩
  simp only [exists_some]
  decide +kernel

theorem wit_packageLoad (h : pack.signed = true) (hid : packState.deviceId = 0) (hp : pack.plain packState.secret 2080 = some (List.replicate 32 1)) :
    let s : State := packState;
    let k : Cmd := packCmd;
    let x : PackageView := pack;
    let a := 2080;
    let h := 0x20000;
    let ls : List Leaf := [page 0x10000 0xE400000000020000];
    let b : List Byte := List.replicate 32 1;
    let p := s.cmdPart k;
    let va := BitVec.toNat (k.par 1);
    s.accepts k { op := 1286, gen := 3, mem := true } = true ∧ BitVec.toNat (k.par 1) % 32 = 0 ∧ k.topZero 1 52 = true ∧
    k.zeroFrom 2 = true ∧ s.packageAt (BitVec.toNat (k.par 0)) = some x ∧ x.signed = true ∧ x.ok = true ∧
    x.entry s.deviceId = some a ∧ s.translate p va x.length true = Except.ok ls ∧ (∀ l ∈ ls, l.kind = 0 ∧ l.prot = true) ∧
    s.crossErr = [] ∧ h % 32 = 0 ∧
    (∀ j < x.length / 32, (∃ (l : Leaf), s.leafAt p (va + 32 * j) = some l ∧ l.target (va + 32 * j) = Target.hbm (h + 32 * j)) ∧
      (s.stack (stackOf (h + 32 * j))).lost = false) ∧ x.plain s.secret a = some b ∧ b.length = x.length := by
  dsimp only
  refine ⟨by decide +kernel, by decide +kernel, by decide +kernel, by decide +kernel, rfl, h, by decide +kernel, pack_entry hid,
    by decide +kernel, by decide +kernel, rfl, by decide +kernel, ?_, hp, by decide +kernel⟩
  simp only [exists_some]
  decide +kernel

theorem wit_updateBad :
    let s : State := base;
    let k := cmd 0x704 2 [0x1000, 64, 0];
    let v : Word64 := k.par 1;
    let scan : Bool := bit (k.par 2) 0;
    let image : List Byte := s.hostRead (BitVec.toNat (k.par 0)) (BitVec.toNat v);
    let most := (if scan = true then 40 else 16) * 2 ^ 20;
    s.accepts k { op := 1796, gen := 2, pf := true, dev := true } = true ∧ k.topZero 1 32 = true ∧ k.topZero 2 1 = true ∧
    k.zeroFrom 3 = true ∧ BitVec.toNat v ≤ most ∧ firmwareSigned image = false := by
  dsimp only
  and_intros <;> decide +kernel

theorem wit_update (h : firmwareSigned (base.hostRead 0x1000 2048) = true) :
    let s : State := base;
    let k := cmd 0x704 2 [0x1000, 2048, 1];
    let v : Word64 := k.par 1;
    let scan : Bool := bit (k.par 2) 0;
    let image : List Byte := s.hostRead (BitVec.toNat (k.par 0)) (BitVec.toNat v);
    let most := (if scan = true then 40 else 16) * 2 ^ 20;
    s.accepts k { op := 1796, gen := 2, pf := true, dev := true } = true ∧ k.topZero 1 32 = true ∧ k.topZero 2 1 = true ∧
    k.zeroFrom 3 = true ∧ BitVec.toNat v ≤ most ∧ firmwareSigned image = true ∧ s.recovery = false := by
  dsimp only
  and_intros <;> first | decide +kernel | exact h

theorem wit_updateRecovery (h : firmwareSigned (({ base with recovery := true, queues := [(0, queue0)] } : State).hostRead 0x1000 2048) = true) :
    let s : State := { base with recovery := true, queues := [(0, queue0)] };
    let k : Cmd := { cmd 0x704 2 [0x1000, 2048, 0] with queue := 0 };
    let v : Word64 := k.par 1;
    let scan : Bool := bit (k.par 2) 0;
    let image : List Byte := s.hostRead (BitVec.toNat (k.par 0)) (BitVec.toNat v);
    let most := (if scan = true then 40 else 16) * 2 ^ 20;
    s.accepts k { op := 1796, gen := 2, pf := true, dev := true } = true ∧ k.topZero 1 32 = true ∧ k.topZero 2 1 = true ∧
    k.zeroFrom 3 = true ∧ BitVec.toNat v ≤ most ∧ firmwareSigned image = true ∧ s.recovery = true ∧ scan = false := by
  dsimp only
  and_intros <;> first | decide +kernel | exact h

theorem wit_storeSame :
    let s : State := { base with nvm := { Nvm.reset with valid := true, stored := base.liveValues } };
    let k := cmd 0x703 1 [];
    let same : Bool := s.nvm.valid && List.all s.liveValues fun (x : ℕ × Word64) => decide (s.storedSetting x.1 = x.2);
    s.accepts k { op := 1795, gen := 1, pf := true, dev := true } = true ∧ k.zeroFrom 0 = true ∧ same = true := by
  dsimp only
  decide +kernel

theorem wit_reject :
    let s : State := { withRegion base with qps := (upFrom 0 256).map fun q => (1024 + q, some pair0) };
    let link := 3;
    s.on = true ∧ link < 4 ∧ s.linkUsed link = true ∧ s.pfc.get link false = false ∧ ∀ q < 256, s.qp link q ≠ none := by
  dsimp only
  decide +kernel

theorem wit_frameGood (h : openFrame keys0 0 (wire 1240).message = some frame0) :
    let s : State := linked keyedUp;
    let p := 0;
    let d : Wire := wire 1240;
    let y : KeySet := keys0;
    let f : Frame := frame0;
    let ph : Bool := bit (BitVec.ofNat 8 (fromLe (List.take 1 (List.drop 8 d.message)))) 0;
    let c := if ph = (s.port p).rxPhase then (s.port p).rxCount else 0;
    p < 16 ∧ (s.port p).st = PortSt.up ∧ wrongSymbols d 1024 ≤ 16 ∧ (s.port p).rxKeys ph = some y ∧
    openFrame y c d.message = some f ∧ s.slotNow p true = none ∧ bf f.route 10 5 = 0 ∧ bf f.ePos 31 26 = 0 := by
  dsimp only
  and_intros <;> first | decide +kernel | exact h

theorem wit_controlGood (h : openControl keys0 0 (wire 150).message = some []) :
    let s : State := linked keyedUp;
    let p := 0;
    let w : Wire := wire 150;
    let y : KeySet := keys0;
    let ts : List Word64 := [];
    let n := if controlPhase w.message = (s.port p).rxCtrlPhase then (s.port p).rxCtrl else 0;
    p < 16 ∧ (s.port p).st = PortSt.up ∧ wrongSymbols w 128 ≤ 4 ∧ (s.port p).rxKeys (controlPhase w.message) = some y ∧
    openControl y n w.message = some ts := by
  dsimp only
  and_intros <;> first | decide +kernel | exact h

theorem wit_imageRefused (h : imageSigned (base.hostRead 0x1000 2048) = true) :
    let s : State := base;
    let k := cmd 0x303 1 [0x1000, 2048];
    let img : Image := { image0 with slipInterval := 999 };
    let p := s.cmdPart k;
    let bytes : List Byte := s.hostRead (BitVec.toNat (k.par 0)) (BitVec.toNat (k.par 1));
    let got : Image := Image.withDigests img bytes;
    s.accepts k { op := 771, gen := 1 } = true ∧ aligned32 (k.par 0) = true ∧ k.topZero 1 40 = true ∧ k.zeroFrom 2 = true ∧
    imageSigned bytes = true ∧ s.imageOk p got = false := by
  dsimp only
  and_intros <;> first | decide +kernel | exact h

theorem wit_imageLoad (h : imageSigned (base.hostRead 0x1000 2048) = true) :
    let s : State := base;
    let k := cmd 0x303 1 [0x1000, 2048];
    let img : Image := image0;
    let p := s.cmdPart k;
    let bytes : List Byte := s.hostRead (BitVec.toNat (k.par 0)) (BitVec.toNat (k.par 1));
    let got : Image := Image.withDigests img bytes;
    s.accepts k { op := 771, gen := 1 } = true ∧ aligned32 (k.par 0) = true ∧ k.topZero 1 40 = true ∧ k.zeroFrom 2 = true ∧
    imageSigned bytes = true ∧ s.imageOk p got = true ∧ ∃ h < 65536, s.image h = none := by
  dsimp only
  and_intros <;> first | decide +kernel | exact h

theorem wit_accountGone :
    let s : State := linked up;
    let p := 0;
    let w0 : BitVec 64 := mcTok 1 9 (2 ^ 24);
    p < 16 ∧ bf w0 29 24 ≠ 0 ∧ s.quiet = false ∧ (s.port p).st = PortSt.up ∧ s.rxStreams = [] ∧
    ∀ (q : ℕ), (s.port q).txStreams = [] := by
  refine ⟨by decide, by decide +kernel, rfl, rfl, rfl, fun q => ?_⟩
  by_cases h : 0 = q <;> simp [State.port, linked, NMap.get, h, up, Port.reset]

theorem wit_windowSet :
    let s : State := base;
    let k := cmd 0x103 2 [255, 0x8000000000000000, 1];
    let p := s.cmdPart k;
    let va := BitVec.toNat (k.par 0);
    let len := BitVec.toNat (k.par 2);
    s.accepts k { op := 259, gen := 2 } = true ∧ k.topZero 0 8 = true ∧ k.zeroFrom 3 = true ∧ bit (k.par 1) 63 = true ∧
    bf (k.par 1) 57 52 = 0 ∧ bf (k.par 1) 15 0 = 0 ∧ 1 ≤ len ∧ len ≤ 262144 ∧ bf (k.par 1) 61 58 = p ∧
    bit (s.window va).w0 63 = false ∧
    ∃ (ls : List Leaf), s.translateEngine p (bf (k.par 1) 51 0) (len * 65536) false = Except.ok ls := by
  dsimp only
  and_intros <;> first | decide +kernel | exact ⟨[page 0 0xC400000000010000], by decide +kernel⟩

theorem wit_lookup :
    let s : State := base;
    let k := cmd 0x301 1 [0, 0x40000000];
    let p := s.cmdPart k;
    let cores := (upFrom 0 8).map fun c => (0, c);
    let vas := [0];
    let u := base.started k;
    let ws : List (List Word64) := [List.replicate 8 0];
    let group := false;
    let cls := clustersHolding (cores.map (·.2));
    s.accepts k { op := 769, gen := 1, fw := false, mem := true } = true ∧ s.unitIn (k.unitAt 1) p (s.cmdFn k) = true ∧
    k.topZero 0 52 = true ∧ k.topZero 1 32 = true ∧ k.zeroFrom 2 = true ∧ (∀ d, unitOf (k.unitAt 1) ≠ .device d) ∧
    unitOf (k.unitAt 1) ≠ .reserved ∧ (k.par 0).toNat % 32 = 0 ∧ s.resolve (k.unitAt 1) true = .ok cores ∧
    (group = true ↔ ∃ n, unitOf (k.unitAt 1) = .group n) ∧
    (s.started k).blockAddresses p (k.par 0).toNat group cls.length = .ok (vas, false, u) ∧ (∀ a ∈ vas, a % 32 = 0) ∧
    ∃ v, u.readBlocks p vas = .ok (ws, false, v) := by
  dsimp only
  refine ⟨by decide +kernel, by decide +kernel, by decide +kernel, by decide +kernel, by decide +kernel, ?_, by decide +kernel,
    by decide +kernel, by decide +kernel, ?_, by decide +kernel, by decide +kernel, ⟨base.started (cmd 0x301 1 [0, 0x40000000]), by decide +kernel⟩⟩
  · simp only [not_device]; decide +kernel
  · have e : unitOf ((cmd 0x301 1 [0, 0x40000000]).unitAt 1) = .cluster 0 0 := by decide +kernel
    rw [e]; simp

/-- `base` with 32,768 tables in use by partition 1. -/
def manyLeaves : List Leaf :=
  (List.range 32768).map fun i => { part := 1, va := i * 2 ^ 28, big := false, entry := 0x8400000000000000 }

theorem nodup_le_eraseDups {α : Type} [DecidableEq α] (l : List α) (h : l.Nodup) : l.length ≤ l.eraseDups.length :=
  (h.subperm fun _ hx => List.mem_eraseDups.mpr hx).length_le

theorem nodup_thirds : (manyLeaves.map fun l => (l.part, l.va / 2 ^ 28)).Nodup := by
  rw [manyLeaves, List.map_map]
  refine List.Nodup.map (fun i j e => ?_) List.nodup_range
  simp only [Function.comp, Prod.mk.injEq, true_and] at e
  rwa [Nat.mul_div_cancel _ (by decide), Nat.mul_div_cancel _ (by decide)] at e

theorem tables_many (ls : List Leaf) : 32768 < tablesUsed (manyLeaves ++ ls) := by
  unfold tablesUsed
  have one : ∀ m : List Nat, 0 < m.length → 0 < m.eraseDups.length := by
    intro m hm
    obtain ⟨x, hx⟩ := List.exists_mem_of_length_pos hm
    exact List.length_pos_of_mem (List.mem_eraseDups.mpr hx)
  have a := one ((manyLeaves ++ ls).map (·.part)) (by simp [manyLeaves])
  have f : manyLeaves.filter (fun l => !l.big) = manyLeaves := by
    rw [List.filter_eq_self]
    intro l hl
    simp only [manyLeaves, List.mem_map] at hl
    obtain ⟨i, -, rfl⟩ := hl
    rfl
  have b : 32768 ≤ ((((manyLeaves ++ ls).filter fun l => !l.big).map fun l => (l.part, l.va / 2 ^ 28)).eraseDups).length := by
    have n := nodup_thirds
    have e : (manyLeaves.map fun l => (l.part, l.va / 2 ^ 28)).length = 32768 := by simp [manyLeaves]
    rw [← e]
    refine (n.subperm fun x hx => List.mem_eraseDups.mpr ?_).length_le
    rw [List.filter_append, f, List.map_append]
    exact List.mem_append_left _ hx
  omega

theorem many_other (l : Leaf) (hl : l ∈ manyLeaves) (h : l.part = 0) : False := by
  obtain ⟨i, -, rfl⟩ := List.mem_map.mp hl
  exact Nat.one_ne_zero h

theorem wit_mapFull :
    let s : State := { base with leaves := manyLeaves };
    let k := cmd 0x100 1 [0xFFFFFFFFF0000, 0xC400000000030000, 2];
    let p := s.cmdPart k;
    let va := BitVec.toNat (k.par 0);
    let e : Word64 := k.par 1;
    let n := bf (k.par 2) 20 1;
    let size := if bit (k.par 2) 0 = true then 2 ^ 28 else 2 ^ 16;
    let a := bf e 51 16 * 65536;
    s.accepts k { op := 256, gen := 1 } = true ∧ k.topZero 0 52 = true ∧ k.topZero 2 21 = true ∧ k.zeroFrom 3 = true ∧ 1 ≤ n ∧
    va % size = 0 ∧ bit e 63 = true ∧ bit e 58 = true ∧ bf e 53 52 = 0 ∧ bf e 15 0 = 0 ∧ va + n * size ≤ 2 ^ 52 ∧ bf e 57 54 = p ∧
    a + (n - 1) * size < 2 ^ 52 ∧ (bf e 60 59 = 3 → windowRun a n size = true) ∧
    (∀ i < n, s.targetOk p (bf e 60 59) (a + i * size) size = true) ∧
    (∀ l ∈ s.leaves, l.part = p → l.meets va (n * size) = false) ∧ 32768 < tablesUsed (s.leaves ++ mapLeaves p va n size e) := by
  dsimp only
  and_intros <;> first
    | exact tables_many _
    | exact fun l hl hp => (many_other l hl (hp.trans (by decide +kernel))).elim
    | decide +kernel

end Sys2Proof.Tests
end

section
/-!
PROOFS. O47: a PARTITION_RESET that finds a pre-empted job behind one that is still to start. The end of the first job lets the
second restore (R516), so that its units work when its own turn to be stopped comes, and the reset has to wait for its end.
-/

namespace Sys2Proof.Machine

open Sys2Proof

/-! ### PARTITION_RESET that is due -/

/-- A PARTITION_RESET that is due and whose parameters are 0 asks for the reset of the partition that its packet names (R510). -/
theorem exec_partitionReset (s : State) (k : Cmd) (h : s.accepts k { op := 0x0005, gen := 2, pf := true } = true)
    (hz : k.zeroFrom 0 = true) :
    exec (.partitionReset k) s = .next ((s.started k).askReset ((s.started k).cmdPart k) (some k)) := by
  show execPartitionReset k s = _
  unfold execPartitionReset
  rw [hz, State.runCmd_accepts s k _ _ h]
  rfl

/-! ### A pre-empted job behind a starting one -/

namespace ResetBehindStart

/-- PARTITION_RESET of partition 0 in generation 2, from queue 20, without a job slot. -/
def resetCmd : Cmd :=
  { queue := 20, hdr := BitVec.ofNat 128 (0x0005 * 2 ^ 112 + 2 * 2 ^ 110 + 6 * 2 ^ 107 + 15 * 2 ^ 99),
    p0 := 0, p1 := 0, p2 := 0, p3 := 0, p4 := 0, p5 := 0 }

/-- An image for this device alone: one stream, on group 0 of core 0. -/
def oneCore : Image :=
  { digest := 5, signer := 0, generation := 3, slipInterval := 1000, horizon := 1, reproducible := true, devices := [0],
    streams := [{ device := 0, core := 0, half := none, groups := [0], base := 0, entry := 0, fixed := false, ring := [],
                  code := List.replicate 8 0, startTick := 0 }],
    steps := [{ tick := 500, boundary := false }], slipPoints := [600], cheaps := [], windows := [], hbmStacks := [],
    wcets := [700], slots := [], mcasts := [], templates := [{ capacity := [] }], spans := [], sems := [],
    dmaQueues := [], replay := [], snapStore := [], replayBufs := [], gen := none }

/-- A job of that image, loaded as image 1. -/
def jobIn (number : Word32) (phase : JobPhase) : Job := { newJob number 0 1 0 700 0 [] false CntTags.none with phase := phase }

/-- Partition 0 owns cluster 0 and holds two jobs on the same core: in slot 0 one that is starting, in slot 1 one that was
pre-empted for it. Queue 20 runs. -/
def found : State :=
  { State.reset with tick := 100, ready := true, linkUp := true,
                     parts := [(0, { Part.reset with recWords := [0x1, 0, 0, 0, 0, 0, 0, 0, 0, 0] })],
                     queues := [(20, { HQueue.reset with st := .running, sq := 0x100004, cq := 0x200004 })],
                     images := [(1, some { part := 0, img := oneCore })],
                     jobs := [(0, some (jobIn 0x10001 .starting)), (1, some (jobIn 0x10002 .preempted))] }

/-- No unit works for either job, neither is an active job of several devices, and no end of either is set. -/
theorem found_jobs (j : Nat) (b : Job) (hb : found.job j = some b) :
    b.onUnits = false ∧ (b.active = false ∨ found.spans b = false) ∧ b.ending = none := by
  simp only [found, State.job, NMap.get_cons, NMap.get_nil] at hb
  split_ifs at hb
  · obtain rfl := Option.some.inj hb
    exact ⟨rfl, .inr (by decide +kernel), rfl⟩
  · obtain rfl := Option.some.inj hb
    exact ⟨rfl, .inl rfl, rfl⟩

/-- The abort of the starting job frees its core, so the job in slot 1 is chosen to restore (R516) before its own turn comes: the
reset then sets its end for a schedule tick and leaves it held (R71, R522). -/
theorem held_after_reset :
    (((found.started resetCmd).askReset ((found.started resetCmd).cmdPart resetCmd) (some resetCmd)).job 1).map
      (fun b => (b.phase, b.ending.map (·.status))) = some (.restoring, some Status.jobAborted) := by
  decide +kernel

end ResetBehindStart

open ResetBehindStart in
/-- Refutes O47: a PARTITION_RESET of a partition for whose jobs no unit works does not always end every one of them in its own
step. In `found` one is pre-empted, and the abort of the other sets it to restore, so that the reset waits for its end. -/
theorem not_partitionAndGroupCommands : ¬ Obligations.PartitionAndGroupCommands := by
  unfold Obligations.PartitionAndGroupCommands
  intro h
  obtain ⟨-, hreset, -⟩ := h found resetCmd
  have due : found.accepts resetCmd { op := 0x0005, gen := 2, pf := true } = true := by decide +kernel
  have zero : resetCmd.zeroFrom 0 = true := by decide +kernel
  obtain ⟨t, ht, -, gone, -⟩ := (hreset due zero).1 fun j b _ hb => found_jobs j b hb
  rw [exec_partitionReset found resetCmd due zero] at ht
  obtain rfl := Host.Outcome.next.inj ht
  have held := held_after_reset
  rw [gone 1 (by decide +kernel)] at held
  exact nomatch held

end Sys2Proof.Machine
end

section
/-!
PROOFS. O43: register accesses of a module that is on (R13, R65, R454, R455, R565, R566). First what each instruction does, then
what its shared operations leave: the answer of a read, the words of an admin ring, the latch of FAB_TIMESTAMP, a debug access.
-/

namespace Sys2Proof.Machine

open Sys2Proof

/-! ### The error ring (R454, R455) -/

/-- A ring word without slots holds a value of its map. -/
theorem log2Ok_of_zero {v : Word64} (h : bf v 4 0 = 0) : log2Ok v = true := by simp [log2Ok, h]

/-- HIF_ERR_RING takes a word whose LOG2_SLOTS is a value of its map, and one that configures the ring sets HEAD and TAIL to 0. -/
theorem exec_hifErrRingWrite {s : State} {v : Word64} (hon : s.on = true) (hv : log2Ok v = true) :
    exec (.hifErrRingWrite v) s =
      .next (if bf v 4 0 = 0 then { s with errRing := ringWord v false }
        else { s with errRing := ringWord v false, errHead := 0, errTail := 0 }) := by
  show execHifErrRingWrite v s = _
  simp [execHifErrRingWrite, hon, hv]

theorem exec_hifErrPtrsRead {s : State} (hon : s.on = true) :
    exec .hifErrPtrsRead s =
      .next ({ s with errDropped := 0 }.answerRead (leBytes 8 (s.errDropped * 2 ^ 48 + s.errTail * 2 ^ 16 + s.errHead))) := by
  show execHifErrPtrsRead s = _
  simp [execHifErrPtrsRead, hon]

/-! ### Reads that answer with bytes -/

@[simp] theorem State.answerRead_bytes (s : State) (b : List Byte) : (s.answerRead b).readOut.map (·.bytes) = some b := rfl
@[simp] theorem State.answerRead_tsLatch (s : State) (b : List Byte) : (s.answerRead b).tsLatch = s.tsLatch := rfl
@[simp] theorem State.answerRead_dbgCount (s : State) (b : List Byte) : (s.answerRead b).dbgCount = s.dbgCount := rfl
@[simp] theorem State.answerRead_cores (s : State) (b : List Byte) : (s.answerRead b).cores = s.cores := rfl

/-! ### FAB_TIMESTAMP (R65) -/

/-- The state with function `f`'s latch of bits [63:32] holding `x`, or with none. -/
def State.latchStamp (s : State) (f : Nat) (x : Option Word32) : State := { s with tsLatch := NMap.set s.tsLatch f x none }

@[simp] theorem State.latchStamp_get (s : State) (f : Nat) (x : Option Word32) : NMap.get (s.latchStamp f x).tsLatch f none = x :=
  NMap.get_set_same _ _ _ _

section
variable {s : State} {f : Nat} (hon : s.on = true) (hf : f < 17)
include hon hf

theorem exec_fabTimestampRead_full :
    exec (.fabTimestampRead f .full) s = .next ((s.used 1).answerRead (leBytes 8 s.stamp.toNat)) := by
  show execFabTimestampRead f .full s = _
  simp [execFabTimestampRead, hon, hf]

theorem exec_fabTimestampRead_low :
    exec (.fabTimestampRead f .low) s =
      .next (((s.used 1).latchStamp f (some (BitVec.ofNat 32 (bf s.stamp 63 32)))).answerRead (leBytes 4 (bf s.stamp 31 0))) := by
  show execFabTimestampRead f .low s = _
  simp [execFabTimestampRead, hon, hf, State.latchStamp]

theorem exec_fabTimestampRead_high {x : Word32} (hx : NMap.get s.tsLatch f none = some x) :
    exec (.fabTimestampRead f .high) s = .next ((s.latchStamp f none).answerRead (leBytes 4 x.toNat)) := by
  show execFabTimestampRead f .high s = _
  simp [execFabTimestampRead, hon, hf, hx, State.latchStamp]

end

/-! ### REGISTER_WRITE by its offset (R13, R451, R454) -/

/-- Function 0 writes the map of the physical function. -/
theorem exec_registerWrite_pf {s : State} (off : Nat) (v : Word64) (hon : s.on = true) :
    exec (.registerWrite 0 off v) s = .next (s.writePf off v) := by
  show execRegisterWrite 0 off v s = _
  simp [execRegisterWrite, hon]

/-- HIF_STATUS takes no write. -/
theorem State.writePf_hifStatus (s : State) (v : Word64) : s.writePf 0 v = s := by simp [State.writePf]

theorem State.writePf_errRoute (s : State) (v : Word64) : s.writePf 0x18 v = { s with errRoute := errRouteWord v } := by
  simp [State.writePf]

theorem State.writePf_errHead (s : State) (v : Word64) : s.writePf 0x28 v = { s with errHead := bf v 15 0 } := by
  simp [State.writePf]

theorem State.writePf_adminSq (s : State) (v : Word64) : s.writePf 0x100 v = s.writeRing 0 false v := by simp [State.writePf]

theorem State.writePf_hbmCtl (s : State) {v : Word64} (hv : hbmCtlOk v = true) :
    s.writePf 0x3200 v = { s with hbmCtl := hbmCtlWord v } := by
  simp [State.writePf, hv]

/-- DBG_CORE_FLAGS, DBG_CORE_EXC and DBG_CORE_EXC_ADDR hold one word for each group, 64 KiB for each register. -/
theorem State.writePf_dbgCore (s : State) {reg c g : Nat} (v : Word64) (hr : reg < 3) (hc : c < 384) (hg : g < 16) :
    s.writePf ((reg + 1) * 0x10000 + 128 * c + 8 * g) v = s.writeDbgCore reg c g v := by
  obtain ⟨off, hoff⟩ : ∃ off, off = (reg + 1) * 0x10000 + 128 * c + 8 * g := ⟨_, rfl⟩
  have here : 0x10000 ≤ off ∧ off < 0x40000 ∧ off % 8 = 0 ∧ off % 0x10000 / 128 < 384 := by omega
  have hreg : off / 0x10000 - 1 = reg := by omega
  have hcore : off % 0x10000 / 128 = c := by omega
  have hgrp : off % 128 / 8 = g := by omega
  rw [← hoff, State.writePf, if_neg (by omega), if_neg (by omega), if_neg (by omega), if_neg (by omega), if_neg (by omega),
    if_neg (by omega), if_pos here, hreg, hcore, hgrp]

/-! ### The admin rings (R451, R457) -/

@[simp] theorem State.adminOf_setAdmin (s : State) (f : Nat) (a : AdminRegs) : (s.setAdmin f a).adminOf f = a :=
  NMap.get_set_same _ _ _ _

/-- The submission ring's word stands at one offset for every function, the physical one among them. -/
theorem exec_registerWrite_adminSq {s : State} {f : Nat} (v : Word64) (hon : s.on = true) (hf : f < 17) :
    exec (.registerWrite f 0x100 v) s = .next (s.writeRing f false v) := by
  rcases Nat.eq_zero_or_pos f with rfl | hpos
  · rw [exec_registerWrite_pf _ _ hon, State.writePf_adminSq]
  · show execRegisterWrite f 0x100 v s = _
    simp [execRegisterWrite, hon, hf, hpos.ne']

/-- A submission ring's word is placed without its reserved bits; the function's other words stay. -/
theorem State.adminOf_writeRing_sq (s : State) (f : Nat) {v : Word64} (hv : log2Ok v = true) :
    (s.writeRing f false v).adminOf f = { s.adminOf f with sq := ringWord v true } := by
  simp [State.writeRing, hv]

/-! ### The debug registers of a group (R565, R566) -/

/-- The debug access of a core counts for the module and for the partition that owns the core, if any, and changes nothing else. -/
theorem State.debugCore_frame (s : State) (c : Nat) :
    s.debugCore c = { s with parts := (s.debugCore c).parts, dbgCount := satN 40 (s.dbgCount + 1) } := by
  unfold State.debugCore State.debugAccess
  dsimp only
  rw [(State.foldl_dbg _ s).1]

@[simp] theorem State.debugCore_dbgCount (s : State) (c : Nat) : (s.debugCore c).dbgCount = satN 40 (s.dbgCount + 1) := by
  rw [State.debugCore_frame]

@[simp] theorem State.debugCore_cores (s : State) (c : Nat) : (s.debugCore c).cores = s.cores := by rw [State.debugCore_frame]

@[simp] theorem State.debugCore_grp (s : State) (c c' g' : Nat) : (s.debugCore c).grp c' g' = s.grp c' g' := by
  rw [State.debugCore_frame]; rfl

/-- A write to DBG_CORE_FLAGS: the flags written as 1 are cleared in one group, after the access is counted. -/
theorem State.writeDbgCore_flags (s : State) (c g : Nat) (v : Word64) :
    s.writeDbgCore 0 c g v =
      (s.debugCore c).modGrp c g fun x => { x with flags := x.flags &&& ~~~(BitVec.ofNat 5 (bf v 4 0)) } := rfl

/-- The value of DBG_CORE_FLAGS, DBG_CORE_EXC or DBG_CORE_EXC_ADDR of a group, by the register's number. -/
def Grp.debugWord (x : Grp) (reg : Nat) : Nat :=
  if reg = 0 then x.flags.toNat else if reg = 1 then x.exc.toNat else x.excAddr.toNat

theorem exec_dbgCoreRegisterRead {s : State} {reg c g : Nat} (hon : s.on = true) (hr : reg < 3) (hc : c < 384) (hg : g < 16) :
    exec (.dbgCoreRegisterRead 0 reg c g) s = .next ((s.debugCore c).answerRead (leBytes 8 ((s.grp c g).debugWord reg))) := by
  have unit : ¬ (17 ≤ 0 ∨ 3 ≤ reg ∨ 384 ≤ c ∨ 16 ≤ g) := by omega
  show execDbgCoreRegisterRead 0 reg c g s = _
  rw [execDbgCoreRegisterRead, if_neg unit, hon]
  match reg with
  | 0 | 1 | _ + 2 => rfl

/-! ### The obligation -/

/-- FAB_TIMESTAMP's clauses: the whole value, its low half with the latch, and the latched high half. -/
theorem fabTimestamp_reads {s : State} (hon : s.on = true) (f : Nat) (hf : f < 17) :
    (∃ t, exec (.fabTimestampRead f .full) s = .next t ∧ t.readOut.map (·.bytes) = some (leBytes 8 s.stamp.toNat)) ∧
    (∃ t, exec (.fabTimestampRead f .low) s = .next t ∧ t.readOut.map (·.bytes) = some (leBytes 4 (bf s.stamp 31 0)) ∧
      NMap.get t.tsLatch f none = some (BitVec.ofNat 32 (bf s.stamp 63 32))) ∧
    (∀ x, NMap.get s.tsLatch f none = some x → ∃ t, exec (.fabTimestampRead f .high) s = .next t ∧
      t.readOut.map (·.bytes) = some (leBytes 4 x.toNat) ∧ NMap.get t.tsLatch f none = none) :=
  ⟨⟨_, exec_fabTimestampRead_full hon hf, State.answerRead_bytes _ _⟩,
    ⟨_, exec_fabTimestampRead_low hon hf, State.answerRead_bytes _ _, by simp⟩,
    fun _ hx => ⟨_, exec_fabTimestampRead_high hon hf hx, State.answerRead_bytes _ _, by simp⟩⟩

/-- A write of a submission ring's word changes that word and leaves the completion ring's. -/
theorem registerWrite_adminSq {s : State} (hon : s.on = true) (f : Nat) (v : Word64) (hf : f < 17) (hv : log2Ok v = true) :
    ∃ t, exec (.registerWrite f 0x100 v) s = .next t ∧
      (t.adminOf f).sq = ringWord v true ∧ (t.adminOf f).cq = (s.adminOf f).cq := by
  refine ⟨_, exec_registerWrite_adminSq v hon hf, ?_⟩
  rw [State.adminOf_writeRing_sq s f hv]
  exact ⟨rfl, rfl⟩

/-- A write to DBG_CORE_FLAGS clears flags of one group, counts as a debug access and leaves every other group. -/
theorem registerWrite_dbgCoreFlags {s : State} (hon : s.on = true) (c g : Nat) (v : Word64) (hc : c < 384) (hg : g < 16) :
    ∃ t, exec (.registerWrite 0 (0x10000 + 128 * c + 8 * g) v) s = .next t ∧
      (t.grp c g).flags = (s.grp c g).flags &&& ~~~(BitVec.ofNat 5 (bf v 4 0)) ∧ t.dbgCount = satN 40 (s.dbgCount + 1) ∧
      (∀ c' g', c' ≠ c ∨ g' ≠ g → t.grp c' g' = s.grp c' g') := by
  refine ⟨_, exec_registerWrite_pf _ v hon, ?_⟩
  rw [show 0x10000 + 128 * c + 8 * g = (0 + 1) * 0x10000 + 128 * c + 8 * g by omega,
    State.writePf_dbgCore s v (by decide) hc hg, State.writeDbgCore_flags]
  refine ⟨?_, by simp, fun c' g' h => ?_⟩
  · rw [State.grp_modGrp, State.debugCore_grp]
  · rw [State.grp_modGrp_other _ _ h, State.debugCore_grp]

/-- Settles O43, register by register: each clause is the equation of its instruction and what the operation behind it leaves. -/
theorem registerAccesses : Obligations.RegisterAccesses := by
  unfold Obligations.RegisterAccesses
  intro s hon
  refine ⟨fun v hv hslots => ?errRing, fun v hslots => ?errRingNone, exec_hifErrPtrsRead hon, fabTimestamp_reads hon,
    fun v => ?errRoute, fun v => ?errHead, fun v => ?noRegister, fun v hv => ?hbmCtl, registerWrite_adminSq hon,
    registerWrite_dbgCoreFlags hon, fun reg c g hr hc hg => ?dbgRead⟩
  case errRing => rw [exec_hifErrRingWrite hon hv, if_neg hslots]
  case errRingNone => rw [exec_hifErrRingWrite hon (log2Ok_of_zero hslots), if_pos hslots]
  case errRoute => rw [exec_registerWrite_pf _ _ hon, State.writePf_errRoute]
  case errHead => rw [exec_registerWrite_pf _ _ hon, State.writePf_errHead]
  case noRegister => rw [exec_registerWrite_pf _ _ hon, State.writePf_hifStatus]
  case hbmCtl => rw [exec_registerWrite_pf _ _ hon, State.writePf_hbmCtl s hv]
  case dbgRead =>
    exact ⟨_, exec_dbgCoreRegisterRead hon hr hc hg, State.answerRead_bytes _ _, by simp, by simp⟩

end Sys2Proof.Machine
end

section
/-!
PROOFS. O9: the mask stack (R174). First what a legal instruction on the registers of its group comes to, whether it leaves the group
changed or raises an exception; then each mask instruction by what it finds on the stack.
-/

namespace Sys2Proof.Machine

open Sys2Proof

/-! ### An instruction of a group without vector operands -/

/-- A group at the next index, all else as in `y`. -/
def Grp.advanced (y : Grp) : Grp := { y with pc := y.pc + 1 }

section
variable {s : State} {c g pipe : Nat} {body : State → Eff} (h : s.offers c g [])
include h

/-- An instruction whose effect is a new value of its group: the group takes it and goes on. -/
theorem State.issue_setGrp {y : Grp} (hb : body s = .next (s.setGrp c g y)) :
    Ran s c g y.advanced false (s.issue c g pipe true [] [] body) := by
  rw [State.issue_offers s c g pipe [] [] [] body h nofun nofun, hb]
  exact State.settle_regs s c g pipe false 0 fun _ => y

/-- An instruction that raises an exception has no effect of its own (R203). -/
theorem State.issue_exc {code addr : Nat} {lanes : Word32} (hb : body s = .exc code lanes addr) :
    s.issue c g pipe true [] [] body = .next (s.except c g code lanes addr) := by
  rw [State.issue_offers s c g pipe [] [] [] body h nofun nofun, hb]
  rfl

end

/-! ### The mask instructions (R174) -/

section
variable {s : State} {c g : Nat} {w : IWord} (h : s.offers c g [])
include h

section
variable (legal : (lowControl w 1 8 && fImm w = 0) = true)
include legal

theorem exec_maskPush (room : (s.grp c g).stack.length < 16) :
    Ran s c g (Grp.advanced { s.grp c g with stack := (s.grp c g).mask :: (s.grp c g).stack, mask := (s.grp c g).anyLanes w }) false
      (exec (.maskPush c g w) s) := by
  show Ran s c g _ false (execMaskPush c g w s)
  rw [execMaskPush, legal]
  exact State.issue_setGrp h (if_neg (Nat.not_le.mpr room))

theorem exec_maskPush_full (full : 16 ≤ (s.grp c g).stack.length) :
    exec (.maskPush c g w) s = .next (s.except c g Exc.maskOverflow allLanes 0) := by
  show execMaskPush c g w s = _
  rw [execMaskPush, legal]
  exact State.issue_exc h (if_pos full)

end

variable (legal : (lowControl w 1 1 && fImm w = 0) = true)
include legal

theorem exec_maskElse {t : Word32} {r : List Word32} (top : (s.grp c g).stack = t :: r) :
    Ran s c g (Grp.advanced { s.grp c g with mask := t &&& ~~~(s.grp c g).mask }) false (exec (.maskElse c g w) s) := by
  show Ran s c g _ false (execMaskElse c g w s)
  rw [execMaskElse, legal]
  exact State.issue_setGrp h (by simp only [top])

theorem exec_maskElse_empty (empty : (s.grp c g).stack = []) :
    exec (.maskElse c g w) s = .next (s.except c g Exc.maskUnderflow allLanes 0) := by
  show execMaskElse c g w s = _
  rw [execMaskElse, legal]
  exact State.issue_exc h (by simp only [empty])

theorem exec_maskPop {t : Word32} {r : List Word32} (top : (s.grp c g).stack = t :: r) :
    Ran s c g (Grp.advanced { s.grp c g with mask := t, stack := r }) false (exec (.maskPop c g w) s) := by
  show Ran s c g _ false (execMaskPop c g w s)
  rw [execMaskPop, legal]
  exact State.issue_setGrp h (by simp only [top])

theorem exec_maskPop_empty (empty : (s.grp c g).stack = []) :
    exec (.maskPop c g w) s = .next (s.except c g Exc.maskUnderflow allLanes 0) := by
  show execMaskPop c g w s = _
  rw [execMaskPop, legal]
  exact State.issue_exc h (by simp only [empty])

end

/-! ### The obligation -/

/-- Settles O9, instruction by instruction: what each does to the group, and its exception on a full or an empty stack. -/
theorem maskStack : Obligations.MaskStack := by
  unfold Obligations.MaskStack
  intro s c g w h x done
  have goesOn : ∀ {y : Grp} {o}, Ran s c g y.advanced false o → y.pc = x.pc → done y o := by
    rintro y o ⟨t, ho, hgrp, regs⟩ samePc
    rw [Grp.advanced, samePc] at hgrp
    exact ⟨t, ho, by rw [hgrp, ← samePc], fun _ => by rw [hgrp], regs⟩
  refine ⟨fun legal => ⟨fun room => ?onPush, fun full => exec_maskPush_full h legal full⟩,
    fun legal => ⟨fun t r top => ⟨?onElse, ?onPop⟩,
      fun empty => ⟨exec_maskElse_empty h legal empty, exec_maskPop_empty h legal empty⟩⟩⟩
  case onPush => exact goesOn (exec_maskPush h legal room) rfl
  case onElse => exact goesOn (exec_maskElse h legal top) rfl
  case onPop => exact goesOn (exec_maskPop h legal top) rfl

end Sys2Proof.Machine
end
